-- ==== Sys2Proof/Word.lean ====
section
/-! DEFINITION. The words of the Filorif FP2-M: bytes, 32-bit and 64-bit words, and the sparse table type in
which everything that is indexed by a number is held. -/

namespace Sys2Proof

/-- One byte. -/
abbrev Byte := BitVec 8

/-- A 32-bit word: a register (R12), a token identifier, an FP32 or INT32 bit pattern. -/
abbrev W32 := BitVec 32

/-- A 64-bit word: a ring-entry word (R429), a scalar register (R115). -/
abbrev W64 := BitVec 64

/-- A sparse table: keys strictly rising and no entry equal to the table's default (see `SMap.get`). -/
abbrev SMap (α : Type) := List (Nat × α)

end Sys2Proof
end

