-- ==== Sys2Proof/Syntax.lean ====
section
/-! DEFINITION. The commands of the FP2-M: one constructor of `Instr` per row of spec/opcode_table.json, with the
row's operands. A ring entry is its 32 words (R429) and the bytes the device reads for it by DMA; a reckoner
instruction is the operand fields of its instruction word (R126); an event of a link, a pin or the surroundings
carries what arrived or was measured. -/

namespace Sys2Proof

/-- A thread context (R115): its frame by frame index (R23), its core and its number. -/
structure ThreadId where
  frame : Fin 384
  core : Fin 4
  ctx : Fin 16
deriving DecidableEq, Repr

/-- The fields of an instruction word below CLASS and OP (R126, Table 4-2), and its V bit. -/
structure Insn where
  v : Bool
  d : BitVec 5
  a : BitVec 5
  b : BitVec 5
  c : BitVec 5
  mask : BitVec 3
  ty : BitVec 5
  imm : BitVec 22
deriving DecidableEq, Repr

/-- The 32 words of a submission entry (R429); a word not listed reads 0. -/
abbrev Entry := List W64

/-- What a DMA read of host memory brought: the bytes, or none when the read completed with an error (R430). -/
abbrev HostRead := Option (List Byte)

/-- A half of the die (R21). -/
inductive Half where
  | west | east
deriving DecidableEq, Repr

/-- A physical frame position (R21). -/
structure Pos where
  half : Half
  prow : Fin 16
  pcol : Fin 13
deriving DecidableEq, Repr

/-- What the keeper measured in one 1 ms interval (Table 16-3, Table 16-7). -/
structure Telemetry where
  input : BitVec 16
  wtj : BitVec 8
  etj : BitVec 8
  stj : BitVec 8
  plate : BitVec 8
deriving DecidableEq, Repr

/-- A command on the sideband bus that no row of its own carries: a message with another code than those of Table 19-6, and the assignment
of a dynamic address by ENTDAA or SETAASA (Table 19-5). -/
inductive SbCommand where
  | message (code : Byte)
  | entdaa (addr : BitVec 7)
  | setaasa
deriving DecidableEq, Repr

/-- The wake events of R470. -/
inductive WakeCause where
  | doorbell | barWrite | cell | sideband (c : SbCommand) | thermal | alarm
deriving DecidableEq, Repr

/-- A PCI Express memory access to BAR0, or to BAR2 (Table 14-2): byte offset and length in bytes (R12). -/
structure BarAccess where
  offset : BitVec 25
  bytes : Nat
  bar2 : Bool := false
deriving DecidableEq, Repr

/-- A write into a doorbell page of BAR2 (R426): offset in the page, length in bytes, value. -/
structure DbWrite where
  offset : BitVec 12
  bytes : Nat
  value : W64
deriving DecidableEq, Repr

/-- A PCI Express configuration request: a read or a write of a double word, or a write that sets the power state to D0 or D3hot
(Table 14-1) or MSI-X Enable and Function Mask (R440, R500), whose registers no rule places. -/
inductive ConfigReq where
  | read (reg : BitVec 10)
  | write (reg : BitVec 10) (value : W32)
  | power (d3hot : Bool)
  | msixControl (enable mask : Bool)
deriving DecidableEq, Repr

/-- What an SPDM requester asks of the responder besides opening and closing sessions (R460). -/
inductive SpdmGet where
  | version | capabilities | algorithms
  | certificate (slot : BitVec 8)
  | challenge (slot : BitVec 8) (nonce : List Byte)
  | measurements (block : BitVec 8) (nonce : List Byte)
  | keyUpdate (session : Nat)
deriving DecidableEq, Repr

/-- An IDE stream: the link stream, or selective stream 0 to 3 (R422). -/
inductive IdeStream where
  | link
  | selective (k : Fin 4)
deriving DecidableEq, Repr

/-- The secrets that travel in SPDM VENDOR_DEFINED_REQUEST messages (R452). -/
inductive VendorSecret where
  | cak (ckn : BitVec 16) (key : List Byte)
  | fabricKey (key : List Byte)
deriving DecidableEq, Repr

/-- What the environment contributes to a step boundary (R489, R491): the tested positions whose known-answer
test failed, and the words of a moving store that were lasting-uncorrectable. -/
structure BoundaryEnv where
  failed : List Pos := []
  lostWords : List (Fin 384 × Nat) := []
deriving DecidableEq, Repr

/-- What a scrub finished with (R263): a page of a slot's pool, or a table-zone block. -/
inductive ScrubItem where
  | page (slot : Fin 2) (addr : Nat)
  | block (n : Nat)
deriving DecidableEq, Repr

/-- A mesh packet (R181, R182): class, region tag, logical source and destination, flits, and for a read its
128-byte-aligned address and length (R185). -/
structure Packet where
  cls : Fin 4
  tag : Fin 4
  srcCol : Nat
  srcRow : Fin 16
  dstCol : Nat
  dstRow : Fin 16
  read : Option (Nat × Nat)
  flits : Nat
deriving DecidableEq, Repr

/-- Who reads a granule that shows an uncorrectable error (R488, R494). -/
inductive Reader where
  | migration                                             -- the copy to the spare GDDR7 package
  | step (rid : Fin 4)
  | handoff (ridx : Nat)
  | copyOut (rid : Fin 4)
  | walk (ridx : Nat)
deriving DecidableEq, Repr

/-- The SRAM structures of R486 and R492, in the quantities of Table 1-1; no rule gives the size of a control core's memory. A walk
cache's row is the number of its entry. -/
inductive SramUnit where
  | frameStore (f : Fin 384) (bank : Fin 32)
  | instrStore (f : Fin 384)
  | chainStore (f : Fin 384)
  | staging (array : Fin 256)                             -- 16 MiB in arrays of 64 KiB
  | seamFifo (row : Fin 16) (toEast : Bool) (n : Fin 2)   -- 2 per row and direction
  | coreMemory (core : Fin 5) (array : Nat)
  | requestTable (ridx : Nat)
  | walkCache (h : Half)
deriving DecidableEq, Repr

/-- What a start-up stage found (R482, R484, R517). -/
structure StageReport where
  homodeGround : Bool := false        -- the HOMODE strap, sampled in stage 0x0
  failedFrames : List Pos := []       -- frames that failed their test twice, stage 0x4
  failedRows : List (SramUnit × Nat) := []   -- SRAM rows that failed their test twice, stage 0x4
  failedT1 : List (Fin 25) := []      -- GDDR7 packages that failed training twice, stage 0x5
  failedT2 : List (Fin 12) := []      -- LPDDR6 packages that failed training twice, stage 0x5
  linkWidth : BitVec 5 := 0           -- negotiated PCI Express lanes, stage 0x1
  linkSpeed : BitVec 3 := 0
  linkFlit : Bool := false
deriving DecidableEq, Repr

/-- How a retry of an SRAM read ended (Table 17-2). -/
inductive RetryOutcome where
  | corrected            -- the re-read, or the next read of the rewritten word, is good
  | lastingCorrectable   -- the word needs correction again: its row is replaced
  | lastingLost          -- the re-read is uncorrectable: the data is lost
deriving DecidableEq, Repr

/-- What ZL training found (R359, R453, R493): the peer's coordinate (coded as SENDER of Table 12-7), its port, the
peer's MAC over both coordinates and nonces, and the lanes that failed both tests. -/
structure ZlTraining where
  peer : BitVec 14
  rack : BitVec 7
  peerPort : BitVec 4
  nonces : List Byte
  mac : List Byte
  failedLanes : List (Fin 5)
deriving DecidableEq, Repr

/-- The virtual lanes of a ZL port (R356). -/
inductive ZlLane where
  | management | drizzle | bulk
deriving DecidableEq, Repr

/-- A drizzle cell (R396, Table 12-7) less its KIND, which the row names. -/
structure Cell where
  gid : BitVec 12
  rid : BitVec 2
  attempt : BitVec 2
  epoch : BitVec 16
  sender : BitVec 14
  len : BitVec 6
  ordinal : W32
  gcrc : W32
  payload : List Byte
deriving DecidableEq, Repr

/-- The part a bulk chunk plays in its collective (R376, R379, R382): a partial of a reduction level on its way, or
final bytes of the result. -/
inductive ChunkRole where
  | partialSum (level : Fin 4) (first : Nat)   -- first: index of the first element; level 0: a send count of R395
  | result (offset : Nat)                      -- offset: byte offset in the whole result
  | block (source : Nat) (half : Fin 2) (offset : Nat)   -- contribution bytes of ring position `source` for a half
deriving DecidableEq, Repr

/-- A bulk chunk (R381). -/
structure ChunkMsg where
  gid : BitVec 12
  rid : BitVec 2
  ordinal : W32
  attempt : BitVec 2
  sender : BitVec 14
  role : ChunkRole
  bytes : List Byte
deriving DecidableEq, Repr

/-- A verify token (R381, R400). -/
structure TokenMsg where
  gid : BitVec 12
  rid : BitVec 2
  ordinal : W32
  attempt : BitVec 2
  sender : BitVec 14
  chunk : Nat
  crc : W32
  clean : Bool
  earliest : W64
  latest : W64
  latestMember : BitVec 14
deriving DecidableEq, Repr

/-- One prefix node fetched from a peer (R274): its hash, its parent's hash, tokens and page bytes per layer. -/
structure FetchedNode where
  hash : W64
  parentHash : W64
  domain : BitVec 16
  variant : BitVec 13
  tokens : List W32
  pages : List (List Byte)
deriving DecidableEq, Repr

/-- Which SEND or WRITE a RoCE acknowledgement covers (R347, R349, R351). -/
inductive AckOf where
  | layer (ridx : Nat) (layer : Nat)   -- the oldest write of that layer of the request
  | token (ridx : Nat)
  | revoke (ridx : Nat)
deriving DecidableEq, Repr

/-- Connection-management messages that change a connection's state (R338). -/
inductive CmMsg where
  | accepted | rejected | disconnect
deriving DecidableEq, Repr

/-- The commands, in the order of spec/opcode_table.json. -/
inductive Instr where
  -- power and resets
  | powerOnReset
  | underVoltageOff
  | overVoltageOff
  | inputReturn
  | perstAssert
  | perstDeassert
  | presentMate
  | moduleReset (cause : BitVec 3)
  | functionLevelReset
  | startupStageDone (rep : StageReport)
  | thermtrip (powerStage : Bool)
  | hardwareThrottle (half : Half)
  | throttleCheck (m : Telemetry)
  | stepUpComplete (half : Half)
  | plateHot (plate : BitVec 8)
  | warmEntry (half : Half)
  | lullEntry
  | wakeEvent (cause : WakeCause)
  | keeperAlarm
  | keeperWatchdogExpiry
  | taskWatchdogExpiry (core : Fin 5) (passes : Bool)
  | controlCoreFault (core : Fin 5) (passes : Bool)
  -- registers
  | registerWrite (acc : BarAccess) (value : W64)
  | barUndecodedAccess (addr : W64)
  | rcRead (acc : BarAccess)
  | pairLoRead (acc : BarAccess)
  | sysReset (value : W32)
  | pwrCtl (value : W32)
  | pwrLimit (value : W32)
  | fabCoord (value : W32)
  | queueEnable (q : Fin 8192) (value : W32)
  | queueDisable (q : Fin 8192) (value : W32)
  | recoveryGo (img : HostRead) (flashOk : Bool)
  -- doorbells
  | sqtail (q : Fin 8192) (w : DbWrite)
  | cqhead (q : Fin 8192) (w : DbWrite)
  | dighead (q : Fin 8192) (w : DbWrite)
  | errhead (q : Fin 8192) (w : DbWrite)
  -- ring entries
  | request (q : Fin 8192) (e : Entry) (tokens : HostRead) (stops : HostRead)
  | ownEnroll (q : Fin 8192) (e : Entry)
  | ownRelease (q : Fin 8192) (e : Entry)
  | regionCreate (q : Fin 8192) (e : Entry) (blob : HostRead)
  | regionRemove (q : Fin 8192) (e : Entry)
  | queueBind (q : Fin 8192) (e : Entry)
  | fwUpdate (q : Fin 8192) (e : Entry) (img : HostRead) (flashOk : Bool)
  | svnCommit (q : Fin 8192) (e : Entry)
  | report (q : Fin 8192) (e : Entry)
  | silborToken (q : Fin 8192) (e : Entry) (tok : HostRead)
  | copyIn (q : Fin 8192) (e : Entry) (data : HostRead)
  | copyOut (q : Fin 8192) (e : Entry)
  | imageLoad (q : Fin 8192) (e : Entry) (img : HostRead)
  | serveSetup (q : Fin 8192) (e : Entry)
  | cancel (q : Fin 8192) (e : Entry)
  | disable (q : Fin 8192) (e : Entry)
  | enable (q : Fin 8192) (e : Entry)
  | query (q : Fin 8192) (e : Entry)
  | stepHold (q : Fin 8192) (e : Entry)
  | digestTrace (q : Fin 8192) (e : Entry)
  | kvGeometry (q : Fin 8192) (e : Entry)
  | poolAdd (q : Fin 8192) (e : Entry)
  | poolRemove (q : Fin 8192) (e : Entry)
  | variantLoad (q : Fin 8192) (e : Entry) (data : HostRead)
  | variantUnload (q : Fin 8192) (e : Entry)
  | prefixFlush (q : Fin 8192) (e : Entry)
  | handleRelease (q : Fin 8192) (e : Entry)
  | partnerPair (q : Fin 8192) (e : Entry)
  | partnerUnpair (q : Fin 8192) (e : Entry)
  | layoutSet (q : Fin 8192) (e : Entry)
  | groupSet (q : Fin 8192) (e : Entry)
  | groupClear (q : Fin 8192) (e : Entry)
  -- sideband
  | getStatus
  | getEnergy
  | getIdent
  | reset
  | wake
  -- SPDM, IDE
  | spdmKeyExchange (sideband : Bool) (mutualAuth : Bool) (key : List Byte)
  | endSession (id : Nat)
  | spdmHeartbeatExpiry (id : Nat)
  | spdmGetMeasurements (sideband : Bool) (g : SpdmGet)
  | keyProg (session : Nat) (stream : IdeStream) (keys : List Byte)
  | kSetGo (session : Nat) (stream : IdeStream)
  | vendorDefinedRequest (session : Nat) (secret : VendorSecret)
  | tlpOutsideIde
  -- steps
  | stepBoundary (rid : Fin 4) (env : BoundaryEnv)
  | scrubDone (rid : Fin 4) (item : ScrubItem)
  | groupLaunch (rid : Fin 4)
  | stepHoldRelease (rid : Fin 4)
  | setupRecheck
  | stepWatchdogExpiry (who : ThreadId)
  | stepTimeout (rid : Fin 4)
  -- reckoner instructions (R130)
  | add (who : ThreadId) (cls : BitVec 4) (op : BitVec 9) (i : Insn)
  | sub (who : ThreadId) (i : Insn)
  | and (who : ThreadId) (i : Insn)
  | or (who : ThreadId) (i : Insn)
  | xor (who : ThreadId) (i : Insn)
  | shl (who : ThreadId) (i : Insn)
  | shr (who : ThreadId) (i : Insn)
  | sra (who : ThreadId) (i : Insn)
  | slt (who : ThreadId) (i : Insn)
  | sltu (who : ThreadId) (i : Insn)
  | addi (who : ThreadId) (k : Fin 9) (i : Insn)
  | sltui (who : ThreadId) (i : Insn)
  | lui (who : ThreadId) (i : Insn)
  | mul (who : ThreadId) (i : Insn)
  | mulh (who : ThreadId) (i : Insn)
  | mulhu (who : ThreadId) (i : Insn)
  | div (who : ThreadId) (i : Insn)
  | divu (who : ThreadId) (i : Insn)
  | rem (who : ThreadId) (i : Insn)
  | remu (who : ThreadId) (i : Insn)
  | ld1 (who : ThreadId) (k : Fin 4) (i : Insn)
  | st1 (who : ThreadId) (k : Fin 4) (i : Insn)
  | beq (who : ThreadId) (k : Fin 6) (i : Insn)
  | jal (who : ThreadId) (i : Insn)
  | jr (who : ThreadId) (i : Insn)
  | halt (who : ThreadId) (i : Insn)
  | vadd (who : ThreadId) (i : Insn)
  | vsub (who : ThreadId) (i : Insn)
  | vmul (who : ThreadId) (i : Insn)
  | vfma (who : ThreadId) (i : Insn)
  | vdiv (who : ThreadId) (i : Insn)
  | vsqrt (who : ThreadId) (i : Insn)
  | vmin (who : ThreadId) (i : Insn)
  | vmax (who : ThreadId) (i : Insn)
  | vneg (who : ThreadId) (i : Insn)
  | vabs (who : ThreadId) (i : Insn)
  | vcsgn (who : ThreadId) (i : Insn)
  | vcmp (who : ThreadId) (i : Insn)
  | vsel (who : ThreadId) (i : Insn)
  | vmov (who : ThreadId) (i : Insn)
  | vbcast (who : ThreadId) (i : Insn)
  | vlane (who : ThreadId) (i : Insn)
  | vand (who : ThreadId) (i : Insn)
  | vor (who : ThreadId) (i : Insn)
  | vxor (who : ThreadId) (i : Insn)
  | vshl (who : ThreadId) (i : Insn)
  | vshr (who : ThreadId) (i : Insn)
  | vrsum (who : ThreadId) (i : Insn)
  | vperm (who : ThreadId) (i : Insn)
  | vld (who : ThreadId) (i : Insn)
  | vst (who : ThreadId) (i : Insn)
  | vgath (who : ThreadId) (i : Insn)
  | vscat (who : ThreadId) (i : Insn)
  | vaadd (who : ThreadId) (i : Insn)
  | vaaddr (who : ThreadId) (i : Insn)
  | vfaadd (who : ThreadId) (i : Insn)
  | vamax (who : ThreadId) (i : Insn)
  | sclaim (who : ThreadId) (i : Insn)
  | cvt (who : ThreadId) (i : Insn)
  | vqblk (who : ThreadId) (i : Insn)
  | vdqblk (who : ThreadId) (i : Insn)
  | mjob (who : ThreadId) (i : Insn)
  | dma (who : ThreadId) (i : Insn)
  | bar (who : ThreadId) (i : Insn)
  | fences (who : ThreadId) (i : Insn)
  | fencej (who : ThreadId) (i : Insn)
  | waitj (who : ThreadId) (i : Insn)
  | waitd (who : ThreadId) (i : Insn)
  | waits (who : ThreadId) (i : Insn)
  | sigadd (who : ThreadId) (i : Insn)
  | rdcnt (who : ThreadId) (i : Insn)
  | rccnt (who : ThreadId) (i : Insn)
  | rdfpsr (who : ThreadId) (i : Insn)
  | wrfpsr (who : ThreadId) (i : Insn)
  | wrfpcr (who : ThreadId) (i : Insn)
  | setseed (who : ThreadId) (i : Insn)
  | rdtid (who : ThreadId) (i : Insn)
  | rdgc (who : ThreadId) (i : Insn)
  -- deck, chain unit and frame DMA
  | tileJobStart (f : Fin 384)
  | tileDelivered (f : Fin 384)
  | chainProgramEnd (f : Fin 384)
  | tallyContribution (f : Fin 384) (n : Nat)
  | dmaTransferStart (f : Fin 384)
  | dmaTransferDone (f : Fin 384)
  -- attention engine and sampler
  | attentionDescriptorStart (rid : Fin 4) (n : Fin 1024)
  | attentionDescriptorDone (rid : Fin 4) (n : Fin 1024)
  | splitMerge (rid : Fin 4) (n : Fin 1024) (group : Nat)
  | ringStepStart (rid : Fin 4) (n : Fin 1024) (i : Nat)
  | samplerRunStart (rid : Fin 4) (slot : Fin 2)
  | samplerRunDone (rid : Fin 4) (slot : Fin 2)
  -- mesh and errors
  | meshPacket (p : Packet)
  | meshFlitError (src dst : Pos) (replayOk : Bool) (lasting : Bool)
  | memoryReadError (tier2 : Bool) (ctrl : Fin 25) (off : Nat) (addr : Nat) (reader : Reader) (retryOk : Bool)
  | sramError (u : SramUnit) (row : Nat) (addr : Nat) (reader : Reader) (o : RetryOutcome)
  | frameParityError (f : Fin 384)
  | gddrMigrationDone
  | packageLastingFault (tier2 : Bool) (ctrl : Fin 25)
  -- fabric
  | zlLinkTraining (port : Fin 12) (t : ZlTraining)
  | zlFlit (port : Fin 12) (lane : ZlLane) (crcOk : Bool)
  | zlReplayFailure (port : Fin 12) (failedLanes : List (Fin 5))
  | gcSyncExchange (parentSent : W64) (received : W64) (sent : W64) (parentReceived : W64)
  | collectiveStart (rid : Fin 4) (lengths : List Nat)
  | collectiveDone (rid : Fin 4) (ordinal : W32)
  | chunk (port : Fin 12) (dest : BitVec 14) (c : ChunkMsg)
  | verifyToken (port : Fin 12) (dest : BitVec 14) (t : TokenMsg)
  | provisionalReexecute (f : Fin 384) (slot : Fin 128)
  | dataCell (port : Fin 12) (dest : BitVec 14) (c : Cell)
  | requestCell (port : Fin 12) (dest : BitVec 14) (c : Cell)
  | grant (port : Fin 12) (dest : BitVec 14) (c : Cell)
  | rerun (port : Fin 12) (dest : BitVec 14) (c : Cell)
  | haltCell (port : Fin 12) (dest : BitVec 14) (c : Cell)
  | ready (port : Fin 12) (dest : BitVec 14) (c : Cell)
  | notice (port : Fin 12) (dest : BitVec 14) (c : Cell)
  | peerFetch (rid : Fin 4) (ridx : Fin 32768) (nodes : List FetchedNode)
  -- handoff
  | layerBatchSend (ridx : Fin 32768) (layer : Fin 256)
  | roceAck (port : Fin 2) (what : AckOf)
  | roceNak (port : Fin 2) (notReady : Bool)
  | congestionNotification (port : Fin 2)
  | communicationManagement (port : Fin 2) (m : CmMsg)
  | transportTimeout (port : Fin 2)
  | partnerReconnect
  | eapolMka (port : Fin 2) (frame : List Byte)
  | priorityFlowControl (port : Fin 2) (pause : Bool)
  | handoffFrameDiscard (port : Fin 2)
  | handoffLaneLoss (port : Fin 2) (lane : Fin 8)
  | configurationRequest (c : ConfigReq)
  | misalignedRegisterRead (acc : BarAccess)
deriving DecidableEq, Repr

end Sys2Proof
end

