-- ==== Sys2Proof/Decode.lean ====
section
/-! DEFINITION. The command that a word of spec/opcode_table.json spells, and the command that an instruction word of a reckoner
spells (04: R126, Tables 4-2 and 4-4). The table gives no row any bits, so no word of the table spells a command (log 11). -/

namespace Sys2Proof

/-- The command that a word of the table spells: none, since no row of the table gives bits. -/
def decodeTableWord (nbits w : Nat) : Option Instr :=
  match nbits, w with
  | _, _ => none

/-- The fields of an instruction word (Table 4-2). -/
def Insn.ofWord (w : W64) : Insn :=
  { v := w.getLsbD 63, d := w.extractLsb' 45 5, a := w.extractLsb' 40 5, b := w.extractLsb' 35 5, c := w.extractLsb' 30 5,
    mask := w.extractLsb' 27 3, ty := w.extractLsb' 22 5, imm := w.extractLsb' 0 22 }

/-- CLASS of an instruction word. -/
def wordClass (w : W64) : BitVec 4 := w.extractLsb' 59 4

/-- OP of an instruction word. -/
def wordOp (w : W64) : BitVec 9 := w.extractLsb' 50 9

/-- The scalar class (Table 4-4). -/
def scalarCommand (t : ThreadId) (i : Insn) (op : Nat) : Option Instr :=
  if 0x10 ≤ op ∧ op < 0x19 then some (.addi t (Fin.ofNat 9 (op - 0x10)) i)
  else if 0x40 ≤ op ∧ op < 0x44 then some (.ld1 t (Fin.ofNat 4 (op - 0x40)) i)
  else if 0x44 ≤ op ∧ op < 0x48 then some (.st1 t (Fin.ofNat 4 (op - 0x44)) i)
  else match op with
  | 0x00 => some (.add t 0 0 i) | 0x01 => some (.sub t i) | 0x02 => some (.and t i) | 0x03 => some (.or t i)
  | 0x04 => some (.xor t i) | 0x05 => some (.shl t i) | 0x06 => some (.shr t i) | 0x07 => some (.sra t i)
  | 0x08 => some (.slt t i) | 0x09 => some (.sltu t i) | 0x19 => some (.sltui t i) | 0x1A => some (.lui t i)
  | 0x20 => some (.mul t i) | 0x21 => some (.mulh t i) | 0x22 => some (.mulhu t i) | 0x23 => some (.div t i)
  | 0x24 => some (.divu t i) | 0x25 => some (.rem t i) | 0x26 => some (.remu t i)
  | _ => none

/-- The branch class. -/
def branchCommand (t : ThreadId) (i : Insn) (op : Nat) : Option Instr :=
  if op < 6 then some (.beq t (Fin.ofNat 6 op) i)
  else match op with
  | 0x08 => some (.jal t i) | 0x09 => some (.jr t i) | 0x0F => some (.halt t i)
  | _ => none

/-- The vector class. -/
def vectorCommand (t : ThreadId) (i : Insn) (op : Nat) : Option Instr :=
  match op with
  | 0x00 => some (.vadd t i) | 0x01 => some (.vsub t i) | 0x02 => some (.vmul t i) | 0x03 => some (.vfma t i)
  | 0x04 => some (.vdiv t i) | 0x05 => some (.vsqrt t i) | 0x06 => some (.vmin t i) | 0x07 => some (.vmax t i)
  | 0x08 => some (.vneg t i) | 0x09 => some (.vabs t i) | 0x0A => some (.vcsgn t i) | 0x0B => some (.vcmp t i)
  | 0x0C => some (.vsel t i) | 0x0D => some (.vmov t i) | 0x0E => some (.vbcast t i) | 0x0F => some (.vlane t i)
  | 0x10 => some (.vand t i) | 0x11 => some (.vor t i) | 0x12 => some (.vxor t i) | 0x13 => some (.vshl t i)
  | 0x14 => some (.vshr t i) | 0x18 => some (.vrsum t i) | 0x19 => some (.vperm t i)
  | _ => none

/-- The vector memory class. -/
def vmemCommand (t : ThreadId) (i : Insn) (op : Nat) : Option Instr :=
  match op with
  | 0x00 => some (.vld t i) | 0x01 => some (.vst t i) | 0x02 => some (.vgath t i) | 0x03 => some (.vscat t i)
  | 0x08 => some (.vaadd t i) | 0x09 => some (.vaaddr t i) | 0x0A => some (.vfaadd t i) | 0x0B => some (.vamax t i)
  | 0x0C => some (.sclaim t i)
  | _ => none

/-- The convert, matrix and DMA classes. -/
def tileCommand (t : ThreadId) (i : Insn) (cls op : Nat) : Option Instr :=
  match cls, op with
  | 4, 0 => some (.cvt t i) | 4, 1 => some (.vqblk t i) | 4, 2 => some (.vdqblk t i) | 5, 0 => some (.mjob t i)
  | 6, 0 => some (.dma t i)
  | _, _ => none

/-- The sync class. -/
def syncCommand (t : ThreadId) (i : Insn) (op : Nat) : Option Instr :=
  match op with
  | 0 => some (.bar t i) | 1 => some (.fences t i) | 2 => some (.fencej t i) | 3 => some (.waitj t i) | 4 => some (.waitd t i)
  | 5 => some (.waits t i) | 6 => some (.sigadd t i)
  | _ => none

/-- The system class. -/
def systemCommand (t : ThreadId) (i : Insn) (op : Nat) : Option Instr :=
  match op with
  | 0 => some (.rdcnt t i) | 1 => some (.rccnt t i) | 2 => some (.rdfpsr t i) | 3 => some (.wrfpsr t i) | 4 => some (.wrfpcr t i)
  | 5 => some (.setseed t i) | 6 => some (.rdtid t i) | 7 => some (.rdgc t i)
  | _ => none

/-- The row of Table 4-4 with a CLASS and OP; none where they are reserved. -/
def rowCommand (t : ThreadId) (i : Insn) (cls op : Nat) : Option Instr :=
  match cls with
  | 0 => scalarCommand t i op
  | 1 => branchCommand t i op
  | 2 => vectorCommand t i op
  | 3 => vmemCommand t i op
  | 7 => syncCommand t i op
  | 8 => systemCommand t i op
  | _ => tileCommand t i cls op

/-- The command of a context that issues an instruction word (R126, R130). A word with a reserved CLASS or OP, which R127 makes
malformed, is the command ADD with that CLASS and OP (log 11). -/
def Instr.ofWord (t : ThreadId) (w : W64) : Instr :=
  (rowCommand t (Insn.ofWord w) (wordClass w).toNat (wordOp w).toNat).getD (.add t (wordClass w) (wordOp w) (Insn.ofWord w))

end Sys2Proof
end

