-- ==== Sys2Proof/Config.lean ====
section
/-! DEFINITION. What one made part fixes (fused keys and digests), the algorithms of other standards that the spec
cites by name only, and the free values. Everything here is opaque: no proof can see a value (log 4, log 13). -/

namespace Sys2Proof.Config

/-- The free values (log 4): the value that the manual leaves open at the n-th time one is needed. Nothing constrains it. -/
opaque free64 : Nat → W64

/-- Where a jump whose target is not a multiple of 8 goes (R115 keeps pc a multiple of 8 and no rule says how): free. -/
opaque misalignedTarget : W64 → W64

/-- The scalar shifts' result for a shift amount of 64 or more, which Table 4-4 does not state: free, by operation. -/
opaque wideShift : Nat → W64 → W64 → W64

/-- The vector shifts' result for a shift amount of 32 or more, which Table 4-4 does not state: free, by operation. -/
opaque wideShift32 : Nat → W32 → W32 → W32

/-- The quotient of −2^63 by −1, which does not fit in 64 bits and which Table 4-4 does not state: free. -/
opaque divOverflow : W64

/-- The dynamic rounding mode that WRFPCR leaves for a value of s_a[2:0] above 4, which no rule states (log 27): free, a function
of the operand. -/
opaque reservedMode : W64 → Nat

/-- The mask bit of a VCMP whose elements share it or leave it over, which Table 4-4 does not state (log 21): free, a function of
the element type, the condition, the operands and the bit. -/
opaque cmpShared : Nat → Nat → BitVec 2048 → BitVec 2048 → Nat → Bool

/-- The content of a FEED transfer's lane at or beyond KLAST in the last pass, which Table 4-8 leaves open (log 28): free, a
function of the descriptor, the token row and the depth position. -/
opaque feedPad : List W64 → Nat → Nat → Nat

/-- The value that a chain buffer slot holds in a column at or beyond the NCOL of the tile that filled it, which R162 leaves open
(log 184): free, a function of the row's codes, the row and the column. -/
opaque heldPad : List Nat → Nat → Nat → Nat

/-- Where a sampler descriptor's attention area lies, in units of 64 KiB, which Table 10-3 does not give (log 38): free, a function of
the descriptor. -/
opaque samplerArea : List W64 → Nat

/-- Which frame of a sampler descriptor's rectangles samples a row, which R325 leaves to the device (log 38): free, a function of the
descriptor and the row. -/
opaque samplerFrame : List W64 → Nat → Nat

/-- Where in the attention area a row's logits are staged, which R213 leaves to the engine (log 38): free, a function of the
descriptor and the row. -/
opaque samplerOffset : List W64 → Nat → Nat

/-- What a memory controller reads where a byte stands under a key slot that has been erased (R462, log 165): free, a function of the
address and the byte. -/
opaque erasedByte : Nat → Byte → Byte

/-- Ed448 verification (RFC 8032): key, message, signature. -/
opaque ed448Verify : List Byte → List Byte → List Byte → Bool

/-- Ed448 signature by a private key of the security block, named by its seed (R442). -/
opaque ed448Sign : List Byte → List Byte → List Byte

/-- X448 (RFC 7748): private scalar, public point. -/
opaque x448 : List Byte → List Byte → List Byte

/-- The X448 public key of a private scalar. -/
opaque x448Public : List Byte → List Byte

/-- AES-256-GCM decryption: key, additional data, ciphertext, tag; none when the tag fails. -/
opaque aesGcmOpen : List Byte → List Byte → List Byte → List Byte → Option (List Byte)

/-- DUS, the fused 256-bit secret (Table 15-2). -/
opaque dus : List Byte

/-- The Ed448 public key of a private key named by its seed (RFC 8032). -/
opaque ed448Public : List Byte → List Byte

/-- The part to be signed of an X.509 certificate of a subject key under an issuer key (R442). -/
opaque x509Body : List Byte → List Byte → List Byte

/-- Silbor's root certificate and the certificate of the identity key, which Silbor signed at manufacture (Table 15-2, R460). -/
opaque silborCertificates : List Byte

/-- The public key that a firmware signing-key slot names (R455). -/
opaque signingKey : Nat → List Byte

/-- The fused digest of a signing-key slot's public key (R455). -/
opaque signingDigest : Nat → List Byte

/-- The slot is revoked (R455). -/
opaque slotRevoked : Nat → Bool

/-- What a double word of configuration space reads whose content Table 14-1 does not give: a function of its number and of what has
been written (R421). -/
opaque configWord : Nat → List (Nat × W32) → W32

/-- The fused token public key (R461). -/
opaque tokenKey : List Byte

/-- The ROM's digest (R455). -/
opaque romDigest : List Byte

/-- The key pair that the device's random generator gives at the n-th creation of a region (R204). -/
opaque randomKeys : Nat → List Byte

/-- The SAK and the XPN salt that an MKA frame distributes under an ICK and a KEK, as IEEE 802.1X has it; none where it distributes
none, or does not verify (R453). -/
opaque mkaDistributed : List Byte → List Byte → List Byte → Option (List Byte × List Byte)

end Sys2Proof.Config
end

