-- ==== Sys2Proof/Machine/State.lean ====
section
/-! DEFINITION. The state of the FP2-M as plain data, its reset value, and the reasons a step can stop. Every field
names the rule that gives it; a field marked MODEL is the model's own bookkeeping of something the manual describes
by what it does. `State.reset` is the module at READY after a power-on reset (R478, R485, log 8). -/

namespace Sys2Proof.Machine

/-- Program faults and every other error of the part are states of it (R149, R436); the one thing that stops the
model is a command that names a unit the part's grade does not have. -/
inductive Fault where
  /-- Raised by a command that names a logical frame at or above C × 16, or a logical column at or above C, which the
  part's grade does not have (R3, R23). Safe:
  no such event exists on that part. -/
  | absentFrame
deriving DecidableEq, Repr

/-- Why a command has no meaning. -/
inductive Refusal where
  /-- Raised only by a dispatch arm without a meaning. Safe. -/
  | notModelled (mnemonic : String)
  /-- Raised by ADD's meaning for a word whose CLASS and OP belong to another row, by a ring command's for an entry whose OPC does, and by
  WAKE_EVENT's for a sideband message that has its own row: that is a command of the other row. Safe: it is no command of this row. -/
  | otherRow
deriving DecidableEq, Repr

/-! ## Reckoner contexts (R115) -/

/-- Why a context does not issue (R143). -/
inductive SyncWait where
  | bar (num : Fin 16)
  | fencej (seq : W32)
  | waitj (seq : W32)
  | waitd (seq : W32)
  | waits (ctr : Fin 32) (value : W64)
deriving DecidableEq, Repr

/-- Whether a context may issue: it runs, is blocked in a sync instruction (R143), stalls in an MJOB or DMA that found its
queue full (R135, R139, R213), has executed HALT or started halted (R147, R148), or was stopped by a fault (R149). -/
inductive RunState where
  | running | blocked (w : SyncWait) | stalled (dma : Bool) (i : Insn) | halted | stopped
deriving DecidableEq, Repr

/-- Architectural state of one thread context (Table 4-1). The default is the state of a context before any launch:
halted, all registers at their launch values. -/
structure Ctx where
  pc : W64 := 0                       -- the fetch address; Table 4-1 holds 17 bits of it, a value above is PC_RANGE
  sregs : SMap W64 := []              -- s1..s31, default 0; s0 is hard-wired (R115)
  vregs : SMap (BitVec 2048) := []    -- default 0
  masks : SMap W64 := []              -- m1..m7, default 0; m0 is hard-wired to all ones
  fpcr : BitVec 3 := 0
  fpsr : BitVec 5 := 0
  srseed : W64 := 0
  srseq : W32 := 0
  run : RunState := .halted
deriving DecidableEq, Repr

/-! ## Decks, chain unit, frame DMA -/

/-- The row group of an attention run (R217, R218), or the work item of a backward run (R221). -/
structure RowGroup where
  rid : Nat
  desc : Nat
  entry : Nat        -- length-table entry e
  tile : Nat         -- prompt mode: tile t; token mode: group
  head : Nat         -- prompt mode: query head h; token mode: KV head
  part : Nat := 0    -- key-range part (R231)
deriving DecidableEq, Repr

/-- What an engine's tile job computes (R226, R227; Table 7-5 in its order: score, dP, two dV, two dK, dQ). -/
inductive AttStep where
  | score
  | value (k : Nat)
  | backward (k : Nat)
deriving DecidableEq, Repr

/-- Where a job of ring attention finds its block and its positions (R234 to R236). -/
structure RingBlock where
  buf : Nat          -- address of the ring buffer
  idx : Nat          -- index of the block in a head of it
  per : Nat          -- blocks of a head
  n : Nat            -- members of the group
  p : Nat            -- positions of a member
  me : Nat           -- the member's own ring position
  src : Nat          -- ring position of the member whose shard it is
deriving DecidableEq, Repr

/-- A tile job that an attention engine enters (R207, R213). -/
structure AttJob where
  group : RowGroup
  step : AttStep
  kbase : Nat                          -- first key position of the block; in a shard, of its local positions
  ring : Option RingBlock := none
  last : Bool := false                 -- the last job of its row group, part or work item
  first : Bool := false                -- backward: the first job of its work item
  slot : Nat := 0                      -- row group A (0) or B (1) of the pair that the frame interleaves (R230)
  buf : Nat := 0                       -- which of the two key and value buffers holds its block (R213)
  area : Nat := 0                      -- frame-store offset of the attention area (ATTBASE)
  home : Nat := 0                      -- frame that runs part 0 (R232)
deriving DecidableEq, Repr

/-- A finished key-range part: unnormalised m, l, acc (R231). -/
structure Part where
  group : RowGroup
  home : Nat                           -- frame that runs part 0
  m : List Nat
  l : List Nat
  acc : List (List Nat)
  ovf : Nat := 0
  exc : Option (Nat × Nat × Nat × Nat) := none
deriving DecidableEq, Repr

/-- Which staged block a copy within a gang waits for (R223): region, descriptor, gang, part, ring step and block. -/
structure StageTag where
  rid : Nat
  desc : Nat
  gang : Nat
  part : Nat
  step : Nat
  block : Nat
deriving DecidableEq, Repr

/-- A transfer that an engine enters into a frame's DMA engine (R206, R213): it stages a row group's queries (in the backward
pass also dO and the row values) (R225, R238); it fetches a block's keys and values, for so many copies (R223); it copies a
staged block from another frame of the gang (R223); or it takes a finished part to part 0's frame (R232). -/
inductive AttMove where
  | queries (j : AttJob)
  | fetch (j : AttJob) (tag : StageTag) (copies : Nat)
  | copy (j : AttJob) (tag : StageTag) (src : Nat)
  | part (p : Part) (area zone : Nat)
deriving DecidableEq, Repr

/-- What an engine has planned for a frame and not yet entered. -/
inductive AttTask where
  | move (m : AttMove)
  | job (j : AttJob)
deriving DecidableEq, Repr

/-- A block that stands in a key and value buffer for copies still to be taken (R223). -/
structure Staged where
  tag : StageTag
  buf : Nat
  left : Nat
  count : Nat
deriving DecidableEq, Repr

/-- The registers of a chain unit's attention sequence (R214): the four attention accumulators of 64 × 128 FP32, and running
maximum, running sum and alpha for 128 rows, rows 64 to 127 being row group B's. An empty list stands for zeros. -/
structure AttRegs where
  acc0 : List (List Nat) := []
  acc1 : List (List Nat) := []
  acc2 : List (List Nat) := []
  acc3 : List (List Nat) := []
  max : List Nat := []
  sum : List Nat := []
  alpha : List Nat := []
deriving DecidableEq, Repr

/-- A tally contribution on its way to a frame (R167). -/
structure TallyMsg where
  buf : Nat
  index : Nat
  rows : List Nat      -- 64 FP32 bit patterns
  largest : Bool       -- kind 2
  who : ThreadId       -- the contributing job: the context that issued it, its pc, chain store index and number (R179)
  pc : W64
  idx : Nat
  seq : W32
deriving DecidableEq, Repr

/-- A contribution to a layer digest (R172, R409). -/
structure DigestMsg where
  layer : Nat
  tidx : Nat
  crc : W64
  status : W64
deriving DecidableEq, Repr

/-- Effects that R176 withholds until the verify slot is GOOD or IDLE. -/
structure Withheld where
  signals : List (Nat × Nat) := []             -- PSEND: frame, counter
  tallies : List (Nat × TallyMsg) := []
  digests : List DigestMsg := []
  kv : List (Nat × Nat × Nat × Nat) := []      -- request, layer, position, head × 2 + w
deriving DecidableEq, Repr

/-- One row-statistic buffer: contributions by row and contributor index (R167); the tally of a row is their count. -/
structure RStat where
  present : List (Nat × List Nat) := []   -- contributor index, its 64 row values; indices strictly rising
  largest : Bool := false
deriving DecidableEq, Repr

/-- A tile job (R84, R135, R153, R154). -/
structure Job where
  seq : W32
  stamp : Nat                      -- position in the order of acceptance (R111, R112)
  who : ThreadId
  pc : W64
  words : List W64                 -- the 8 descriptor words (Table 4-6)
  params : List Byte               -- the 256-byte parameter block (Table 5-2)
  rowmap : List W64                -- the 64 row-map entries
  seed : W64 := 0                  -- SRSEED of the issuing context at acceptance (R52)
  att : Option AttJob := none
  acc : List (List Nat) := []      -- accumulator tile once started
  status : W64 := 0                -- tile status word once delivered
  held : Withheld := {}
  stats : List (Nat × RStat) := [] -- buffers as the RC = 1 instructions of a run that has ended read them (R177)
  cleared : List Nat := []         -- buffers that a run of its program that has ended has cleared (R168)
  stores : List (Nat × Nat) := []  -- physical ranges that its STOREs write, as computed at MJOB (R166)
deriving DecidableEq, Repr

/-- A transfer of the frame DMA engine (R139), with the bytes it will write once its start has read them. -/
structure Xfer where
  seq : W32
  stamp : Nat
  who : ThreadId
  pc : W64
  words : List W64
  attAt : List (Nat × Nat × Nat) := []   -- frames under a descriptor at acceptance: frame, region, descriptor (R243)
  att : Option AttMove := none           -- an engine's transfer
  count : Nat := 0                       -- substitutions counted in the block it stages (R224)
  writes : List (Nat × List Byte) := []
deriving DecidableEq, Repr

/-- A chain buffer slot (R162). -/
structure Slot where
  full : Bool := false
  valid : W64 := 0
  rows : List (List Nat) := []   -- FP32
  verify : Option Nat := none    -- MODEL: the verify slot that the job which filled it carries (R177)
deriving DecidableEq, Repr

/-- The group assembly buffer (R164). -/
structure Assembly where
  addr : Nat
  pitch : Int
  fmt : BitVec 5
  valid : W64
  rows : List (List Nat)
  who : ThreadId                   -- the job that opened it: its context, pc, number and chain index (R179)
  pc : W64
  idx : Nat
  seq : W32
deriving DecidableEq, Repr

/-- A chain program that waits in an RC = 1 instruction or a PCOMB (R168, R171): its job, the number of that instruction in
the program, and the tile's current value with what has been counted and noted so far. -/
structure Course where
  job : Job
  next : Nat
  fmt : Nat
  rows : List (List Nat)
  valid : Nat
  crush : Nat
  ovf : Nat
  exc : Option (Nat × Nat × Nat × Nat)   -- stage, row, column, kind
  emptySlots : List Nat
  clearBufs : List Nat
  stats : List (Nat × RStat) := []       -- buffers as its RC = 1 instructions have read them (R177)
deriving DecidableEq, Repr

/-- One set of weight registers of a frame's four decks (R81, R96): for every bead row and column its weight, in a 4-bit class pass
the weights of depths 2d and 2d + 1 together; for every block and column the scale and the offset. -/
structure Plane where
  weights : List (List Nat) := []
  scales : List (List Nat) := []
  offs : List (List Nat) := []
deriving DecidableEq, Repr

/-- The bead registers of a frame's four decks (R80, R81). The partial sums in flight are the accumulator tiles of the started
jobs (`Job.acc`). -/
structure Beads where
  active : Plane := {}
  shadow : Plane := {}
deriving DecidableEq, Repr

/-- Who wrote bytes during a step: a context's store or atomic, another unit of a region, or a COPY_IN for a region. -/
inductive Writer where
  | context (w : ThreadId) | unit (rid : Nat) | copy (rid : Nat)
deriving DecidableEq, Repr

/-- A write of the step (R125, R434): the bytes before it, the contexts to which it has been made visible, the contexts whose atomic
operations have met words of it, with those words, the first job and transfer that its context issued after it, and the signal
counters of its frame that a transfer issued after it has incremented, one entry for each increment. -/
structure Race where
  writer : Writer
  addr : Nat
  old : List Byte
  seen : List ThreadId := []
  met : List (ThreadId × Nat) := []
  job : Option W32 := none
  xfer : Option W32 := none
  signals : List Nat := []
deriving DecidableEq, Repr

/-- Verify slot states (R383). -/
inductive VState where
  | idle | pending | good | bad
deriving DecidableEq, Repr

/-- What an engine keeps with a row group on a frame beside the chain unit's registers (R213, R229, R238): the status word so
far, the backward row values D and L, and, between ring steps, the registers of the row group (log 63). -/
structure RgState where
  group : RowGroup
  ovf : Nat := 0
  exc : Option (Nat × Nat × Nat × Nat) := none   -- XSTAGE, row, column, kind
  d : List Nat := []
  stat : List Nat := []
  saved : Option AttRegs := none
deriving DecidableEq, Repr

/-- A frame (R115, R118, R86, R139, R146, R145, R75, R152, R162, R164, R167, R383, R214). -/
structure Frame where
  ctxs : SMap Ctx := []
  istore : SMap W64 := []
  cstore : SMap W64 := []
  deckQueue : List Job := []      -- accepted, not started (at most 4)
  inFlight : List Job := []       -- started, not delivered
  course : Option Course := none  -- delivered, its chain program waits (R168, R171)
  delivered : List Job := []      -- chain program run, not ended
  heldJobs : List Job := []       -- ended, effects withheld (R176)
  jobSeq : W32 := 0               -- latest accepted
  readDone : W32 := 0             -- latest job that a FENCEJ has seen read out (R143)
  dmaQueue : List Xfer := []      -- accepted, not started (at most 16)
  dmaActive : List Xfer := []     -- started
  dmaSeq : W32 := 0
  sig : SMap W32 := []            -- 32 signal counters
  bars : SMap (Nat × List (Nat × Nat)) := []   -- barrier number: bound count, arrived (core, context)
  beads : Beads := {}
  crush : W32 := 0
  ovf : W32 := 0
  slots : SMap Slot := []
  assembly : Option Assembly := none
  rstat : SMap RStat := []
  tallyIn : List TallyMsg := []   -- contributions on the mesh for this frame
  vslots : SMap VState := []
  slotSince : SMap Nat := []      -- by verify slot: the order of acceptance when its chunk first arrived (R177)
  redo : List Nat := []           -- verify slots whose jobs are to be executed again (R177)
  attRegs : AttRegs := {}
  attA : Option RowGroup := none  -- the row groups whose state the registers hold
  attB : Option RowGroup := none
  rgs : List RgState := []
  attQueue : List Xfer := []      -- transfers that the engine has entered, not started (R213)
  attTodo : List AttTask := []    -- what the engine has planned here and not yet entered
  kvCount : SMap Nat := []        -- by key and value buffer: substitutions counted in the block there
  kvStaged : List Staged := []
  attOwner : Option (Nat × Nat) := none   -- region and descriptor whose run holds the deck queue (R213)
deriving DecidableEq, Repr

/-! ## Requests (R283, R318) -/

/-- Request states (Table 9-2). -/
inductive RState where
  | free | queued | prompt | lead | handover | ended
deriving DecidableEq, Repr

/-- A range of positions of one layer written to the partner and not yet acknowledged, or acknowledged (R345, R347). -/
structure HoRange where
  layer : Nat
  lo : Nat
  hi : Nat
  port : Nat
deriving DecidableEq, Repr

/-- A request-table entry: Table 9-1, the sampler block of Table 10-1, and what firmware keeps with a request. -/
structure Req where
  state : RState := .free
  cls : Nat := 0
  region : Nat := 0
  handoff : Bool := false
  late : Bool := false
  demoted : Bool := false
  besteff : Bool := false
  earmark : Bool := false
  queue : Nat := 0
  hosttag : W32 := 0
  promptLen : Nat := 0
  seqlen : Nat := 0
  budget : Nat := 0
  generated : Nat := 0
  kmax : Nat := 0
  kcur : Nat := 0
  shareLen : Nat := 0
  pthdr : Nat := 0
  domain : Nat := 0
  variant : Nat := 0
  handle : W64 := 0
  arrival : W64 := 0
  ttftdl : W64 := 0
  tbt : Nat := 0
  firsttok : W64 := 0
  lasttok : W64 := 0
  maxgap : Nat := 0
  gapmiss : Nat := 0
  ptag : W32 := 0
  layout : Nat := 0
  endstat : BitVec 8 := 0
  sampler : List W64 := []        -- words 16..25
  rejrun : Nat := 0
  accrun : Nat := 0
  drafted : Nat := 0
  accepted : Nat := 0
  evicted : Nat := 0
  -- kept by firmware
  tokens : List W32 := []         -- the prompt's token identifiers (R430)
  lastToken : W32 := 0            -- last posted token (Table 11-4)
  order : Nat := 0                -- fetch order (R288)
  vlen : Nat := 0                 -- variant positions (R277)
  promptDone : Nat := 0           -- prompt positions processed, hits included
  hitBlocks : Nat := 0            -- blocks linked at admission (R268, R275)
  nodes : List Nat := []          -- nodes on which the request holds a reference
  lastNode : Nat := 0xFFFFF       -- parent of the next block to insert (R270)
  nextBlock : Nat := 0            -- next block to insert
  stopInsert : Bool := false
  hmiss : Bool := false           -- HANDLE_MISMATCH (R431)
  vuid : Nat := 0                 -- which loaded copy of its variant it references (R278)
  fetching : Bool := false        -- blocks are being fetched from a peer (R274)
  fetched : List FetchedNode := []   -- fetched, to be verified at the next boundary
  earPages0 : Nat := 0            -- earmarked counts (R287)
  earPages1 : Nat := 0
  earBlocks : Nat := 0
  ring : Bool := false            -- takes part in ring attention (R279)
  heldDemoted : Bool := false     -- a DEMOTED completion waits for a free entry (R432)
  noPost : Bool := false          -- ended by a Function Level Reset: no completion (R479)
  endPosted : Bool := false
  -- handoff (R344 to R353)
  hoOut : List HoRange := []      -- written, not acknowledged
  hoAck : List HoRange := []      -- acknowledged
  hoIssued : Bool := false        -- any write was issued (R351)
  promptAcked : Bool := false     -- sampled at order 2 (R348)
  tokenSent : Bool := false
  tokenAcked : Bool := false
  failed : Bool := false          -- handoff-failed (R353)
  abort : Bool := false           -- ends with ABORTED at the next boundary (R32, R193, R486, R491)
  walkRace : Bool := false        -- how a walk of a handoff port ends it at the next boundary (R254, R258)
  walkInvalid : Bool := false
  walkLimit : Bool := false
deriving DecidableEq, Repr

/-! ## Regions -/

/-- Page geometry of a model slot (Table 8-1). -/
structure Geom where
  ppos : Nat
  nl : Nat
  kvh : Nat
  hpass : Nat
  kvfmt : BitVec 5
deriving DecidableEq, Repr

/-- Where a pool page stands (R260, R263). -/
inductive PageState where
  | free | scrubbing | used
deriving DecidableEq, Repr

/-- A page of a slot's pool. -/
structure Page where
  addr : Nat
  st : PageState
  leaving : Bool := false       -- named by an accepted POOL_REMOVE
deriving DecidableEq, Repr

/-- A table-zone block in use or under scrub (R257, R263). -/
structure TBlock where
  n : Nat
  ridx : Nat
  slot : Nat
  scrubbing : Bool := false
deriving DecidableEq, Repr

/-- A learned-prefix variant (R277, R278). -/
structure Variant where
  num : Nat
  uid : Nat                   -- tells copies of one number apart
  vlen : Nat
  pages : List Nat            -- page addresses, block-major then layer
  refs : Nat := 0
  unloading : Bool := false   -- refused to new admissions
  ready : Bool := false       -- available from the boundary after the copy
deriving DecidableEq, Repr

/-- A class record of the serving set-up (Table 9-6). -/
structure ClassRec where
  guar : Bool := false
  latePolicy : Bool := false
  maxreq : Nat := 0
  maxprompt : Nat := 0
  ttft : Nat := 0
  tbt : Nat := 0
deriving DecidableEq, Repr

/-- A serving set-up (Table 9-6). -/
structure Setup where
  lowstate : Nat
  stepMax : Nat
  classes : List ClassRec
deriving DecidableEq, Repr

/-- A program image in force (Table 14-9). -/
structure Image where
  novary : Bool
  leadw : List Nat              -- listed lead widths below C, rising
  attention : List (List W64)   -- 16-word descriptors
  collective : List (List W64)
  sampler : List (List W64)     -- two 8-word descriptors
  entries : List Nat            -- 64 entry pcs
  bounds : List Byte            -- the bound tables (Table 14-9)
  code : List Byte
  chain : List Byte
deriving DecidableEq, Repr

/-- A length-table entry (Table 7-2). -/
structure LtEntry where
  ridx : Nat
  qcount : Nat
  qstart : Nat
deriving DecidableEq, Repr

/-- What a step carries for one request (R293, R254, R258). -/
structure StepReq where
  ridx : Nat
  grant : Nat := 0             -- prompt positions granted
  lead : Bool := false
  race : Bool := false
  invalid : Bool := false
  readonly : Bool := false
  limit : Bool := false
  cut : Bool := false          -- a walk of an attention engine failed: nothing more is fed (R254)
  aborted : Bool := false
  tokens : List (Option W32) := []     -- choices in ordinal order; none = the choice returned none
  accepted : Nat := 0
  present : Nat := 0           -- drafts present
  drafts : List W32 := []
  dq : List (List (Nat × Nat)) := []   -- kept list (token, FP32 probability) of each draft's choice (R332)
deriving DecidableEq, Repr

/-- A row that a KVAPP of the step has written (R241): the bytes before and after, its job, whether that job has ended, and the
descriptors that have started since. -/
structure KvWrite where
  addr : Nat
  old : List Byte
  new : List Byte
  frame : Nat
  seq : W32
  ended : Bool := false
  settled : List Nat := []
deriving DecidableEq, Repr

/-- A layer's entry in the digest accumulator (R409). -/
structure LayerAcc where
  layer : Nat
  digest : W64 := 0
  ntiles : Nat := 0
  crush : Nat := 0
  ovf : Nat := 0
  first : Option (Nat × W64) := none   -- TIDX and status of the least exception
deriving DecidableEq, Repr

/-- A digest-ring entry that waits for room (R439). -/
structure DigEntry where
  words : List W64
  trace : Bool
deriving DecidableEq, Repr

/-- An attention descriptor's progress in the step (R212). -/
inductive RunPhase where
  | idle | running | done
deriving DecidableEq, Repr

/-- The run of one attention descriptor in the step. -/
structure AttRun where
  desc : Nat
  phase : RunPhase := .idle
  groups : List RowGroup := []     -- the row groups of the run, in order (part 0 of each)
  todo : Nat := 0                  -- row groups (backward: work items) not finished
  parts : List Part := []
  dqNext : SMap Nat := []          -- backward: key blocks whose dQ partial is written, by row group (R240)
  ringStep : Nat := 0              -- ring steps started
  ringGot : List Nat := []         -- ring steps whose shard has arrived and been verified
  ringN : Nat := 0                 -- ring steps of the run, once the first has started
deriving DecidableEq, Repr

/-- The run of a sampler descriptor: starts so far, and the chosen tokens to write (R324, R325). -/
structure SampRun where
  phase : RunPhase := .idle
  starts : Nat := 0
  writes : List (Nat × W32) := []
deriving DecidableEq, Repr

/-- A bulk chunk received in the current attempt (R381). -/
structure Recv where
  sender : BitVec 14
  code : Nat                          -- number of the chunk among its sender's, from its role
  role : ChunkRole
  bytes : List Byte
  crc : W32                           -- of the bytes as received
  verdict : Option Bool := none       -- its token: the CRC agreed and CLEAN was 1
  ticks : Option (W64 × W64 × BitVec 14) := none   -- earliest and latest start tick of its token, and whose the latest is (R400)
deriving DecidableEq, Repr

/-- A bulk chunk sent in the current attempt, whose token follows once the chunks it consumed are checked (R381). -/
structure Sent where
  dest : BitVec 14
  code : Nat
  crc : W32
  deps : List (BitVec 14 × Nat)       -- chunks consumed: sender and number
  token : Bool := false               -- the token has been sent
deriving DecidableEq, Repr

/-- What the bulk lane carries: a chunk or its token (R356). -/
inductive Bulk where
  | chunk (c : ChunkMsg) | token (t : TokenMsg)
deriving DecidableEq, Repr

/-- A collective that has started in the step (R374, R385, R390). -/
structure Coll where
  ordinal : W32
  desc : Nat                          -- index in the collective list; 1,024 + n for a ring step of attention descriptor n
  gid : Nat
  length : Nat                        -- L
  own : List (List Byte) := []        -- the contribution of half 0, and of half 1 when half is masked
  drizzle : Bool := false
  map : List Nat := []                -- the permutation map, or the send counts, as read at the start
  counted : Bool := false             -- the received counts have been written to RCVADDR (R395)
  attempt : Nat := 0
  granted : List (BitVec 14) := []    -- members that answered our REQUEST with GRANT
  chunk : Nat := 0                    -- bytes of a chunk
  streams : List (BitVec 14) := []    -- neighbours granted, each with two chunks of staging store (R386)
  owed : List (BitVec 14) := []       -- neighbours whose REQUEST waits for staging store
  transit : List (BitVec 14 × Bulk) := []   -- chunks and tokens to be passed on, in order of arrival (R368, R386)
  asked : List (BitVec 14 × W64) := []    -- members whose REQUEST has come, with their start ticks
  recv : List Recv := []
  sent : List Sent := []
  cells : List (BitVec 14 × Nat × List Byte) := []   -- drizzle contributions by member, and the half of this module they are for
  written : List Nat := []            -- destination chunks written in the attempt: chunk × 2 + half
  touched : List Nat := []            -- destination chunks written in any attempt
  verified : List Nat := []           -- destination chunks whose slot is GOOD
  startTick : W64 := 0
  earliest : W64 := 0
  latest : W64 := 0
  latestMember : BitVec 14 := 0
  done : Bool := false                -- complete at this member
  signalled : Bool := false           -- its completion signal has been given
deriving DecidableEq, Repr

/-- A cell that waits for its ordinal or attempt to start (R387): KIND, the member it is for, and the cell. -/
structure HeldCell where
  kind : Nat
  dest : BitVec 14
  cell : Cell
deriving DecidableEq, Repr

/-- A collective group with its skew counters and laggard record (Table 12-3, R401, R509). -/
structure Group where
  w0 : W64
  w1 : W64
  skew : SMap W32 := []
  lagOrdinal : W32 := 0
  lagMember : BitVec 14 := 0
  lagSkew : Nat := 0                 -- in ticks
  lagValid : Bool := false
  halted : Bool := false
deriving DecidableEq, Repr

/-- A ring command that waits for a boundary (R256, R525): queue, HOSTTAG, and the command itself. -/
structure BCmd where
  queue : Nat
  hosttag : W32
  cmd : Instr
  upTo : Nat := 0             -- of a DISABLE or removal: the requests accepted before it, by fetch order (R312)
deriving DecidableEq, Repr

/-- What the boundary in course, or the step, is at (R289). -/
inductive RegionRun where
  | waiting        -- no step in course; the boundary waits or may launch
  | stepping       -- a step runs
  | stopping       -- compute was stopped; jobs accepted complete (R149)
deriving DecidableEq, Repr

/-- The SRV_ snapshot of R510. -/
structure SrvShot where
  state : W32 := 0
  step : W32 := 0
  active : W32 := 0
  freepg0 : W32 := 0
  freepg1 : W32 := 0
  tblfree : W32 := 0
  nodes : W32 := 0
deriving DecidableEq, Repr

/-- A region (R191, R194) and everything that lives and dies with it (R280). -/
structure Region where
  live : Bool := false
  bands : Nat := 0              -- bit b: band b
  gfirst : Nat := 0
  glast : Nat := 0
  w1 : Nat := 0
  w2 : Nat := 0
  w3 : Nat := 0
  sealed : Bool := false
  sealId : List Byte := []
  tpub : List Byte := []
  descriptor : W64 := 0
  -- pages and prefixes
  geom0 : Option Geom := none
  geom1 : Option Geom := none
  pool0 : List Page := []
  pool1 : List Page := []
  removals : List (BCmd × Nat × List Nat) := []   -- POOL_REMOVEs that wait: slot, pages
  tblocks : List TBlock := []
  nodesUsed : List Nat := []          -- node numbers that hold a node
  handles : List Nat := []            -- entries of the handle table that bind a handle (R275)
  variants : List Variant := []
  peerNotes : List (Bool × W64 × Nat × Nat × BitVec 14) := []  -- notices held: insert, hash, domain, variant, module
  gens : SMap W32 := []               -- live generation of (ridx × 2 + slot)
  snaps : SMap W32 := []
  -- serving
  setup : Option Setup := none
  demoted : BitVec 8 := 0
  image : Option Image := none
  stepNo : W32 := 0
  run : RegionRun := .waiting
  nlead : Nat := 0
  nleadLast : Nat := 0          -- nlead of the latest step (R291)
  promptN : Nat := 0            -- entries of the prompt and token tables in the control area (R215)
  tokenN : Nat := 0
  stepReqs : List StepReq := []
  hold : Option W64 := none
  trace : Option (Nat × Nat) := none        -- LAYER, steps left
  traceNext : Option (Nat × Nat) := none    -- to begin at the next launch
  traces : List DigestMsg := []
  overrun : Bool := false
  digest : List LayerAcc := []
  digWait : List DigEntry := []
  faultN : Nat := 0
  faultRecs : List (BitVec 128) := []
  faulted : Bool := false                   -- the step ended under R149
  noDigest : Bool := false                  -- the step was stopped by a Function Level Reset: no digest record (R479)
  noEnd : Bool := false                     -- stopped without PROGRAM_FAULT (R462, R479)
  bcmds : List BCmd := []
  disabled : Bool := false
  drains : List BCmd := []                  -- DISABLEs in progress
  removing : Bool := false                  -- forcibly removed at the next boundary
  disableDue : Bool := false                -- forcibly disabled at the next boundary (R32, R495, R498)
  abortAll : Bool := false                  -- R32, R193, R491: requests in flight end with ABORTED
  planned : Bool := false                   -- a plan awaits an agreed launch value (R290)
  readies : List (BitVec 14 × W64) := []
  collide : W32 := 0
  hovf : W32 := 0
  latecnt : W32 := 0
  shot : SrvShot := {}
  -- engines
  att : List AttRun := []
  samp0 : SampRun := {}
  samp1 : SampRun := {}
  kvWrites : List KvWrite := []
  kvMarks : List (Nat × Nat × Nat × Nat) := []   -- appended rows: request, layer, position, head × 2 + w
  -- collectives
  groups : SMap Group := []
  colls : List Coll := []
  started : List W32 := []
  reruns : Nat := 0
  heldCells : List HeldCell := []
deriving DecidableEq, Repr

/-! ## Host interface (R424, R437, R447) -/

/-- Roles of a queue (R447). -/
inductive Role where
  | unbound | owner | tenant
deriving DecidableEq, Repr

/-- A queue pair. -/
structure Queue where
  sqb : W64 := 0
  cqb : W64 := 0
  sqsz : Nat := 0
  cqsz : Nat := 0
  vector : Nat := 0
  ien : Bool := false
  rid : Nat := 0
  en : Bool := false
  sqhead : Nat := 0
  cqtail : Nat := 0
  phase : Bool := true
  tail : Nat := 0            -- latest SQTAIL value
  used : Nat := 0            -- completion entries written and not freed by CQHEAD
  reserved : Nat := 0        -- completion entries reserved (R432)
  unfinished : Nat := 0      -- requests and commands fetched and not finished (R425)
  disabled : Bool := false
  drain : List BCmd := []
  role : Role := .unbound
  brid : Nat := 0
  stream : Nat := 0
  diagok : Bool := false
  domlo : Nat := 0
  domhi : Nat := 0
deriving DecidableEq, Repr

/-- The error ring, or a digest ring (Table 14-10). -/
structure Ring where
  base : W64 := 0
  sz : Nat := 0
  vector : Nat := 0
  ien : Bool := false
  en : Bool := false
  tail : Nat := 0
  used : Nat := 0
  phase : Bool := true
  lost : W32 := 0           -- HIF_ERRLOST (error ring)
  owed : Bool := false      -- LOST, or GAP, to set in the next entry
deriving DecidableEq, Repr

/-- Host-interface state outside the queues. -/
structure Hif where
  queues : SMap Queue := [(0, { role := .owner, domhi := 0xFFFF })]   -- R447
  err : Ring := {}
  dig : SMap Ring := []
  msix : SMap W32 := []          -- MSI-X table words written, by word index
  msixPending : List Nat := []   -- vectors whose pending bit is set
  msixOn : Bool := false         -- MSI-X Enable
  msixMask : Bool := false       -- Function Mask
  latch : SMap W32 := []         -- latched _HI by the _HI offset (R13)
  hiWait : SMap W32 := []        -- _HI values written and not yet effective (R13)
  width : BitVec 5 := 0
  speed : BitVec 3 := 0
  flit : Bool := false
  fetchOrder : Nat := 0
  turn : Nat := 0                -- the queue fetched from last, and entries fetched from it in its turn (R428)
  turnN : Nat := 0
  d3hot : Bool := false          -- the function is in D3hot (Table 14-1)
  cfg : SMap W32 := []           -- double words of configuration space as written
  batch : List Nat := []         -- vectors named by the postings of the batch in course (R440)
  inBatch : Bool := false
deriving DecidableEq, Repr

/-! ## Power, clocks, start-up -/

/-- What the supply and the trips leave powered (R513, R474). -/
inductive Rail where
  | on | off | overHold | tripped
deriving DecidableEq, Repr

/-- One half's power and clock (R465, R472, Table 16-3). -/
structure HalfPwr where
  active : Bool := false
  step : BitVec 2 := 0
  up : Option (BitVec 2) := none    -- target of a step up in progress
  throttled : Bool := false         -- below its cap under Table 16-3
  thermal : Bool := false           -- for a thermal cause (R520)
  cool : Nat := 0                   -- consecutive milliseconds of margin
  tj : BitVec 8 := 0
deriving DecidableEq, Repr

/-- Power management. -/
structure Power where
  rail : Rail := .on
  offcause : BitVec 2 := 0
  west : HalfPwr := {}
  east : HalfPwr := {}
  lull : Bool := false
  deepest : BitVec 2 := 1
  lulldly : BitVec 16 := 100
  wmax : BitVec 2 := 0
  emax : BitVec 2 := 0
  capsDue : Bool := false
  limit : BitVec 11 := 1650
  stj : BitVec 8 := 0
  plate : BitVec 8 := 0
  input : BitVec 16 := 0
  energy : Nat := 0            -- nJ
  psLatched : Bool := false
  thermLatched : Bool := false
  plateHot : Bool := false
  alert : Bool := false        -- ALERT# driven low
  warmSince : W64 := 0
deriving DecidableEq, Repr

/-- A control core (R19, R496). -/
inductive CoreState where
  | service | spare | retired
deriving DecidableEq, Repr

/-- Start-up, resets, pins and module-wide status. -/
structure Sys where
  stage : BitVec 4 := 7
  lastreset : BitVec 3 := 0
  perst : Bool := false
  earlyDeassert : Bool := false    -- a deassertion before stage 0x1 (R516)
  present : Bool := true
  homodeGround : Bool := false
  mapgen : W32 := 2
  ceCount : W32 := 0
  extraDegraded : Bool := false    -- an array has no spare row left for a row that is due (R492)
  cores : List CoreState := [.service, .service, .service, .service, .spare]
  keeperExpiry : Option W64 := none
  sbAddr : Option (BitVec 7) := none   -- dynamic address on the sideband bus; without one the static 0x5A (Table 19-5, log 200)
deriving DecidableEq, Repr

/-- A record of the fault history (R498): kind and physical coordinate or number, with its tick. Of a frame's unit the position says
which frame, and the number in the unit is 0. -/
inductive FaultKind where
  | frame (p : Pos) | package (tier2 : Bool) (n : Nat) | lane (port lane : Nat) | link (a b : Pos) | core (n : Nat)
  | row (at_ : Option Pos) (u : SramUnit) (row : Nat)          -- a row that a spare row replaced
  | noSpareRow (u : SramUnit) (row : Nat)                      -- a row of an array outside the frames with no spare row left
  | granule (tier2 : Bool) (ctrl off : Nat)
  | handoffLane (port lane : Nat)
deriving DecidableEq, Repr

/-- A firmware image in flash (Table 15-7). -/
structure FwImage where
  version : W32
  svn : Nat
  digest : List Byte
deriving DecidableEq, Repr

/-- Fuses and module flash, which no reset clears (Table 16-5). -/
structure NonVol where
  grade352 : Bool := false
  fused : SMap Nat := []              -- FP2-352: row-half (half × 16 + prow) to fused-off pcol; default 12
  serial : W64 := 0
  dierev : BitVec 4 := 0
  modrev : BitVec 4 := 0
  qualT1 : Byte := 0
  qualT2 : Byte := 0
  rollback : Nat := 0
  fw : Option FwImage := some { version := 0, svn := 0, digest := List.replicate 64 0 }
  ownerKey : Option (List Byte) := none
  history : List (FaultKind × W64) := []
deriving DecidableEq, Repr

/-- Frame map and sparing (R24, R32, R489, R492). -/
structure FMap where
  retired : List Pos := []            -- in recorded order
  lostCols : List (Nat × Nat) := []   -- logical (col, row) out of service
  tests : List Pos := []              -- awaiting a known-answer test
  lostLinks : List (Pos × Pos) := []
  retrain : List (Pos × Pos × Bool) := []   -- links to retrain at the next boundary, and whether they still fail then
  rows : List (SramUnit × Nat) := []  -- spare rows brought in
  rowsDue : List (SramUnit × Nat) := []
deriving DecidableEq, Repr

/-- A memory controller (Table 18-7). -/
structure Ctrl where
  state : BitVec 2 := 0
  lost : List Nat := []     -- package offsets, arrival order
  ce : W32 := 0
  retry : W32 := 0
deriving DecidableEq, Repr

/-- Memory controllers and key slots. -/
structure MemCtl where
  t1 : SMap Ctrl := []
  t2 : SMap Ctrl := []
  serves : BitVec 5 := 0x1F
  lostsel : BitVec 16 := 0
  copyDone : Bool := false       -- the migration's copy is complete; the switch waits for a boundary (R494)
  keys : SMap (List Byte) := []  -- key pairs by slot: controller (tier 2 from 32) × 4 + region (R202)
  keyDraws : Nat := 0
deriving DecidableEq, Repr

/-- Kinds of SPDM session, by the limits of R460: with mutual authentication as the owner (or, with no owner stored, as who may
enrol) or as a tenant, or attestation only. -/
inductive SessKind where
  | ownership | tenant | attestation
deriving DecidableEq, Repr

/-- An open SPDM session. -/
structure Session where
  id : Nat
  kind : SessKind
  key : List Byte
  sideband : Bool
  keyNo : Nat := 0                    -- KEY_UPDATEs of the session (R460)
deriving DecidableEq, Repr

/-- One IDE stream (R422, R453). -/
structure Ide where
  enabled : Bool := false
  owner : Option (List Byte) := none  -- requester key of the session that keyed it first
  session : Option Nat := none        -- that session (Table 15-6)
  pending : List Byte := []           -- key set delivered by KEY_PROG
  current : List Byte := []
deriving DecidableEq, Repr

/-- The security block. -/
structure Sec where
  sessions : List Session := []
  nextSess : Nat := 0
  linkIde : Ide := {}
  selIde : SMap Ide := []
  cak : Option (BitVec 16 × List Byte) := none
  fabricKey : Option (List Byte) := none
  chal : Nat := 0                     -- index of the free value shown as SEC_CHAL
  debug : Bool := false
  unlocking : Bool := false           -- a debug unlock has erased the keys, and regions still await their removal (R462)
  recovery : Bool := false
  recovAddr : W64 := 0
  recovLen : W32 := 0
  recovResult : BitVec 3 := 0
  running : Option FwImage := some { version := 0, svn := 0, digest := List.replicate 64 0 }
  tlpDiscards : Nat := 0              -- TLPs discarded outside IDE (R422)
deriving DecidableEq, Repr

/-- An attention engine and the walk caches (Table 18-13, R255). -/
structure Eng where
  busy : Bool := false
  desc : Nat := 0
  sampler : Bool := false
  blocks : W32 := 0
  skipped : W32 := 0
deriving DecidableEq, Repr

/-- Engines and walk caches. A cache entry is (rid, ridx × 2 + slot, page index, entry). -/
structure Att where
  eng : SMap Eng := []
  wcW : List (Nat × Nat × Nat × W64) := []
  wcE : List (Nat × Nat × Nat × W64) := []
  missW : W32 := 0
  missE : W32 := 0
deriving DecidableEq, Repr

/-- A ZL port (Table 18-9, R493). -/
structure Port where
  up : Bool := false
  lanes : Nat := 0
  spare : Bool := false
  auth : Bool := false
  held : Bool := false
  peer : BitVec 14 := 0
  peerPort : BitVec 4 := 0
  peerValid : Bool := false
  replay : W32 := 0
  bad : List Nat := []       -- lanes out of use
  retrying : Bool := false   -- a flit failed its CRC and its replay is due
deriving DecidableEq, Repr

/-- Fabric set-up and global-counter synchronisation. -/
structure Fab where
  coord : W32 := 0
  coordSet : Bool := false
  ports : SMap Port := []
  statsel : BitVec 14 := 0
  locked : Bool := false
  jumped : Bool := false
  offset : Int := 0          -- latest measured offset, in half nanoseconds
  stable : Option W64 := none   -- since when it has stayed within 4 ns
  adjustAt : Option W64 := none   -- tick of the latest one-tick correction, while within 1,000 ticks (R417)
  holdFrom : Option W64 := none   -- tick of a spare-lane change on the parent link, while within 100 µs (R419)
  lost : Bool := false       -- GC_UNLOCK has been posted and no GC_LOCK since (R419)
  skipTick : Bool := false     -- the counter omits its next tick (R417)
deriving DecidableEq, Repr

/-- Connection states (R338). -/
inductive Conn where
  | closed | connecting | connected | error
deriving DecidableEq, Repr

/-- A handoff port (R335, R336, R338). -/
structure HoPort where
  conn : Conn := .closed
  retries : Nat := 0
  rnr : Nat := 0
  sak : Option (List Byte × List Byte) := none   -- the SAK installed by MKA, and its XPN salt (R453)
  paused : Bool := false      -- the handoff priority is paused
  rate : Nat := 100           -- sending rate, percent of line rate
  discards : Nat := 0
  lanesLost : List Nat := []
  linkUp : Bool := true
deriving DecidableEq, Repr
/-- Handoff. -/
structure Handoff where
  pairing : Option (List W64) := none     -- 14 words of Table 11-2
  port0 : HoPort := {}
  port1 : HoPort := {}
  up : Bool := false                      -- session UP
  layouts : SMap (List W64) := []         -- 8 words each
  revokes : List (Nat × List W64 × Nat) := []   -- request index, notice, port
  disabled : Bool := false
  drains : List BCmd := []
deriving DecidableEq, Repr

/-- The mesh. -/
structure Mesh where
  discards : Nat := 0          -- packets discarded by a router (R193)
deriving DecidableEq, Repr

/-- What the module puts on its interfaces. -/
inductive Out where
  | msix (vector : Nat) (addr : W64) (data : W32)   -- the message of a vector's table entry
  | hostWrite (strict : Bool) (addr : W64) (bytes : List Byte)   -- strict: the write is not Relaxed Ordering (R431)
  | readReply (value : W64)
  | unsupported (addr : W64)
  | configRetry
  | configReply (value : W32)
  | configDone
  | sideband (words : List W64)
  | sidebandError
  | spdm (bytes : List Byte)
  | spdmError
  | rdmaWrite (port : Nat) (addr : W64) (rkey : W32) (bytes : List Byte)
  | rdmaSend (port : Nat) (words : List W64)
  | cmRequest (port : Nat)
  | cell (port : Nat) (dest : BitVec 14) (bytes : List Byte)
  | chunk (port : Nat) (dest : BitVec 14) (c : ChunkMsg)
  | token (port : Nat) (dest : BitVec 14) (t : TokenMsg)
  | meshDeliver (p : Packet)
  | flitReplay (port : Nat)
  | training (port : Nat) (coord : BitVec 14) (rack : Nat) (nonce mac : List Byte)
  | peerRequest (dest : BitVec 14) (hashes : List W64)
  | inStream (k : IdeStream) (o : Out)   -- a TLP inside an IDE stream (R422)
deriving DecidableEq, Repr

/-- What registers other than those of R504's list show in Lull: the parts of the state they are read from, as at the entry. -/
structure LullView where
  sys : Sys
  map : FMap
  mc : MemCtl
  hif : Hif
  sec : Sec
  regions : SMap Region
  att : Att
  fab : Fab
deriving DecidableEq, Repr

/-- The state of the module. -/
structure State where
  pending : List Instr := []
  gc : W64 := 0
  mem : List Host.Cell := []
  nv : NonVol := {}
  sys : Sys := {}
  pwr : Power := {}
  map : FMap := {}
  mc : MemCtl := {}
  hif : Hif := {}
  sec : Sec := {}
  regions : SMap Region := []
  reqs : SMap Req := []
  frames : SMap Frame := []
  att : Att := {}
  fab : Fab := {}
  ho : Handoff := {}
  mesh : Mesh := {}
  out : List Out := []
  atLull : Option LullView := none   -- what registers show while the module is in Lull (R504)
  races : List Race := []            -- MODEL: writes of the steps that run, latest first (R125, R434)
  stamp : Nat := 0             -- MODEL: number of jobs and transfers accepted, the order of acceptance (R111, R112)
  freeCtr : Nat := 1
deriving DecidableEq, Repr

/-- The module right after reset: READY, no region, no owner, queue 0 OWNER, both halves Warm (R478, R485, log 8). -/
def State.reset : State := {}

end Sys2Proof.Machine
end

