-- ==== Sys2Proof/Machine/Ops.lean ====
section
/-! DEFINITION. The named operations that every meaning shares: sparse tables, memory, bit fields, the parts of the
state by number, free values, the geometry of the grade, events on the error ring, completions, MSI-X, and the
guards that power and reset put in front of host commands. -/

namespace Sys2Proof.Machine

/-! ## Sparse tables -/

/-- The entry of a sparse table at a key, `d` where none is listed. -/
def smGet {α : Type} (d : α) : SMap α → Nat → α
  | [], _ => d
  | (k, v) :: r, n => if k = n then v else smGet d r n

/-- Put an entry in place, keeping the keys rising. -/
def smPut {α : Type} : SMap α → Nat → α → SMap α
  | [], n, x => [(n, x)]
  | (k, v) :: r, n, x =>
    if k < n then (k, v) :: smPut r n x else if k = n then (n, x) :: r else (n, x) :: (k, v) :: r

/-- Take a key's entry out. -/
def smDel {α : Type} : SMap α → Nat → SMap α
  | [], _ => []
  | (k, v) :: r, n => if k = n then smDel r n else (k, v) :: smDel r n

/-- Write a sparse table: writing the default removes the entry, so equal tables are equal lists. -/
def smSet {α : Type} [DecidableEq α] (d : α) (m : SMap α) (n : Nat) (x : α) : SMap α :=
  if x = d then smDel m n else smPut m n x

/-- The canonical form of a sparse table: keys strictly rising from `lo`, no entry equal to the default. -/
def smWfFrom {α : Type} [DecidableEq α] (d : α) : Nat → SMap α → Bool
  | _, [] => true
  | lo, (k, v) :: r => decide (lo ≤ k) && decide (v ≠ d) && smWfFrom d (k + 1) r

/-- The canonical form of a sparse table. -/
def smWf {α : Type} [DecidableEq α] (d : α) (m : SMap α) : Bool := smWfFrom d 0 m

/-! ## Memory (R7, R196) -/

/-- What a byte of memory that nothing has written reads as (log 5). -/
def Memory.unwritten : Byte := 0

/-- One byte of memory. -/
def memGet (m : List Host.Cell) (a : Nat) : Byte := smGet Memory.unwritten m a

/-- Write one byte of memory. -/
def memSet (m : List Host.Cell) (a : Nat) (b : Byte) : List Host.Cell := smSet Memory.unwritten m a b

/-- The canonical form of memory. -/
def Memory.wf (m : List Host.Cell) : Bool := smWf Memory.unwritten m

/-- `n` bytes from `a` upward. -/
def readBytes (m : List Host.Cell) : Nat → Nat → List Byte
  | _, 0 => []
  | a, n + 1 => memGet m a :: readBytes m (a + 1) n

/-- Write a byte string from `a` upward. -/
def writeBytes (m : List Host.Cell) (a : Nat) : List Byte → List Host.Cell
  | [] => m
  | b :: bs => writeBytes (memSet m a b) (a + 1) bs

/-- The number a little-endian byte string spells (R7). -/
def leNat : List Byte → Nat
  | [] => 0
  | b :: bs => b.toNat + 256 * leNat bs

/-- The `n` low bytes of a number, little-endian (R7). -/
def leBytes : Nat → Nat → List Byte
  | 0, _ => []
  | n + 1, v => BitVec.ofNat 8 v :: leBytes n (v / 256)

/-- A little-endian number in memory. -/
def readLe (m : List Host.Cell) (a n : Nat) : Nat := leNat (readBytes m a n)

/-- Write a little-endian number of `n` bytes. -/
def writeLe (m : List Host.Cell) (a n v : Nat) : List Host.Cell := writeBytes m a (leBytes n v)

/-- The 64-bit words of a byte string (R7). -/
def wordsOf : Nat → List Byte → List W64
  | 0, _ => []
  | n + 1, bs => BitVec.ofNat 64 (leNat (bs.take 8)) :: wordsOf n (bs.drop 8)

/-- Zero `n` bytes from `a` upward, taking the entries out of the list. -/
def zeroBytes (m : List Host.Cell) (a n : Nat) : List Host.Cell :=
  m.filter fun c => !(decide (a ≤ c.1) && decide (c.1 < a + n))

/-! ## Bit fields -/

/-- Bits [hi:lo] of a number. -/
def bitsOf (w hi lo : Nat) : Nat := (w >>> lo) % 2 ^ (hi + 1 - lo)

/-- Bits [hi:lo] of a word. -/
def fld {n : Nat} (w : BitVec n) (hi lo : Nat) : Nat := bitsOf w.toNat hi lo

/-- One bit of a word. -/
def bitAt {n : Nat} (w : BitVec n) (i : Nat) : Bool := w.getLsbD i

/-- A two's complement field of `n` bits as an integer. -/
def signedOf (n v : Nat) : Int := if v < 2 ^ (n - 1) then (v : Int) else (v : Int) - (2 ^ n : Nat)

/-- 1 or 0. -/
def b2n (b : Bool) : Nat := if b then 1 else 0

/-- Word `k` of a ring entry or a descriptor; a word not listed is 0. -/
def wordAt (e : List W64) (k : Nat) : W64 := e.getD k 0

/-- Every word of an entry from index `k` on is 0 (R10). -/
def zeroFrom (e : List W64) (k : Nat) : Bool := (e.drop k).all (fun w => decide (w = 0))

/-- Saturating increment of a 32-bit counter by `n` (R502, R75). -/
def satAdd (w : W32) (n : Nat) : W32 :=
  if w.toNat + n < 2 ^ 32 then BitVec.ofNat 32 (w.toNat + n) else 0xFFFFFFFF

/-- Replace entry `i` of a list. -/
def setAt {α : Type} : List α → Nat → α → List α
  | [], _, _ => []
  | _ :: r, 0, x => x :: r
  | y :: r, n + 1, x => y :: setAt r n x

/-- Quotient rounded up. -/
def ceilDiv (a b : Nat) : Nat := (a + b - 1) / b

/-! ## Geometry of the grade (R2, R3, R4, R22, R23, Table 6-3) -/

/-- Logical columns of the module. -/
def NonVol.cols (nv : NonVol) : Nat := if nv.grade352 then 22 else 24

/-- Working frames in each row of each half (R2, R3). -/
def NonVol.workCols (nv : NonVol) : Nat := if nv.grade352 then 11 else 12

/-- Number of logical frames (R1). -/
def NonVol.frames (nv : NonVol) : Nat := nv.cols * 16

/-- Logical column of a frame index (R23). -/
def colOf (nv : NonVol) (f : Nat) : Nat := f % nv.cols

/-- Logical row of a frame index (R23). -/
def rowOf (nv : NonVol) (f : Nat) : Nat := f / nv.cols

/-- Frame index of a logical frame (R23). -/
def frameAt (nv : NonVol) (col row : Nat) : Nat := row * nv.cols + col

/-- The half of a logical column (R4). -/
def halfOfCol (nv : NonVol) (col : Nat) : Half := if col < nv.workCols then .west else .east

/-- Column group of a logical column (Table 6-3). -/
def groupOfCol (nv : NonVol) (col : Nat) : Nat := if nv.grade352 then (col + 1) / 4 else col / 4

/-- First and last logical column of a column group (Table 6-3). -/
def groupCols (nv : NonVol) (k : Nat) : Nat × Nat :=
  if nv.grade352 then (if k = 0 then (0, 2) else (4 * k - 1, if k = 5 then 21 else 4 * k + 2)) else (4 * k, 4 * k + 3)

/-- Whether a region holds unit (k, b) (R191). -/
def Region.holdsUnit (r : Region) (k b : Nat) : Bool :=
  r.live && r.bands.testBit b && decide (r.gfirst ≤ k) && decide (k ≤ r.glast)

/-- Whether a region holds a logical frame (R191). -/
def Region.holdsFrame (nv : NonVol) (r : Region) (f : Nat) : Bool :=
  decide (f < nv.frames) && r.holdsUnit (groupOfCol nv (colOf nv f)) (rowOf nv f / 8)

/-- Number of whole units of a region. -/
def Region.units (r : Region) : Nat :=
  if r.live then (r.glast + 1 - r.gfirst) * (b2n (r.bands.testBit 0) + b2n (r.bands.testBit 1)) else 0

/-- Columns of a region. -/
def Region.cols (nv : NonVol) (r : Region) : Nat :=
  if r.live then (groupCols nv r.glast).2 + 1 - (groupCols nv r.gfirst).1 else 0

/-- Frames of a region in frame-index order. -/
def Region.frameList (nv : NonVol) (r : Region) : List Nat :=
  (List.range nv.frames).filter (r.holdsFrame nv)

/-- Frames of the logical rectangle with two opposite corners, in frame-index order. -/
def rectFrames (nv : NonVol) (a b : Nat) : List Nat :=
  (List.range nv.frames).filter fun f =>
    decide (min (colOf nv a) (colOf nv b) ≤ colOf nv f) && decide (colOf nv f ≤ max (colOf nv a) (colOf nv b)) &&
    decide (min (rowOf nv a) (rowOf nv b) ≤ rowOf nv f) && decide (rowOf nv f ≤ max (rowOf nv a) (rowOf nv b))

/-! ## Stops of a unit (Table 6-4) -/

/-- The units (k, b) of a region, in increasing band and group. -/
def Region.unitList (r : Region) : List (Nat × Nat) :=
  (List.range 2).flatMap fun b => ((List.range 6).filter fun k => r.holdsUnit k b).map fun k => (k, b)

/-- Number of GDDR7 controller A of a unit; B is the next one. -/
def unitT1 (k b : Nat) : Nat := if k < 3 then 4 * k + 2 * b else 12 + 4 * (k - 3) + 2 * b

/-- Number of the LPDDR6 controller, and of the Zhevmal link port, of a unit. -/
def unitT2 (k b : Nat) : Nat := if k < 3 then 2 * k + b else 6 + 2 * (k - 3) + b

/-- The unit of Zhevmal link port, or of LPDDR6 controller, n. -/
def unitOf (n : Nat) : Nat × Nat := if n < 6 then (n / 2, n % 2) else (3 + (n - 6) / 2, n % 2)

/-- Attention engines and handoff attachments by engine number: their unit. -/
def engineUnit (e : Nat) : Nat × Nat := (2 + e % 2, e / 2)

/-- A block that attaches to the mesh at a stop: a GDDR7 controller, an LPDDR6 controller, a Zhevmal link port, an attention
engine, handoff port p's attachment in band b, or one end of seam stop i of band b. -/
inductive Stop where
  | t1 (c : Nat) | t2 (c : Nat) | link (k : Nat) | engine (e : Nat) | handoff (p b : Nat) | seam (b i : Nat) (east : Bool)
deriving DecidableEq, Repr

/-- The unit (k, b) of a stop, with column j counted from the seam side and row r within the band (Table 6-4). -/
def Stop.place : Stop → (Nat × Nat) × Nat × Nat
  | .t1 c => (unitOf (c / 2), if c % 2 = 0 then (1, 1) else (2, 5))
  | .t2 c => (unitOf c, 0, 5)
  | .link k => (unitOf k, 2, 2)
  | .engine e => (engineUnit e, 1, 6)
  | .handoff p b => ((2 + p, b), 2, 7)
  | .seam b i east => ((if east then 3 else 2, b), 0, if b = 0 then 3 + 4 * i else 4 * i)

/-- The logical frame at whose stop a block attaches (R190). -/
def Stop.frame (nv : NonVol) (x : Stop) : Nat :=
  let u := x.place.1
  let g := groupCols nv u.1
  frameAt nv (if u.1 < 3 then g.2 - x.place.2.1 else g.1 + x.place.2.1) (8 * u.2 + x.place.2.2)

/-- Tier-1 controllers of a region, in increasing number (R199). -/
def Region.t1List (r : Region) : List Nat :=
  (List.range 24).filter fun c => r.unitList.any fun u => decide (unitT1 u.1 u.2 = c / 2 * 2)

/-- Tier-2 controllers of a region, in increasing number; also its Zhevmal link ports. -/
def Region.t2List (r : Region) : List Nat :=
  (List.range 12).filter fun c => r.unitList.any fun u => decide (unitT2 u.1 u.2 = c)

/-- The region holds attention engine e. -/
def Region.holdsEngine (r : Region) (e : Nat) : Bool := r.holdsUnit (engineUnit e).1 (engineUnit e).2

/-! ## Address map (R196 to R198, R320) -/

/-- Base of region n's tier-1 window. -/
def t1Base (n : Nat) : Nat := n * 0x003000000000

/-- Base of region n's tier-2 window. -/
def t2Base (n : Nat) : Nat := 0x010000000000 + n * 0x012000000000

/-- Tier-1 size of a region: 16 GiB a unit. -/
def Region.t1Size (r : Region) : Nat := r.units * 0x400000000

/-- Tier-2 size of a region: 96 GiB a unit. -/
def Region.t2Size (r : Region) : Nat := r.units * 0x1800000000

/-- Base of the control area: the last 256 MiB of the tier-1 window (R198). -/
def Region.ctlBase (r : Region) (n : Nat) : Nat := t1Base n + r.t1Size - 0x10000000

/-- Base of the sampler area: the last 1,152 MiB of the tier-2 window (R320). -/
def Region.sampBase (r : Region) (n : Nat) : Nat := t2Base n + r.t2Size - 0x48000000

/-- Base of the frame-store area. -/
def storeBase : Nat := 0xF00000000000

/-- Physical address of a frame-store offset (R29). -/
def storeAddr (f off : Nat) : Nat := storeBase + f * 0x400000 + off

/-- Size of a frame store: 3 MiB. -/
def storeSize : Nat := 0x300000

/-- A region owns the stops in its units (R191). -/
def Region.holdsStop (r : Region) (x : Stop) : Bool := r.holdsUnit x.place.1.1 x.place.1.2

/-- Where an address lies (R196). -/
inductive Place where
  | tier1 (n : Nat) (off : Nat)
  | tier2 (n : Nat) (off : Nat)
  | store (f : Nat) (off : Nat)
  | nowhere
deriving DecidableEq, Repr

/-! ## Parts of the state by number -/

namespace State

/-- Region n. -/
def region (s : State) (n : Nat) : Region := smGet {} s.regions n

/-- Replace region n. -/
def setRegion (s : State) (n : Nat) (r : Region) : State := { s with regions := smSet {} s.regions n r }

/-- Change region n. -/
def modRegion (s : State) (n : Nat) (f : Region → Region) : State := s.setRegion n (f (s.region n))

/-- Frame f. -/
def frame (s : State) (f : Nat) : Frame := smGet {} s.frames f

/-- Replace frame f. -/
def setFrame (s : State) (f : Nat) (x : Frame) : State := { s with frames := smSet {} s.frames f x }

/-- Change frame f. -/
def modFrame (s : State) (f : Nat) (g : Frame → Frame) : State := s.setFrame f (g (s.frame f))

/-- Request-table entry. -/
def req (s : State) (i : Nat) : Req := smGet {} s.reqs i

/-- Replace a request-table entry. -/
def setReq (s : State) (i : Nat) (r : Req) : State := { s with reqs := smSet {} s.reqs i r }

/-- Change a request-table entry. -/
def modReq (s : State) (i : Nat) (f : Req → Req) : State := s.setReq i (f (s.req i))

/-- Queue q. -/
def queue (s : State) (q : Nat) : Queue := smGet {} s.hif.queues q

/-- Replace queue q. -/
def setQueue (s : State) (q : Nat) (x : Queue) : State :=
  { s with hif := { s.hif with queues := smSet {} s.hif.queues q x } }

/-- Change queue q. -/
def modQueue (s : State) (q : Nat) (f : Queue → Queue) : State := s.setQueue q (f (s.queue q))

/-- Digest ring of region n. -/
def digRing (s : State) (n : Nat) : Ring := smGet {} s.hif.dig n

/-- Replace the digest ring of region n. -/
def setDigRing (s : State) (n : Nat) (r : Ring) : State :=
  { s with hif := { s.hif with dig := smSet {} s.hif.dig n r } }

/-- Attention engine e. -/
def engine (s : State) (e : Nat) : Eng := smGet {} s.att.eng e

/-- Change attention engine e. -/
def modEngine (s : State) (e : Nat) (f : Eng → Eng) : State :=
  { s with att := { s.att with eng := smSet {} s.att.eng e (f (s.engine e)) } }

/-- ZL port k. -/
def port (s : State) (k : Nat) : Port := smGet {} s.fab.ports k

/-- Change ZL port k. -/
def modPort (s : State) (k : Nat) (f : Port → Port) : State :=
  { s with fab := { s.fab with ports := smSet {} s.fab.ports k (f (s.port k)) } }

/-- Tier-1 controller c. -/
def t1 (s : State) (c : Nat) : Ctrl := smGet {} s.mc.t1 c

/-- Change tier-1 controller c. -/
def modT1 (s : State) (c : Nat) (f : Ctrl → Ctrl) : State :=
  { s with mc := { s.mc with t1 := smSet {} s.mc.t1 c (f (s.t1 c)) } }

/-- Tier-2 controller c. -/
def t2 (s : State) (c : Nat) : Ctrl := smGet {} s.mc.t2 c

/-- Change tier-2 controller c. -/
def modT2 (s : State) (c : Nat) (f : Ctrl → Ctrl) : State :=
  { s with mc := { s.mc with t2 := smSet {} s.mc.t2 c (f (s.t2 c)) } }

/-- Handoff port p. -/
def hoPort (s : State) (p : Nat) : HoPort := if p = 0 then s.ho.port0 else s.ho.port1

/-- Change handoff port p. -/
def modHoPort (s : State) (p : Nat) (f : HoPort → HoPort) : State :=
  { s with ho := if p = 0 then { s.ho with port0 := f s.ho.port0 } else { s.ho with port1 := f s.ho.port1 } }

/-- One half's power and clock. -/
def half (s : State) (h : Half) : HalfPwr := match h with | .west => s.pwr.west | .east => s.pwr.east

/-- Change one half's power and clock. -/
def modHalf (s : State) (h : Half) (f : HalfPwr → HalfPwr) : State :=
  match h with
  | .west => { s with pwr := { s.pwr with west := f s.pwr.west } }
  | .east => { s with pwr := { s.pwr with east := f s.pwr.east } }

/-- Put something on an interface. -/
def emit (s : State) (o : Out) : State := { s with out := s.out ++ [o] }

/-- The next free value (log 4), and the state with the index advanced. -/
def takeFree (s : State) : W64 × State := (Config.free64 s.freeCtr, { s with freeCtr := s.freeCtr + 1 })

/-- The region that holds a frame, if any (R192: at most one). -/
def regionOfFrame (s : State) (f : Nat) : Option Nat :=
  (List.range 4).find? fun n => (s.region n).holdsFrame s.nv f

/-- Where a physical address lies, among the ranges that exist (R196, R30). -/
def place (s : State) (a : Nat) : Place :=
  if storeBase ≤ a then
    let f := (a - storeBase) / 0x400000
    let off := (a - storeBase) % 0x400000
    if f < s.nv.frames ∧ off < storeSize ∧ a < 2 ^ 48 then .store f off else .nowhere
  else
    match (List.range 4).find? fun n => decide (t1Base n ≤ a) && decide (a < t1Base n + (s.region n).t1Size) with
    | some n => .tier1 n (a - t1Base n)
    | none =>
      match (List.range 4).find? fun n => decide (t2Base n ≤ a) && decide (a < t2Base n + (s.region n).t2Size) with
      | some n => .tier2 n (a - t2Base n)
      | none => .nowhere

end State

/-- How an access by a region to an address fares (R197, R198, R320). -/
inductive Reach where
  | ok | badAddress | regionEdge
deriving DecidableEq, Repr

/-- Whether region n may touch an address: its windows outside the control and sampler areas, or the store of one of
its frames; else which fault (R197, R198, R320). -/
def State.reach (s : State) (n a : Nat) : Reach :=
  let r := s.region n
  match s.place a with
  | .nowhere => .badAddress
  | .tier1 k _ => if k = n ∧ a < r.ctlBase n then .ok else .regionEdge
  | .tier2 k _ => if k = n ∧ a < r.sampBase n then .ok else .regionEdge
  | .store f _ => if r.holdsFrame s.nv f then .ok else .regionEdge

/-- The fault of an address range, checked at its start, its end and every 64 KiB between: the ranges of R196 begin and end at multiples of
that. DESIGN CHOICE: of two kinds of fault the one found first in this order is reported (log 205). -/
def State.reachRange (s : State) (n a len : Nat) : Reach :=
  if len = 0 then .ok else
  let pts := a :: (a + len - 1) :: (List.range ((len - 1) / 0x10000)).map (fun i => (a / 0x10000 + i + 1) * 0x10000)
  match pts.find? (fun p => decide (s.reach n p ≠ .ok)) with
  | some p => s.reach n p
  | none => .ok

/-! ## Lost granules (R199, R488) -/

/-- Window offset of the granule at a package offset, for the i-th of n packages and a granule size. -/
def placeInverse (n i g off : Nat) : Nat := (off / g * n + i) * g + off % g

/-- Lost granules of a region's windows, as address and size. -/
def State.lostGranules (s : State) (n : Nat) : List (Nat × Nat) :=
  let r := s.region n
  let l1 := r.t1List
  let l2 := r.t2List
  (l1.mapIdx fun i c => (s.t1 c).lost.map fun off => (t1Base n + placeInverse l1.length i 256 (off / 256 * 256), 256)).flatMap (fun x => x) ++
  (l2.mapIdx fun i c => (s.t2 c).lost.map fun off => (t2Base n + placeInverse l2.length i 1024 (off / 1024 * 1024), 1024)).flatMap (fun x => x)

/-- Drop the marks of one controller that a predicate on the granule's address accepts. -/
def unmark (lost : List Nat) (addr : Nat → Nat) (gone : Nat → Bool) : List Nat := lost.filter fun off => !gone (addr off)

/-- A range holds a whole granule. -/
def covers (ws : List (Nat × Nat)) (a g : Nat) : Bool := ws.any fun w => decide (w.1 ≤ a) && decide (a + g ≤ w.1 + w.2)

/-- Clear the marks of granules that a region's writes cover whole (R488); writes go to both packages of a migration (R494). -/
def State.clearMarks (s : State) (n : Nat) (ws : List (Nat × Nat)) : State :=
  let r := s.region n
  let l1 := r.t1List
  let l2 := r.t2List
  let s := (List.range l1.length).foldl (fun (s : State) i =>
    let wipe := fun (c : Ctrl) =>
      { c with lost := unmark c.lost (fun off => t1Base n + placeInverse l1.length i 256 (off / 256 * 256)) fun a => covers ws a 256 }
    let s := s.modT1 (l1.getD i 0) wipe
    if s.mc.serves.toNat = l1.getD i 0 then s.modT1 24 wipe else s) s
  (List.range l2.length).foldl (fun (s : State) i => s.modT2 (l2.getD i 0) fun c =>
    { c with lost := unmark c.lost (fun off => t2Base n + placeInverse l2.length i 1024 (off / 1024 * 1024)) fun a => covers ws a 1024 }) s

/-- Write a list of byte strings, the later over the earlier. -/
def writeAll (m : List Host.Cell) : List (Nat × List Byte) → List Host.Cell
  | [] => m
  | (a, bs) :: r => writeAll (writeBytes m a bs) r

/-- What writes of some ranges do to marks, whichever regions hold the ranges: a granule written whole loses its mark, and one still
marked goes on reading zeros (R488). -/
def State.settleLost (s : State) (ws : List (Nat × Nat)) : State :=
  (List.range 4).foldl (fun (s : State) n =>
    if (s.lostGranules n).isEmpty then s
    else
      let s := s.clearMarks n ws
      { s with mem := (s.lostGranules n).foldl (fun m g => zeroBytes m g.1 g.2) s.mem }) s

/-- A hold that STEP_HOLD has placed keeps the region: the global counter has not reached UNTIL (R408). -/
def State.onHold (s : State) (n : Nat) : Bool :=
  match (s.region n).hold with | some u => decide (s.gc.toNat < u.toNat) | none => false

/-- Firmware's own writes. -/
def State.writeOwn (s : State) (ws : List (Nat × List Byte)) : State :=
  ({ s with mem := writeAll s.mem ws }).settleLost (ws.map fun (w : Nat × List Byte) => (w.1, w.2.length))

/-- Note writes of a step, of which other accesses of the step may see the bytes before (R125, R434). -/
def State.noteWrites (s : State) (n : Nat) (who : Writer) (ws : List (Nat × List Byte)) : State :=
  if (s.region n).run = .waiting then s
  else { s with races :=
    (ws.map fun w => { writer := who, addr := w.1, old := readBytes s.mem w.1 w.2.length : Race }).reverse ++ s.races }

/-- Put byte strings into memory for region n: a granule written whole loses its mark, and one still marked goes on reading zeros
(R488). -/
def State.putMem (s : State) (n : Nat) (ws : List (Nat × List Byte)) : State :=
  let s := { s with mem := writeAll s.mem ws }
  if (s.lostGranules n).isEmpty then s
  else
    let s := s.clearMarks n (ws.map fun w => (w.1, w.2.length))
    { s with mem := (s.lostGranules n).foldl (fun m g => zeroBytes m g.1 g.2) s.mem }

/-- A unit of region n writes byte strings. -/
def State.writeMem (s : State) (n : Nat) (ws : List (Nat × List Byte)) : State := (s.noteWrites n (.unit n) ws).putMem n ws

/-- A COPY_IN for region n writes byte strings (R434). -/
def State.copyMem (s : State) (n : Nat) (ws : List (Nat × List Byte)) : State := (s.noteWrites n (.copy n) ws).putMem n ws

/-! ## TLPs and IDE (R422, R452) -/

/-- An IDE stream's state. -/
def State.ide (s : State) (k : IdeStream) : Ide :=
  match k with
  | .link => s.sec.linkIde
  | .selective k => smGet {} s.sec.selIde k.val

/-- Some IDE stream is enabled. -/
def State.ideOn (s : State) : Bool := s.sec.linkIde.enabled || s.sec.selIde.any fun (x : Nat × Ide) => x.2.enabled

/-- Selective stream k is keyed and was keyed first in a session of a key. -/
def State.streamKeyed (s : State) (k : Nat) (key : List Byte) : Bool :=
  (smGet {} s.sec.selIde k).enabled && decide ((smGet {} s.sec.selIde k).owner = some key)

/-- The stream of a TLP that is bound to no region: the link stream, else the lowest one of the owner's (log 175). -/
def State.hostStream (s : State) : Option IdeStream :=
  if s.sec.linkIde.enabled then some .link
  else
    match s.nv.ownerKey with
    | none => none
    | some key => ((List.finRange 4).find? fun k => s.streamKeyed k.val key).map .selective

/-- A TLP may leave: no stream is enabled, or there is one for it; a sealed region's goes in its own stream only (R422, R452). -/
def State.mayTlp (s : State) (via : Option (Nat × Nat)) : Bool :=
  match via with
  | some (n, k) => s.streamKeyed k (s.region n).tpub
  | none => !s.ideOn || s.hostStream.isSome

/-- Send a TLP. `via` is the region whose traffic it is, with its stream, where the region is sealed: such a TLP goes in a stream keyed
in a tenant session of the region, and nowhere else (R452). While a stream is enabled no TLP leaves outside one (R422). -/
def State.sendTlp (s : State) (via : Option (Nat × Nat)) (o : Out) : State :=
  match via with
  | some (n, k) => if s.streamKeyed k (s.region n).tpub then s.emit (.inStream (.selective (Fin.ofNat 4 k)) o) else s
  | none =>
    if !s.ideOn then s.emit o
    else match s.hostStream with | some k => s.emit (.inStream k o) | none => s

/-- The sealed region that a queue serves, and the queue's stream (R452). -/
def State.queueVia (s : State) (q : Nat) : Option (Nat × Nat) :=
  let x := s.queue q
  if x.role = .tenant ∧ (s.region x.brid).live ∧ (s.region x.brid).sealed then some (x.brid, x.stream) else none

/-- The stream of a sealed region's digest ring: that of its lowest tenant queue (R452); 4, which is none, without such a queue. -/
def State.digestVia (s : State) (n : Nat) : Option (Nat × Nat) :=
  if (s.region n).live ∧ (s.region n).sealed then
    some (n, match s.hif.queues.find? fun (x : Nat × Queue) => decide (x.2.role = .tenant) && decide (x.2.brid = n) with
      | some x => x.2.stream
      | none => 4)
  else none

/-- The bytes of words (R7). -/
def wordsBytes (ws : List W64) : List Byte := ws.flatMap fun w => leBytes 8 w.toNat

/-- Write an entry at a host address: the word that carries PHASE last, in a write of its own that is not Relaxed Ordering (R431,
R437). That word is the first or the last of the entry. -/
def State.writeEntry (s : State) (via : Option (Nat × Nat)) (addr : W64) (ws : List W64) (phaseLast : Bool) : State :=
  let body := if phaseLast then ws.dropLast else ws.drop 1
  let flag := if phaseLast then 8 * (ws.length - 1) else 0
  (s.sendTlp via (.hostWrite false (addr + (if phaseLast then 0 else 8)) (wordsBytes body))).sendTlp via
    (.hostWrite true (addr + BitVec.ofNat 64 flag) (leBytes 8 (if phaseLast then ws.getLast?.getD 0 else ws.headD 0).toNat))

/-! ## MSI-X and the rings (R431, R437 to R440) -/

/-- The word of the MSI-X table at an index (the stored word is the difference from its reset value: a vector control
word resets to masked, log 9). -/
def State.msixWord (s : State) (i : Nat) : W32 := smGet 0 s.hif.msix i ^^^ (if i % 4 = 3 then 1 else 0)

/-- A vector is masked, by itself or with the whole function (R440, R500). -/
def State.vectorMasked (s : State) (v : Nat) : Bool := s.hif.msixMask || bitAt (s.msixWord (4 * v + 3)) 0

/-- The message of a vector: the address and the data of its table entry (R500). -/
def State.msixMessage (s : State) (v : Nat) : Out :=
  .msix v ((s.msixWord (4 * v + 1)) ++ (s.msixWord (4 * v) &&& 0xFFFFFFFC)) (s.msixWord (4 * v + 2))

/-- Signal a vector: a masked vector sets its pending bit (R440); nothing is sent while MSI-X is not enabled (log 201). -/
def State.sendVector (s : State) (v : Nat) : State :=
  if !s.hif.msixOn then s
  else if s.vectorMasked v then
    { s with hif := { s.hif with msixPending := if v ∈ s.hif.msixPending then s.hif.msixPending else v :: s.hif.msixPending } }
  else s.sendTlp none (s.msixMessage v)

/-- Send the pending vectors that nothing masks any more (R440, R500). -/
def State.sendPending (s : State) : State :=
  let due := if s.hif.msixOn then s.hif.msixPending.filter (!s.vectorMasked ·) else []
  due.foldl (fun (s : State) v => s.sendTlp none (s.msixMessage v))
    { s with hif := { s.hif with msixPending := s.hif.msixPending.filter fun v => !due.contains v } }

/-- A posting to a ring with IEN set names its vector; outside a boundary it is a batch of its own (R440). -/
def State.signal (s : State) (ien : Bool) (v : Nat) : State :=
  if !ien then s
  else if s.hif.inBatch then
    { s with hif := { s.hif with batch := if v ∈ s.hif.batch then s.hif.batch else s.hif.batch ++ [v] } }
  else s.sendVector v

/-- Begin a batch of postings: those of one boundary (R440). -/
def State.beginBatch (s : State) : State := { s with hif := { s.hif with inBatch := true, batch := [] } }

/-- End a batch: each vector named is sent once (R440). -/
def State.endBatch (s : State) : State :=
  s.hif.batch.foldl State.sendVector { s with hif := { s.hif with inBatch := false, batch := [] } }

/-- Entries of a ring of size code `sz` (Table 14-10). -/
def ringSize (sz : Nat) : Nat := 2 ^ (sz + 6)

/-- Post an event on the error ring, or count it in HIF_ERRLOST (R438). -/
def State.postErr (s : State) (event d2 d3 : Nat) : State :=
  let r := s.hif.err
  if r.en && decide (r.used < ringSize r.sz) then
    let w0 : W64 := BitVec.ofNat 64 (event + 2 ^ 16 * b2n r.owed + 2 ^ 63 * b2n r.phase)
    let t := (r.tail + 1) % ringSize r.sz
    let s := s.writeEntry none (r.base + BitVec.ofNat 64 (32 * r.tail)) [w0, s.gc, BitVec.ofNat 64 d2, BitVec.ofNat 64 d3] false
    let s := { s with hif := { s.hif with err := { r with
      tail := t, used := r.used + 1, owed := false, phase := if t = 0 then !r.phase else r.phase } } }
    s.signal r.ien r.vector
  else { s with hif := { s.hif with err := { r with lost := satAdd r.lost 1, owed := true } } }

/-- Post an event that concerns a region: a sealed region's details are zero (R452). -/
def State.postErrFor (s : State) (rid event d2 d3 : Nat) : State :=
  if (s.region rid).sealed then s.postErr event 0 0 else s.postErr event d2 d3

/-- A handoff port loses a lane, and with it its link (R493). -/
def HoPort.loseLane (x : HoPort) (lane : Nat) : HoPort :=
  { x with linkUp := false, lanesLost := if x.lanesLost.contains lane then x.lanesLost else x.lanesLost ++ [lane] }

/-- Post an event that concerns the regions of a list (R452). -/
def State.postErrAmong (s : State) (rids : List (Option Nat)) (event d2 d3 : Nat) : State :=
  if rids.any fun n => match n with | some n => (s.region n).sealed | none => false then s.postErr event 0 0
  else s.postErr event d2 d3

/-- BAD_ACCESS (R12). -/
def State.badAccess (s : State) : State := s.postErr 0x0001 0 0

/-- Completion entries of a queue. -/
def Queue.cqSize (q : Queue) : Nat := 2 ^ (q.cqsz + 4)

/-- Submission entries of a queue. -/
def Queue.sqSize (q : Queue) : Nat := 2 ^ (q.sqsz + 4)

/-- Free completion entries: not written, or freed by CQHEAD (R432). -/
def Queue.freeCq (q : Queue) : Nat := q.cqSize - q.used

/-- A completion header's flags. -/
structure CFlags where
  late : Bool := false
  demoted : Bool := false
  hmiss : Bool := false
deriving DecidableEq, Repr

/-- Completion KINDs (Table 14-6). -/
inductive CKind where
  | tokens | finish | demoted | refused | command
deriving DecidableEq, Repr

/-- The KIND code. -/
def CKind.code : CKind → Nat
  | .tokens => 1 | .finish => 2 | .demoted => 3 | .refused => 4 | .command => 5

/-- The 32 words of a completion entry: unused ones are 0 (R431). -/
def entryWords (w0 w1 tick : W64) (payload : List W64) : List W64 :=
  w0 :: w1 :: tick :: (payload ++ List.replicate (29 - payload.length) 0)

/-- Write a completion entry (R431): words 1 to 31, then word 0 with the phase; `reserved` tells whether the entry was
reserved (R432). -/
def State.complete (s : State) (q : Nat) (kind : CKind) (status : Nat) (fl : CFlags) (tag : W32) (ridx : Nat)
    (payload : List W64) (reserved : Bool) : State :=
  let x := s.queue q
  let w0 : W64 := BitVec.ofNat 64 (kind.code + 2 ^ 8 * status + 2 ^ 16 * b2n x.phase + 2 ^ 17 * b2n fl.late +
    2 ^ 18 * b2n fl.demoted + 2 ^ 19 * b2n fl.hmiss + 2 ^ 32 * tag.toNat)
  let w1 : W64 := BitVec.ofNat 64 (ridx + 2 ^ 16 * x.sqhead)
  let t := (x.cqtail + 1) % x.cqSize
  let s := s.writeEntry (s.queueVia q) (x.cqb + BitVec.ofNat 64 (256 * x.cqtail)) (entryWords w0 w1 s.gc payload) false
  let s := s.setQueue q { x with
    cqtail := t, phase := (if t = 0 then !x.phase else x.phase), used := x.used + 1,
    reserved := if reserved then x.reserved - 1 else x.reserved }
  s.signal x.ien x.vector

/-- An entry of a queue may be fetched: the host has rung for it, a completion entry can be reserved, and the queue's ring can be
reached through a stream where one is needed (R422, R427, R432, R452). -/
def State.hasEntry (s : State) (q : Nat) : Bool :=
  let x := s.queue q
  x.en && decide (x.tail ≠ x.sqhead) && decide (x.reserved < x.freeCq) &&
  s.mayTlp (s.queueVia q)

/-- The queue from which the next entry is fetched: round robin, at most eight entries from one queue in its turn (R428). -/
def State.nextFetch (s : State) : Option Nat :=
  let due := (s.hif.queues.map (·.1)).filter s.hasEntry
  if due.contains s.hif.turn && decide (s.hif.turnN < 8) then some s.hif.turn
  else (due.find? fun q => decide (s.hif.turn < q)).or due.head?

/-- Fetch a queue's next entry: it reserves a completion entry (R427, R428, R432). -/
def State.readEntry (s : State) (q : Nat) : State :=
  let x := s.queue q
  let h := s.hif
  let s := { s with hif := { h with turn := q, turnN := if q = h.turn ∧ h.turnN < 8 then h.turnN + 1 else 1 } }
  s.setQueue q { x with
    sqhead := (x.sqhead + 1) % x.sqSize, reserved := x.reserved + 1, unfinished := x.unfinished + 1 }

/-- The HOSTTAG of an entry (R429). -/
def hostTag (e : Entry) : W32 := BitVec.ofNat 32 (fld (wordAt e 0) 63 32)

/-- A command completes with a status and a payload from word 3 (R431). -/
def State.cmdDone (s : State) (q : Nat) (tag : W32) (status : Nat) (payload : List W64) : State :=
  let s := s.complete q .command status {} tag 0xFFFF payload true
  s.modQueue q fun x => { x with unfinished := x.unfinished - 1 }

/-- A submission is refused (R285, R429). -/
def State.refuse (s : State) (q : Nat) (tag : W32) (status : Nat) : State :=
  let s := s.complete q .refused status {} tag 0xFFFF [] true
  s.modQueue q fun x => { x with unfinished := x.unfinished - 1 }

/-! ## Guards and helpers -/

/-- The host's link and the seam strip work: power on, seated, no PERST# (R474, R513, R516). -/
def State.hostUp (s : State) : Bool := decide (s.pwr.rail = .on) && s.sys.present && !s.sys.perst

/-- READY (R482). -/
def State.isReady (s : State) : Bool := s.hostUp && decide (s.sys.stage = 7)

/-- PWR_STATE.MODULE: 0 Active, 1 Warm, 2 Lull (R465). -/
def State.moduleState (s : State) : Nat :=
  if s.pwr.lull then 2 else if s.pwr.west.active || s.pwr.east.active then 0 else 1

/-- The fast clock of some half runs (R465): firmware and the boundaries run then (Table 16-2). -/
def State.awake (s : State) : Bool := s.isReady && decide (s.moduleState = 0)

/-- The module is READY and serves: the guard in front of every command that the running firmware executes. -/
def whenReady (s : State) (f : State → State) : State := if s.isReady then f s else s

/-- An ownership session is open: a mutually authenticated session of the enrolled owner key (R441, R444). -/
def State.ownerSession (s : State) : Bool :=
  s.sec.sessions.any fun x => decide (x.kind = .ownership) && decide (s.nv.ownerKey = some x.key)

/-- The owner gate of R481 and R503: a session is open, or no owner key is stored. -/
def State.ownerGate (s : State) : Bool := s.ownerSession || s.nv.ownerKey.isNone

/-- Count a transient fault (R487). -/
def State.countCe (s : State) : State := { s with sys := { s.sys with ceCount := satAdd s.sys.ceCount 1 } }

/-- Record a lasting fault in the fault history (R498). DESIGN CHOICE: a fault beyond the 1,024 entries that it holds is not
recorded, so start-up does not apply it (log 160). -/
def State.recordFault (s : State) (k : FaultKind) : State :=
  if s.nv.history.length < 1024 then { s with nv := { s.nv with history := s.nv.history ++ [(k, s.gc)] } } else s

end Sys2Proof.Machine
end

