-- ==== Sys2Proof/Machine/Float.lean ====
section
/-! DEFINITION. Scalar number formats and arithmetic (02: R37 to R56, R68 to R74): encodings, exact dyadic values, one
rounding, conversions with their overflow and NaN rules, and the IEEE operations with their flags. A bit pattern is a
`Nat`; a flag set is a `Nat` whose bits are those of FPSR (Table 4-1). -/

namespace Sys2Proof.Machine

/-- The five IEEE modes of Table 2-5, and stochastic rounding with its 16-bit draw (R51). -/
inductive RMode where
  | rne | rtz | rdn | rup | rna
  | sr (draw : Nat)
deriving DecidableEq, Repr

/-- The IEEE mode of an FPCR or RM code 0 to 4; any other code reads as RNE (callers check the code first). -/
def rmOf : Nat → RMode
  | 1 => .rtz | 2 => .rdn | 3 => .rup | 4 => .rna | _ => .rne

/-- How a format encodes what is not finite (Table 2-2). -/
inductive Specials where
  | ieee | e4m3 | none
deriving DecidableEq, Repr

/-- A scalar floating-point format (Table 2-2). -/
structure FFmt where
  width : Nat
  mbits : Nat
  bias : Nat
  sp : Specials
deriving DecidableEq, Repr

def fmtFP64 : FFmt := { width := 64, mbits := 52, bias := 1023, sp := .ieee }
def fmtFP32 : FFmt := { width := 32, mbits := 23, bias := 127, sp := .ieee }
def fmtFP16 : FFmt := { width := 16, mbits := 10, bias := 15, sp := .ieee }
def fmtBF16 : FFmt := { width := 16, mbits := 7, bias := 127, sp := .ieee }
def fmtE5M2 : FFmt := { width := 8, mbits := 2, bias := 15, sp := .ieee }
def fmtE4M3 : FFmt := { width := 8, mbits := 3, bias := 7, sp := .e4m3 }
def fmtE3M2 : FFmt := { width := 6, mbits := 2, bias := 3, sp := .none }
def fmtE2M3 : FFmt := { width := 6, mbits := 3, bias := 1, sp := .none }
def fmtE2M1 : FFmt := { width := 4, mbits := 1, bias := 1, sp := .none }

/-- Exponent field of all ones. -/
def FFmt.eMax (f : FFmt) : Nat := 2 ^ (f.width - 1 - f.mbits) - 1

/-- The magnitude code of the largest finite value (Table 2-2). -/
def FFmt.maxCode (f : FFmt) : Nat :=
  match f.sp with
  | .ieee => f.eMax * 2 ^ f.mbits - 1
  | .e4m3 => 2 ^ (f.width - 1) - 2
  | .none => 2 ^ (f.width - 1) - 1

/-- The magnitude code of infinity, where the format has one. -/
def FFmt.infCode (f : FFmt) : Nat := f.eMax * 2 ^ f.mbits

/-- The sign bit's weight. -/
def FFmt.signBit (f : FFmt) : Nat := 2 ^ (f.width - 1)

/-- Put a sign on a magnitude code. -/
def FFmt.withSign (f : FFmt) (neg : Bool) (code : Nat) : Nat := if neg then f.signBit + code else code

/-- What a bit pattern stands for. A finite value is (−1)^neg × m × 2^e; a NaN keeps its sign, whether it is quiet,
and its payload below the quiet bit. -/
inductive FVal where
  | nan (neg quiet : Bool) (payload : Nat)
  | inf (neg : Bool)
  | fin (neg : Bool) (m : Nat) (e : Int)
deriving DecidableEq, Repr

/-- Decode a bit pattern (R38, R39). -/
def FFmt.decode (f : FFmt) (bits : Nat) : FVal :=
  let neg := bits.testBit (f.width - 1)
  let mag := bits % f.signBit
  let ef := mag >>> f.mbits
  let mf := mag % 2 ^ f.mbits
  let qexp : Int := 1 - (f.bias : Int) - (f.mbits : Int)
  let finite : FVal := if ef = 0 then .fin neg mf qexp else .fin neg (2 ^ f.mbits + mf) (qexp + ((ef - 1 : Nat) : Int))
  match f.sp with
  | .none => finite
  | .e4m3 => if mag = 2 ^ (f.width - 1) - 1 then .nan neg true 0 else finite
  | .ieee =>
    if ef = f.eMax then
      if mf = 0 then .inf neg
      else .nan neg (mf.testBit (f.mbits - 1)) (mf % 2 ^ (f.mbits - 1))
    else finite

/-- The quiet NaN with a sign and a payload (R55); in E4M3 the one NaN of the sign. -/
def FFmt.nanBits (f : FFmt) (neg : Bool) (payload : Nat) : Nat :=
  match f.sp with
  | .e4m3 => f.withSign neg (2 ^ (f.width - 1) - 1)
  | _ => f.withSign neg (f.infCode + 2 ^ (f.mbits - 1) + payload)

/-- The default NaN (R73). -/
def FFmt.defaultNan (f : FFmt) : Nat := f.nanBits false 0

/-- Whether to step the truncated magnitude `q` up, given the remainder `rem` of 2^sh (R49, R51). -/
def roundUp (rm : RMode) (neg : Bool) (q rem sh : Nat) : Bool :=
  if rem = 0 then false else
  match rm with
  | .rtz => false
  | .rdn => neg
  | .rup => !neg
  | .rne => decide (2 ^ sh < 2 * rem) || (decide (2 * rem = 2 ^ sh) && q.testBit 0)
  | .rna => decide (2 ^ sh ≤ 2 * rem)
  | .sr d => decide (d < (rem * 2 ^ 16) >>> sh)

/-- Round the magnitude m × 2^e to a multiple of 2^qe: the multiple, and whether it was inexact. -/
def roundAt (rm : RMode) (neg : Bool) (m : Nat) (e qe : Int) : Nat × Bool :=
  if qe ≤ e then (m <<< (e - qe).toNat, false)
  else
    let sh := (qe - e).toNat
    let q := m >>> sh
    let rem := m % 2 ^ sh
    (if roundUp rm neg q rem sh then q + 1 else q, decide (rem ≠ 0))

/-- A finite value rounded to a format with an unbounded exponent upward. -/
structure Rounded where
  code : Nat          -- magnitude code, beyond `maxCode` when the value overflows
  inexact : Bool
  tiny : Bool         -- tininess after rounding (R69)
deriving DecidableEq, Repr

/-- Round a nonzero magnitude to a format (R54: unbounded exponent above; subnormals below, R39). -/
def FFmt.round (f : FFmt) (rm : RMode) (neg : Bool) (m : Nat) (e : Int) : Rounded :=
  if m = 0 then { code := 0, inexact := false, tiny := false } else
  let top : Int := (Nat.log2 m : Int) + e
  let emin : Int := 1 - (f.bias : Int)
  let qmin : Int := emin - (f.mbits : Int)
  let qe : Int := max (top - (f.mbits : Int)) qmin
  let (q, ix) := roundAt rm neg m e qe
  let free := (roundAt rm neg m e (top - (f.mbits : Int))).1
  { code := (qe - qmin).toNat * 2 ^ f.mbits + q, inexact := ix,
    tiny := decide (top < emin) && !(decide (top = emin - 1) && decide (free = 2 ^ (f.mbits + 1))) }

/-- FPSR bits (Table 4-1). -/
def flInvalid : Nat := 1
def flDivZero : Nat := 2
def flOverflow : Nat := 4
def flUnderflow : Nat := 8
def flInexact : Nat := 16

/-- Whether an overflow under a mode goes to infinity in IEEE 754 (Table 2-6). -/
def overflowsToInf (rm : RMode) (neg : Bool) : Bool :=
  match rm with
  | .rne | .rna => true
  | .rdn => neg
  | .rup => !neg
  | _ => false

/-- Round an exact value to a format as IEEE 754 does: the bits and the flags (R68, R69). -/
def FFmt.ieee (f : FFmt) (rm : RMode) (neg : Bool) (m : Nat) (e : Int) : Nat × Nat :=
  let r := f.round rm neg m e
  if f.maxCode < r.code then
    (f.withSign neg (if overflowsToInf rm neg then f.infCode else f.maxCode), flOverflow + flInexact)
  else (f.withSign neg r.code,
    (if r.inexact then flInexact else 0) + (if r.inexact && r.tiny then flUnderflow else 0))

/-! ## IEEE arithmetic on FP64 and FP32 (R68 to R73) -/

/-- Whether a value is a signalling NaN. -/
def FVal.signalling : FVal → Bool
  | .nan _ q _ => !q
  | _ => false

/-- Whether a value is a NaN. -/
def FVal.isNan : FVal → Bool
  | .nan _ _ _ => true
  | _ => false

/-- Whether a value is an infinity. -/
def FVal.isInf : FVal → Bool
  | .inf _ => true
  | _ => false

/-- Whether a value is a zero. -/
def FVal.isZero : FVal → Bool
  | .fin _ m _ => decide (m = 0)
  | _ => false

/-- The sign. -/
def FVal.neg : FVal → Bool
  | .nan n _ _ => n | .inf n => n | .fin n _ _ => n

/-- The first NaN of the operands, quieted (R71), with the invalid flag when one is signalling. -/
def FFmt.nanOf (f : FFmt) (vs : List FVal) : Option (Nat × Nat) :=
  let fl := if vs.any FVal.signalling then flInvalid else 0
  (vs.find? FVal.isNan).map fun v =>
    match v with
    | .nan n _ p => (f.nanBits n p, fl)
    | _ => (f.defaultNan, fl)

/-- An invalid operation without a NaN operand (R73). -/
def FFmt.invalid (f : FFmt) : Nat × Nat := (f.defaultNan, flInvalid)

/-- The exact sum of two dyadic numbers. -/
def dyAdd (n1 : Bool) (m1 : Nat) (e1 : Int) (n2 : Bool) (m2 : Nat) (e2 : Int) : Int × Int :=
  let e := min e1 e2
  let a : Int := ((m1 <<< (e1 - e).toNat : Nat) : Int)
  let b : Int := ((m2 <<< (e2 - e).toNat : Nat) : Int)
  ((if n1 then -a else a) + (if n2 then -b else b), e)

/-- Round an exact sum; an exact zero has the sign of both terms where they agree, else + (− under RDN). -/
def FFmt.sumBits (f : FFmt) (rm : RMode) (n1 n2 : Bool) (v : Int × Int) : Nat × Nat :=
  if v.1 = 0 then (f.withSign (if n1 = n2 then n1 else decide (rm = .rdn)) 0, 0)
  else f.ieee rm (decide (v.1 < 0)) v.1.natAbs v.2

/-- Addition. -/
def FFmt.add (f : FFmt) (rm : RMode) (a b : Nat) : Nat × Nat :=
  let x := f.decode a
  let y := f.decode b
  match f.nanOf [x, y] with
  | some r => r
  | none =>
    match x, y with
    | .inf n1, .inf n2 => if n1 = n2 then (a, 0) else f.invalid
    | .inf _, _ => (a, 0)
    | _, .inf _ => (b, 0)
    | .fin n1 m1 e1, .fin n2 m2 e2 => f.sumBits rm n1 n2 (dyAdd n1 m1 e1 n2 m2 e2)
    | _, _ => f.invalid

/-- The bits with the sign turned. -/
def FFmt.negBits (f : FFmt) (a : Nat) : Nat := a ^^^ f.signBit

/-- Subtraction: b is negated unless it is a NaN, whose sign R71 keeps. -/
def FFmt.sub (f : FFmt) (rm : RMode) (a b : Nat) : Nat × Nat :=
  if (f.decode b).isNan then f.add rm a b else f.add rm a (f.negBits b)

/-- Multiplication. -/
def FFmt.mul (f : FFmt) (rm : RMode) (a b : Nat) : Nat × Nat :=
  let x := f.decode a
  let y := f.decode b
  let n := x.neg != y.neg
  match f.nanOf [x, y] with
  | some r => r
  | none =>
    match x, y with
    | .fin _ m1 e1, .fin _ m2 e2 => f.ieee rm n (m1 * m2) (e1 + e2)
    | _, _ => if x.isZero || y.isZero then f.invalid else (f.withSign n f.infCode, 0)

/-- Fused multiply-add with one rounding (R71, R72). -/
def FFmt.fma (f : FFmt) (rm : RMode) (a b c : Nat) : Nat × Nat :=
  let x := f.decode a
  let y := f.decode b
  let z := f.decode c
  let n := x.neg != y.neg
  let badProduct := (x.isInf && y.isZero) || (x.isZero && y.isInf)
  if badProduct then
    match z with
    | .nan nz _ p => (f.nanBits nz p, flInvalid)
    | _ => f.invalid
  else
    match f.nanOf [x, y, z] with
    | some r => r
    | none =>
      match x, y, z with
      | .fin _ m1 e1, .fin _ m2 e2, .fin n3 m3 e3 => f.sumBits rm n n3 (dyAdd n (m1 * m2) (e1 + e2) n3 m3 e3)
      | .fin _ _ _, .fin _ _ _, _ => (c, 0)
      | _, _, .inf n3 => if n = n3 then (c, 0) else f.invalid
      | _, _, _ => (f.withSign n f.infCode, 0)

/-- Division, correctly rounded: the quotient to 70 bits more than the format needs, with a sticky bit. -/
def FFmt.div (f : FFmt) (rm : RMode) (a b : Nat) : Nat × Nat :=
  let x := f.decode a
  let y := f.decode b
  let n := x.neg != y.neg
  match f.nanOf [x, y] with
  | some r => r
  | none =>
    match x, y with
    | .inf _, .inf _ => f.invalid
    | .inf _, _ => (f.withSign n f.infCode, 0)
    | _, .inf _ => (f.withSign n 0, 0)
    | .fin _ m1 e1, .fin _ m2 e2 =>
      if m2 = 0 then (if m1 = 0 then f.invalid else (f.withSign n f.infCode, flDivZero))
      else
        let num := m1 <<< 128
        f.ieee rm n (2 * (num / m2) + b2n (decide (num % m2 ≠ 0))) (e1 - e2 - 129)
    | _, _ => f.invalid

/-- Integer square root by bits, from bit `k - 1` down, starting from root `r`. -/
def isqrtFrom (n : Nat) : Nat → Nat → Nat
  | 0, r => r
  | k + 1, r => let t := r + 2 ^ k; isqrtFrom n k (if t * t ≤ n then t else r)

/-- Integer square root of a number below 2^(2k). -/
def isqrt (n : Nat) : Nat := isqrtFrom n (Nat.log2 n / 2 + 1) 0

/-- Square root, correctly rounded; the root of −0 is −0. -/
def FFmt.sqrt (f : FFmt) (rm : RMode) (a : Nat) : Nat × Nat :=
  let x := f.decode a
  match f.nanOf [x] with
  | some r => r
  | none =>
    match x with
    | .inf n => if n then f.invalid else (a, 0)
    | .fin n m e =>
      if m = 0 then (a, 0)
      else if n then f.invalid
      else
        let m2 := if e % 2 = 0 then m <<< 128 else m <<< 129
        let e2 := if e % 2 = 0 then e - 128 else e - 129
        let r := isqrt m2
        f.ieee rm false (2 * r + b2n (decide (r * r ≠ m2))) (e2 / 2 - 1)
    | _ => f.invalid

/-- Where a finite value or infinity stands among the others: an exact comparison key, −0 below +0 only where `zeros`
asks for it. -/
def FVal.lt (zeros : Bool) : FVal → FVal → Bool
  | .fin n1 m1 e1, .fin n2 m2 e2 =>
    if m1 = 0 ∧ m2 = 0 then zeros && n1 && !n2
    else decide ((dyAdd n1 m1 e1 (!n2) m2 e2).1 < 0)
  | .inf n1, .inf n2 => n1 && !n2
  | .inf n1, .fin _ _ _ => n1
  | .fin _ _ _, .inf n2 => !n2
  | _, _ => false

/-- minimum (`big` = false) or maximum of IEEE 754-2019. -/
def FFmt.minmax (f : FFmt) (big : Bool) (a b : Nat) : Nat × Nat :=
  let x := f.decode a
  let y := f.decode b
  match f.nanOf [x, y] with
  | some r => r
  | none => if (if big then FVal.lt true x y else FVal.lt true y x) then (b, 0) else (a, 0)

/-- The compares of VCMP, in the order of IMM[2:0] (R131: invalid only for a signalling NaN). -/
def FFmt.compare (f : FFmt) (k : Nat) (a b : Nat) : Bool × Nat :=
  let x := f.decode a
  let y := f.decode b
  let un := x.isNan || y.isNan
  let lt := FVal.lt false x y
  let gt := FVal.lt false y x
  let fl := if x.signalling || y.signalling then flInvalid else 0
  (match k with
   | 0 => !un && !lt && !gt
   | 1 => un || lt || gt
   | 2 => !un && lt
   | 3 => !un && !gt
   | 4 => !un && gt
   | 5 => !un && !lt
   | 6 => un
   | _ => !un, fl)

/-! ## Conversion of scalar values (R54 to R56, R70) -/

/-- A scalar element type: floating, or a two's complement integer of a width. -/
inductive EType where
  | flt (f : FFmt)
  | int (w : Nat)
deriving DecidableEq, Repr

/-- Bits of an element. -/
def EType.width : EType → Nat
  | .flt f => f.width
  | .int w => w

/-- The scalar element types among the codes of Table 4-3. -/
def etypeOf : Nat → Option EType
  | 0x00 => some (.flt fmtFP32) | 0x01 => some (.flt fmtFP64) | 0x02 => some (.flt fmtFP16) | 0x03 => some (.flt fmtBF16)
  | 0x04 => some (.flt fmtE4M3) | 0x05 => some (.flt fmtE5M2) | 0x06 => some (.flt fmtE3M2) | 0x07 => some (.flt fmtE2M3)
  | 0x08 => some (.flt fmtE2M1) | 0x10 => some (.int 8) | 0x11 => some (.int 4) | 0x12 => some (.int 32)
  | _ => none

/-- Decode an element of any scalar type. -/
def EType.decode : EType → Nat → FVal
  | .flt f, b => f.decode b
  | .int w, b => let v := signedOf w b; .fin (decide (v < 0)) v.natAbs 0

/-- The bits of an integer in `w` bits, two's complement. -/
def intBits (w : Nat) (v : Int) : Nat := (v % (2 ^ w : Nat)).toNat

/-- What a conversion gives: bits, flags (R70), and whether R54 counts it. -/
structure Conv where
  bits : Nat
  flags : Nat := 0
  counted : Bool := false
deriving DecidableEq, Repr

/-- The end of an integer range on a side (R40, R54). -/
def intEnd (w : Nat) (neg : Bool) : Nat := if neg then 2 ^ (w - 1) else 2 ^ (w - 1) - 1

/-- Convert to an integer target (R54, R56). -/
def convInt (w : Nat) (rm : RMode) : FVal → Conv
  | .nan _ _ _ => { bits := 0, flags := flInvalid, counted := true }
  | .inf n => { bits := intEnd w n, flags := flInvalid, counted := true }
  | .fin n m e =>
    let (q, ix) := roundAt rm n m e 0
    let v : Int := if n then -(q : Int) else q
    if v < -(2 ^ (w - 1) : Nat) ∨ (2 ^ (w - 1) : Nat) ≤ v then
      { bits := intEnd w n, flags := flInvalid, counted := true }
    else { bits := intBits w v, flags := if ix then flInexact else 0 }

/-- The payload of a NaN carried from a source mantissa to a target mantissa (R55). -/
def carryPayload (srcM dstM p : Nat) : Nat :=
  if dstM ≤ srcM then p >>> (srcM - dstM) else p <<< (dstM - srcM)

/-- Payload bits below the quiet bit of a source type. -/
def EType.payloadBits : EType → Nat
  | .flt f => if f.sp = .ieee then f.mbits - 1 else 0
  | .int _ => 0

/-- Convert to a floating target under OVM (Table 2-6; `ieeeMode` is OVM = 1). -/
def convFlt (src : EType) (f : FFmt) (rm : RMode) (ieeeMode : Bool) : FVal → Conv
  | .nan n q p =>
    match f.sp with
    | .none => { bits := 0, flags := flInvalid, counted := true }
    | _ => { bits := f.nanBits n (carryPayload src.payloadBits (f.mbits - 1) p), flags := if q then 0 else flInvalid }
  | .inf n =>
    match f.sp with
    | .ieee =>
      if ieeeMode || decide (f.width = 64) then { bits := f.withSign n f.infCode }
      else { bits := f.withSign n f.maxCode, flags := flOverflow + flInexact, counted := true }
    | .e4m3 =>
      { bits := if ieeeMode then f.nanBits n 0 else f.withSign n f.maxCode, flags := flOverflow + flInexact, counted := true }
    | .none => { bits := f.withSign n f.maxCode, flags := flOverflow + flInexact, counted := true }
  | .fin n m e =>
    let r := f.round rm n m e
    if f.maxCode < r.code then
      let toInf := ieeeMode && overflowsToInf rm n
      { bits := (match f.sp with
          | .ieee => f.withSign n (if toInf then f.infCode else f.maxCode)
          | .e4m3 => if toInf then f.nanBits n 0 else f.withSign n f.maxCode
          | .none => f.withSign n f.maxCode),
        flags := flOverflow + flInexact, counted := true }
    else
      { bits := f.withSign n r.code,
        flags := (if r.inexact then flInexact else 0) + (if r.inexact && r.tiny then flUnderflow else 0) }

/-- Convert an element from one scalar type to another (R54 to R56). -/
def convert (src dst : EType) (rm : RMode) (ieeeMode : Bool) (bits : Nat) : Conv :=
  match dst with
  | .flt f => convFlt src f rm ieeeMode (src.decode bits)
  | .int w => convInt w rm (src.decode bits)

/-! ## Philox-4x32-10 (R52, R524) -/

/-- One round. -/
def philoxRound (k0 k1 : Nat) (c : Nat × Nat × Nat × Nat) : Nat × Nat × Nat × Nat :=
  let p0 := 0xD2511F53 * c.1
  let p1 := 0xCD9E8D57 * c.2.2.1
  ((p1 >>> 32) ^^^ c.2.1 ^^^ k0, p1 % 2 ^ 32, (p0 >>> 32) ^^^ c.2.2.2 ^^^ k1, p0 % 2 ^ 32)

/-- `n` rounds with the keys stepped between them. -/
def philoxRounds : Nat → Nat → Nat → Nat × Nat × Nat × Nat → Nat × Nat × Nat × Nat
  | 0, _, _, c => c
  | n + 1, k0, k1, c =>
    philoxRounds n ((k0 + 0x9E3779B9) % 2 ^ 32) ((k1 + 0xBB67AE85) % 2 ^ 32) (philoxRound k0 k1 c)

/-- The four words of a call. -/
def philox (key : Nat) (c0 c1 c2 c3 : Nat) : List Nat :=
  let r := philoxRounds 10 (key % 2 ^ 32) (key / 2 ^ 32 % 2 ^ 32) (c0 % 2 ^ 32, c1 % 2 ^ 32, c2 % 2 ^ 32, c3 % 2 ^ 32)
  [r.1, r.2.1, r.2.2.1, r.2.2.2]

/-- 16-bit value v of a call: value 2k is the low half of x_k, value 2k + 1 its high half. -/
def philox16 (x : List Nat) (v : Nat) : Nat := (x.getD (v / 2) 0 >>> (16 * (v % 2))) % 2 ^ 16

end Sys2Proof.Machine
end

