-- ==== Sys2Proof/Machine/Formats.lean ====
section
/-! DEFINITION. Block formats (02: R41 to R48, R57 to R64): decoding, the scale, the BD4 offsets, encoding with its
overflow and crush counts, and the block-group layout. -/

namespace Sys2Proof.Machine

/-- How the elements of a block format are held. -/
inductive BElem where
  | flt (f : FFmt)
  | int8
deriving DecidableEq, Repr

/-- A block format: its elements, the exponent of their largest binade, and whether it has BD4's offsets. -/
structure BFmt where
  elem : BElem
  emax : Nat
  bits : Nat
  offs : Bool := false
deriving DecidableEq, Repr

/-- The block formats among the codes of Table 4-3. -/
def blockFmt : Nat → Option BFmt
  | 0x09 => some { elem := .flt fmtE4M3, emax := 8, bits := 8 }
  | 0x0A => some { elem := .flt fmtE5M2, emax := 15, bits := 8 }
  | 0x0B => some { elem := .flt fmtE3M2, emax := 4, bits := 6 }
  | 0x0C => some { elem := .flt fmtE2M3, emax := 2, bits := 6 }
  | 0x0D => some { elem := .flt fmtE2M1, emax := 2, bits := 4 }
  | 0x0E => some { elem := .int8, emax := 0, bits := 8 }
  | 0x0F => some { elem := .flt fmtE2M1, emax := 2, bits := 4, offs := true }
  | _ => none

/-- Bits of an element of any format of Table 4-3; 0 for a code not listed. -/
def fmtBits (c : Nat) : Nat :=
  match blockFmt c with
  | some b => b.bits
  | none => match etypeOf c with
    | some t => t.width
    | none => 0

/-- Offset of group i div 8 in an offset byte (Table 2-4). -/
def offOf (offs i : Nat) : Nat := (offs >>> (2 * (i / 8))) % 4

/-- A value scaled by a power of two. -/
def FVal.scale (v : FVal) (k : Int) : FVal :=
  match v with
  | .fin n m e => .fin n m (e + k)
  | x => x

/-- Element i of a block (R41 to R43, R45): its value from its code, the scale byte and the offset byte. A scale byte of 0xFF
makes it a NaN, whose sign, quietness and payload no rule gives: positive, quiet, payload 0 here (log 145). -/
def BFmt.decode (b : BFmt) (scale offs i code : Nat) : FVal :=
  if scale = 0xFF then .nan false true 0 else
  let k : Int := (scale : Int) - 127 - (if b.offs then (offOf offs i : Int) else 0)
  match b.elem with
  | .flt f => (f.decode code).scale k
  | .int8 => ((EType.int 8).decode code).scale (k - 6)

/-- The type of a block format's elements. -/
def BFmt.elemType (b : BFmt) : EType :=
  match b.elem with
  | .flt f => .flt f
  | .int8 => .int 8

/-- Element i of a block decoded into FP32 (R41 to R45, R134): an infinity stays that infinity, a NaN carries its payload as
R55 says, and a finite value beyond FP32 converts under a rounding and OVM (log 25). -/
def BFmt.toF32 (b : BFmt) (rm : RMode) (ieeeMode : Bool) (scale offs i code : Nat) : Conv :=
  match b.decode scale offs i code with
  | .inf n => { bits := fmtFP32.withSign n fmtFP32.infCode }
  | v => convFlt b.elemType fmtFP32 rm ieeeMode v

/-- Whether the magnitude of a dyadic number is less than another's. -/
def magLt (m1 : Nat) (e1 : Int) (m2 : Nat) (e2 : Int) : Bool := decide ((dyAdd false m1 e1 true m2 e2).1 < 0)

/-- Magnitude of a finite value; 0 for any other. -/
def FVal.mag : FVal → Nat × Int
  | .fin _ m e => (m, e)
  | _ => (0, 0)

/-- The largest magnitude of a list. -/
def maxMag : List FVal → Nat × Int
  | [] => (0, 0)
  | v :: r => let t := maxMag r; let x := v.mag; if magLt t.1 t.2 x.1 x.2 then x else t

/-- The scale byte of a block (R58). -/
def blockScale (xs : List FVal) (emax : Nat) : Nat :=
  let a := maxMag xs
  if a.1 = 0 then 0 else
  let s : Int := (Nat.log2 a.1 : Int) + a.2 - (emax : Int)
  ((if s < -127 then -127 else s) + 127).toNat

/-- Nonzero elements of a group that round to 0 at scale 2^t (R61, R62). -/
def flushed (g : List FVal) (t : Int) : Nat :=
  (g.filter fun v => decide (v.mag.1 ≠ 0) && !magLt 1 (-2) v.mag.1 (v.mag.2 - t)).length

/-- The BD4 offset of a group under a block scale 2^s (R61): from offset o on, with the best so far. -/
def bd4OffsetFrom (g : List FVal) (s : Int) : Nat → Nat → Nat × Nat → Nat
  | 0, _, best => best.1
  | n + 1, o, best =>
    let gm := maxMag g
    if magLt gm.1 (gm.2 + o - s) 7 0 then
      let f := flushed g (s - o)
      bd4OffsetFrom g s n (o + 1) (if f ≤ best.2 then (o, f) else best)
    else bd4OffsetFrom g s n (o + 1) best

/-- The BD4 offset of a group (R61). -/
def bd4Offset (g : List FVal) (s : Int) : Nat := bd4OffsetFrom g s 3 1 (0, flushed g s)

/-- An encoded block with what it counts (R54, R57, R64). -/
structure Block where
  codes : List Nat
  scale : Nat
  offs : Nat
  ovf : Nat
  crush : Nat
deriving DecidableEq, Repr

/-- One element of a block: its code, rounded and clamped (R59, R63). -/
def BFmt.encodeElem (b : BFmt) (rm : RMode) (v : FVal) (k : Int) : Nat :=
  match b.elem, v with
  | .flt f, .fin n m e => f.withSign n (min (f.round rm n m (e + k)).code f.maxCode)
  | .int8, .fin n m e =>
    let (q, _) := roundAt rm n m (e + k + 6) 0
    if n then intBits 8 (-(min q 128 : Nat) : Int) else min q 127
  | _, _ => 0

/-- Whether an element code is a zero. -/
def BFmt.zeroCode (b : BFmt) (c : Nat) : Bool :=
  match b.elem with
  | .flt f => decide (c % f.signBit = 0)
  | .int8 => decide (c = 0)

/-- The largest finite FP32 value, with a sign (R57). -/
def fp32Max (neg : Bool) : FVal := .fin neg 0xFFFFFF 104

/-- Encode 32 source values (R57 to R64); `rm i` is the rounding of element i. Of a block that holds a NaN, no infinity is
counted: the NaN makes the block, and no infinity is replaced (log 146). -/
def BFmt.encode (b : BFmt) (rm : Nat → RMode) (ieeeMode : Bool) (xs : List FVal) : Block :=
  let infs := (xs.filter FVal.isInf).length
  if xs.any FVal.isNan then { codes := xs.map fun _ => 0, scale := 0xFF, offs := 0, ovf := 0, crush := 0 }
  else if ieeeMode && decide (0 < infs) then
    { codes := xs.map fun _ => 0, scale := 0xFF, offs := 0, ovf := infs, crush := 0 }
  else
    let xs := xs.map fun v => match v with | .inf n => fp32Max n | x => x
    if (maxMag xs).1 = 0 then { codes := xs.map fun _ => 0, scale := 0, offs := 0, ovf := infs, crush := 0 }
    else
      let scale := blockScale xs b.emax
      let s : Int := (scale : Int) - 127
      let og := if b.offs then (List.range 4).map fun g => bd4Offset ((xs.drop (8 * g)).take 8) s else [0, 0, 0, 0]
      let codes := xs.mapIdx fun i v => b.encodeElem (rm i) v ((og.getD (i / 8) 0 : Nat) - s)
      { codes := codes, scale := scale,
        offs := og.getD 0 0 + 4 * og.getD 1 0 + 16 * og.getD 2 0 + 64 * og.getD 3 0, ovf := infs,
        crush := ((xs.zip codes).filter fun p => decide (p.1.mag.1 ≠ 0) && b.zeroCode p.2).length }

/-! ## Packing (R7, R8) and block groups (R46) -/

/-- Pack codes of `w` bits, the lower index in the lower bits. -/
def packCodes (w : Nat) : List Nat → Nat
  | [] => 0
  | c :: r => c % 2 ^ w + 2 ^ w * packCodes w r

/-- `n` codes of `w` bits out of a number. -/
def codesOf (w n v : Nat) : List Nat := (List.range n).map fun i => (v >>> (w * i)) % 2 ^ w

/-- Bytes of the elements of one block (Table 2-4). -/
def BFmt.blockBytes (b : BFmt) : Nat := 4 * b.bits

/-- Bytes of a block group (Table 2-4). -/
def BFmt.groupBytes (b : BFmt) : Nat := 8 * b.blockBytes + 8 + (if b.offs then 8 else 0)

/-- Bytes that `n` elements of a format take in memory: block formats in whole groups of 256. -/
def fmtBytes (c n : Nat) : Nat :=
  match blockFmt c with
  | some b => ceilDiv n 256 * b.groupBytes
  | none => ceilDiv (n * fmtBits c) 8

/-- The bytes of a block group from its eight blocks. -/
def BFmt.groupOf (b : BFmt) (bs : List Block) : List Byte :=
  (bs.flatMap fun x => leBytes b.blockBytes (packCodes b.bits x.codes)) ++
  bs.map (fun x => BitVec.ofNat 8 x.scale) ++ (if b.offs then bs.map (fun x => BitVec.ofNat 8 x.offs) else [])

/-- Element `i` of a block-format row that starts at `a`: its code, scale byte and offset byte. -/
def blockElemAt (m : List Host.Cell) (b : BFmt) (a i : Nat) : Nat × Nat × Nat :=
  let g := a + (i / 256) * b.groupBytes
  let k := i % 256 / 32
  let j := i % 32
  let word := readLe m (g + k * b.blockBytes + j * b.bits / 8) 2
  ((word >>> (j * b.bits % 8)) % 2 ^ b.bits, readLe m (g + 8 * b.blockBytes + k) 1,
   if b.offs then readLe m (g + 8 * b.blockBytes + 8 + k) 1 else 0)

/-- Element `i` of a scalar-format row that starts at `a`: its code. -/
def scalarElemAt (m : List Host.Cell) (w a i : Nat) : Nat :=
  (readLe m (a + i * w / 8) ((i * w % 8 + w + 7) / 8) >>> (i * w % 8)) % 2 ^ w

/-- The value of element `i` of a row of any format that starts at `a`. -/
def valueAt (m : List Host.Cell) (c a i : Nat) : FVal :=
  match blockFmt c with
  | some b => let x := blockElemAt m b a i; b.decode x.2.1 x.2.2 (i % 32) x.1
  | none => match etypeOf c with
    | some t => t.decode (scalarElemAt m t.width a i)
    | none => .fin false 0 0

end Sys2Proof.Machine
end

