-- ==== Sys2Proof/Machine/JobDesc.lean ====
section
/-! DEFINITION. The tile job descriptor with its parameter block and chain program (03: R82 to R97, R107, R109; 04: R138;
05: R152 to R157, R166, R171): fields, what makes them malformed, and the bytes a job reads and writes. -/

namespace Sys2Proof.Machine

/-! ## Deck pairings (R82, R83) -/

/-- Deck operand formats of integer kind. -/
def isIntFmt (c : Nat) : Bool := decide (c = 0x10) || decide (c = 0x11)

/-- Deck operand formats of float kind (Table 2-1, Table 3-1). -/
def isFloatDeckFmt (c : Nat) : Bool :=
  [0x02, 0x03, 0x04, 0x05, 0x08, 0x09, 0x0A, 0x0B, 0x0C, 0x0D, 0x0E, 0x0F].contains c

/-- Four-bit deck formats: E2M1, MXFP4, BD4, INT4. -/
def is4BitFmt (c : Nat) : Bool := [0x08, 0x0D, 0x0F, 0x11].contains c

/-- Classes of Table 3-1. -/
inductive PClass where
  | four | eight | sixteen
deriving DecidableEq, Repr

/-- The class of a pairing, or none where R82 refuses it (R82, R83). -/
def pairClass (a w : Nat) : Option PClass :=
  if (isIntFmt a && isIntFmt w) || (isFloatDeckFmt a && isFloatDeckFmt w) then
    if is4BitFmt a && is4BitFmt w then some .four
    else if [0x02, 0x03].contains a || [0x02, 0x03].contains w then some .sixteen
    else some .eight
  else none

/-- Pass depth D. -/
def PClass.depth : PClass → Nat
  | .four => 128
  | _ => 64

/-- Bytes of a feed word (Table 3-4). -/
def feedWordBytes (a : Nat) (c : PClass) : Nat :=
  if is4BitFmt a then (if c = .four then 64 else 32) else 8 * fmtBits a

/-- Bytes of a weight row (R96). -/
def weightRowBytes (w : Nat) (c : PClass) : Nat :=
  if is4BitFmt w then (if c = .four then 128 else 64) else 16 * fmtBits w

/-- Bytes of the stationary block of one pass (Table 3-5). -/
def statBlockBytes (w : Nat) (c : PClass) : Nat :=
  64 * weightRowBytes w c + (if (blockFmt w).isSome then c.depth / 32 * 128 else 0) +
  (if w = 0x0F then c.depth / 32 * 128 else 0)

/-! ## The descriptor (Table 4-6, Table 5-1) -/

/-- The fields of a tile job descriptor. -/
structure JobP where
  fed : Nat
  feed : Nat
  side : Nat
  rs : Nat
  wblk : Nat
  npass : Nat
  klast : Nat
  ncol : Nat
  afmt : Nat
  wfmt : Nat
  src : Nat
  tstride : Nat
  pstep : Int
  cstart : Nat
  clen : Nat
  tidx : Nat
  layer : Nat
  pblk : Nat
  prov : Bool
  vslot : Nat
  tag : Nat
deriving DecidableEq, Repr

/-- Read the fields out of the descriptor words. -/
def jobFields (w : List W64) : JobP :=
  let g := fun k hi lo => fld (wordAt w k) hi lo
  { fed := (wordAt w 0).toNat, feed := g 1 21 0, side := g 1 43 22, rs := g 1 50 44, wblk := g 2 21 0,
    npass := g 2 33 22 + 1, klast := g 2 40 34 + 1, ncol := g 2 47 41 + 1, afmt := g 2 52 48, wfmt := g 2 57 53,
    src := g 3 21 0, tstride := g 3 41 22 + 1, pstep := signedOf 22 (g 4 21 0), cstart := g 5 8 0, clen := g 5 14 9 + 1,
    tidx := g 5 39 16, layer := g 5 51 40, pblk := g 6 21 0, prov := bitAt (wordAt w 6) 22, vslot := g 6 29 23,
    tag := g 7 15 0 }

/-- A reserved bit of the descriptor is not 0 (R10, R11, Tables 4-6 and 5-1): words 3 and 4 count where RS selects the row
shift, and VSLOT is reserved where PROV is 0 (R138, R153; log 51). -/
def jobReserved (w : List W64) : Bool :=
  let g := fun k hi lo => decide (fld (wordAt w k) hi lo ≠ 0)
  let j := jobFields w
  g 1 63 51 || g 2 63 58 || (decide (j.rs ≠ 0) && (g 3 63 42 || g 4 63 22)) || g 5 15 15 || g 5 63 52 || g 6 63 30 ||
  (!j.prov && decide (j.vslot ≠ 0)) || g 7 63 16

/-- The class of a job; eight where the pairing is refused (callers check first). -/
def JobP.cls (j : JobP) : PClass := (pairClass j.afmt j.wfmt).getD .eight

/-- Pass depth of a job. -/
def JobP.d (j : JobP) : Nat := j.cls.depth

/-- Lowest and highest byte offset that a row-shift job can address in its source (R107). -/
def JobP.srcSpan (j : JobP) : Int × Int :=
  let last : Int := ((j.npass - 1 : Nat) : Int) * j.pstep
  let segs := j.d / j.rs
  let top : Nat := (62 + j.rs) * j.tstride + ((segs - 1) * fmtBits j.afmt + fmtBits j.afmt + 7) / 8 - 1
  ((j.src : Int) + min 0 last, (j.src : Int) + max 0 last + (top : Int))

/-- An extent of `len` bytes at an offset lies in the 3 MiB of a frame store. -/
def inStore (off len : Nat) : Bool := decide (off + len ≤ storeSize)

/-- Number of feed words of a job. -/
def JobP.feedWords (j : JobP) : Nat := 64 * j.npass + 63

/-- The operand parameters are malformed (R85, R97, R109). -/
def JobP.badOperands (j : JobP) : Bool :=
  match pairClass j.afmt j.wfmt with
  | none => true
  | some c =>
    let blockA := (blockFmt j.afmt).isSome
    decide (c.depth < j.klast) || decide (j.rs = 1) || decide (64 < j.rs) ||
    decide (j.wblk % 64 ≠ 0) || !inStore j.wblk (j.npass * statBlockBytes j.wfmt c) ||
    (if j.rs = 0 then
      decide (j.feed % 64 ≠ 0) || !inStore j.feed (j.feedWords * feedWordBytes j.afmt c) ||
      (blockA && (decide (j.side % 64 ≠ 0) || !inStore j.side (j.feedWords * 8)))
     else
      !([0x02, 0x03, 0x04, 0x05, 0x08, 0x10, 0x11].contains j.afmt) || decide (j.src % 64 ≠ 0) ||
      decide (j.pstep < -1048576) || decide (1048576 < j.pstep) ||
      decide (j.srcSpan.1 < 0) || decide ((storeSize : Int) ≤ j.srcSpan.2))

/-- Ranges of the frame store that the decks read for a job, as offset and length (R111). A job with no fed row reads
no operands (R104). -/
def JobP.deckRanges (j : JobP) : List (Nat × Nat) :=
  if j.fed = 0 then [] else
  (j.wblk, j.npass * statBlockBytes j.wfmt j.cls) ::
  (if j.rs = 0 then
    (j.feed, j.feedWords * feedWordBytes j.afmt j.cls) ::
    (if (blockFmt j.afmt).isSome then [(j.side, j.feedWords * 8)] else [])
   else [(j.srcSpan.1.toNat, (j.srcSpan.2 - j.srcSpan.1 + 1).toNat)])

/-! ## The parameter block (Table 5-2) -/

/-- The fields of a parameter block. -/
structure ParamP where
  p : List Nat
  tfirst : Nat
  tlast : Nat
  tcont : Nat
  expect : Nat
  rowmap : Nat
  kvhead : Nat
  rsk : Nat
  rseps : Nat
  npart : Nat
  pctr : Nat
  pwait : Nat
  plist : List (Nat × Nat)
  crec : Nat
  cren : Bool
deriving DecidableEq, Repr

/-- Read the fields out of the 256 bytes. -/
def paramFields (bs : List Byte) : ParamP :=
  let w := wordsOf 32 bs
  let g := fun k hi lo => fld (wordAt w k) hi lo
  { p := (List.range 8).map fun k => g k 47 0, tfirst := g 8 8 0, tlast := g 8 17 9, tcont := g 8 24 18,
    expect := g 8 31 25 + 1, rowmap := g 8 53 32, kvhead := g 8 61 54, rsk := g 9 31 0, rseps := g 9 63 32,
    npart := g 10 3 0 + 1, pctr := g 10 8 4, pwait := g 10 63 32,
    plist := (List.range 16).map fun k =>
      let e := leNat ((bs.drop (88 + 4 * k)).take 4)
      (bitsOf e 8 0, bitsOf e 30 9),
    crec := g 19 21 0, cren := bitAt (wordAt w 19) 22 }

/-- Parameter address P[k]. -/
def ParamP.addr (q : ParamP) (k : Nat) : Nat := q.p.getD k 0

/-! ## Chain instructions (R155 to R157) -/

/-- The fields of a chain instruction word (Table 5-3). -/
structure CInsn where
  op : Nat
  ifmt : Nat
  rm : Nat
  ovm : Bool
  rc : Bool
  rsb : Nat
  pa : Nat
  cb : Nat
  fn : Nat
  imm : Nat
deriving DecidableEq, Repr

/-- Read the fields out of a chain instruction. -/
def chainFields (w : W64) : CInsn :=
  { op := fld w 63 58, ifmt := fld w 57 53, rm := fld w 52 50, ovm := bitAt w 49, rc := bitAt w 48, rsb := fld w 47 45,
    pa := fld w 44 42, cb := fld w 41 40, fn := fld w 39 32, imm := fld w 31 0 }

/-- Scalar formats of Table 4-3. -/
def isScalarFmt (c : Nat) : Bool := (etypeOf c).isSome

/-- Formats that SR may target (R49). -/
def srAllowed (c : Nat) : Bool := [0x04, 0x05, 0x08, 0x09, 0x0A, 0x0D, 0x0F].contains c

/-- Whether an RM code is allowed in the chain for a target (R49, R156). -/
def chainRmOk (rm fmt : Nat) : Bool := decide (rm ≤ 4) || (decide (rm = 6) && srAllowed fmt)

/-- Page element formats (08: KVFMT). -/
def isPageFmt (c : Nat) : Bool := [0x02, 0x03, 0x04, 0x05].contains c

/-- Whether a chain instruction is malformed by itself (R156; and R157: an RSCALE with RC = 0, and a TALLY with RC = 1, which
is both a TALLY and an RC = 1 instruction on its buffer). RC and RSB belong to the wait that any instruction may carry
(Table 5-3); `blockValue` tells that the current value is block-encoded. -/
def CInsn.bad (c : CInsn) (blockValue : Bool) : Bool :=
  let noConv := decide (c.ifmt = 0) && decide (c.rm = 0) && !c.ovm
  let conv := isScalarFmt c.ifmt && chainRmOk c.rm c.ifmt
  let noRsb := c.rc || decide (c.rsb = 0)
  let noPa := decide (c.pa = 0)
  let noCb := decide (c.cb = 0)
  let noFn := decide (c.fn = 0)
  let noImm := decide (c.imm = 0)
  !(match c.op with
    | 0x01 => conv && noRsb && noCb && noImm && decide (c.fn < 32) && isScalarFmt c.fn
    | 0x02 =>
      conv && noRsb && noCb &&
      (match c.fn / 32 with
       | 0 | 1 => isScalarFmt (c.fn % 32) && noImm
       | 2 => decide (c.fn = 64) && noPa
       | _ => false)
    | 0x03 =>
      conv && noRsb && noCb && noImm && (decide (c.fn ≤ 9) || (decide (0x10 ≤ c.fn) && decide (c.fn ≤ 0x1F))) &&
      (noPa || decide (0x10 ≤ c.fn))
    | 0x04 => conv && noRsb && noPa && noImm && decide (c.fn < 2)
    | 0x05 => noConv && noRsb && noPa && noImm && noFn
    | 0x06 => conv && noRsb && noCb && decide (c.fn < 32) && isScalarFmt c.fn
    | 0x07 =>
      decide (fmtBits c.ifmt ≠ 0) && chainRmOk c.rm c.ifmt && noRsb && noPa && noCb && noFn
    | 0x08 => noConv && noRsb && noCb && (if blockValue then decide (c.fn < 3) else noFn)
    | 0x09 => isPageFmt c.ifmt && chainRmOk c.rm c.ifmt && noRsb && noPa && noCb && noImm && decide (c.fn < 2)
    | 0x0A => noConv && !c.rc && noPa && noCb && noImm && decide (c.fn < 3)
    | 0x0B => conv && c.rc && noPa && noCb && noImm && decide (c.fn / 2 < 3) && decide (c.fn < 8)
    | 0x0C => noConv && noRsb && noPa && noCb && noFn && noImm
    | 0x0D => noConv && noRsb && noPa && noCb && noFn && noImm
    | 0x0E => noConv && noRsb && noCb && noFn && decide (c.imm < 32)
    | _ => false)

/-- Whether the value after an instruction is block-encoded. -/
def CInsn.blockAfter (c : CInsn) (before : Bool) : Bool :=
  if c.op = 0x07 then (blockFmt c.ifmt).isSome else before

/-- Instructions that need an element value (R157). -/
def CInsn.arith (c : CInsn) : Bool := [0x01, 0x02, 0x03, 0x04, 0x06, 0x0B, 0x09].contains c.op

/-- Instructions malformed by themselves, or after a QUANT to a block format where R157 forbids it: `cur` tells that the
current value is block-encoded, `seen` that some earlier QUANT encoded one. -/
def chainBadFrom : Bool → Bool → List CInsn → Bool
  | _, _, [] => false
  | cur, seen, c :: r =>
    c.bad cur || (seen && c.arith) || chainBadFrom (c.blockAfter cur) (c.blockAfter cur || seen) r

/-- Whether a chain program is malformed (R156, R157). -/
def chainBad (p : List CInsn) : Bool :=
  chainBadFrom false false p ||
  (p.any (fun c => decide (c.op = 0x0E)) && decide (1 < p.length)) ||
  (p.drop 1).any (fun c => decide (c.op = 0x0D)) ||
  p.any (fun c => decide (c.op = 0x0A) && p.any (fun d => d.rc && decide (d.rsb = c.rsb)))

/-- The chain program of a job. -/
def Frame.program (f : Frame) (j : JobP) : List CInsn :=
  (List.range j.clen).map fun k => chainFields (smGet 0 f.cstore (j.cstart + k))

/-- A range that lies in the store of frame `f`, as offset and length; none where it lies elsewhere. -/
def storeRange (f addr len : Nat) : List (Nat × Nat) :=
  if storeAddr f 0 ≤ addr ∧ addr < storeAddr f storeSize then [(addr - storeAddr f 0, len)] else []

/-- An address from a base, a signed stride and an index; one that is no 48-bit address maps to nothing. -/
def strided (base : Nat) (stride : Int) (i : Nat) : Nat :=
  let a : Int := (base : Int) + stride * (i : Int)
  if a < 0 ∨ (2 ^ 48 : Nat) ≤ a then 2 ^ 48 else a.toNat

/-- Rows that are fed. -/
def JobP.rows (j : JobP) : List Nat := (List.range 64).filter fun m => j.fed.testBit m

/-- Bytes of NCOL elements in a scalar format (R163). -/
def rowBytes (fmt ncol : Nat) : Nat := ceilDiv (ncol * fmtBits fmt) 8

/-- Physical ranges that a chain instruction reads: vectors, tables and RESID rows (R166). -/
def CInsn.reads (c : CInsn) (j : JobP) (q : ParamP) : List (Nat × Nat) :=
  match c.op with
  | 0x01 => [(q.addr c.pa, ceilDiv (128 * fmtBits c.fn) 8)]
  | 0x02 =>
    (match c.fn / 32 with
     | 0 => [(q.addr c.pa, ceilDiv (128 * fmtBits (c.fn % 32)) 8)]
     | 1 => [(q.addr c.pa, ceilDiv (64 * fmtBits (c.fn % 32)) 8)]
     | _ => [])
  | 0x03 => if 0x10 ≤ c.fn then [(q.addr c.pa, 32 * (c.fn % 16 + 1))] else []
  | 0x06 => j.rows.map fun m => (strided (q.addr c.pa) (signedOf 32 c.imm) m, rowBytes c.fn j.ncol)
  | _ => []

/-- The format of the current value after an instruction (Table 5-4: KVAPP and the pass-through instructions keep it). -/
def CInsn.fmtAfter (c : CInsn) (before : Nat) : Nat :=
  if [0x05, 0x08, 0x09, 0x0A, 0x0C, 0x0D, 0x0E].contains c.op then before else c.ifmt

/-- Rows that the group assembly buffer holds after an instruction of a job, from those it held (R164): GH 0b01 fills it, GH 0b10
empties it. -/
def CInsn.asmAfter (c : CInsn) (j : JobP) (asm : Nat) : Nat :=
  if c.op = 0x08 then (match c.fn % 4 with | 1 => j.fed | 2 => 0 | _ => asm) else asm

/-- Physical ranges that the STOREs of a program write (R163, R164, R166), from the rows that the group assembly buffer holds, which GH
0b10 writes as well, and the current value's format. -/
def storesFrom (j : JobP) (q : ParamP) : Nat → Nat → List CInsn → List (Nat × Nat)
  | _, _, [] => []
  | asm, fmt, c :: r =>
    (if c.op = 0x08 then
      let block := blockFmt fmt
      let len := match block with
        | some b => if c.fn % 4 = 1 then 0 else b.groupBytes
        | none => rowBytes fmt j.ncol
      let rows := if block.isSome && decide (c.fn % 4 = 2) then
          (List.range 64).filter fun m => j.fed.testBit m || asm.testBit m
        else j.rows
      rows.map fun m => (strided (q.addr c.pa) (signedOf 32 c.imm) m, len)
     else []) ++ storesFrom j q (c.asmAfter j asm) (c.fmtAfter fmt) r

/-- The format of a job's accumulator tile: INT32 or FP32 (R158). -/
def JobP.accFmt (j : JobP) : Nat := if isIntFmt j.afmt then 0x12 else 0x00

/-- Whether two ranges share a byte. -/
def rangesMeet (a b : Nat × Nat) : Bool :=
  decide (a.1 < b.1 + b.2) && decide (b.1 < a.1 + a.2)

/-- Whether some range of one list meets some range of the other. -/
def anyMeet (xs ys : List (Nat × Nat)) : Bool := xs.any fun x => ys.any fun y => rangesMeet x y

/-- Frame-store ranges that a job's chain program reads (R166). -/
def Frame.chainRanges (fr : Frame) (f : Nat) (j : Job) : List (Nat × Nat) :=
  if j.att.isSome then [] else
  let p := jobFields j.words
  let q := paramFields j.params
  (fr.program p).flatMap fun c => (c.reads p q).flatMap fun r => storeRange f r.1 r.2

/-- The jobs whose chain program waits. -/
def Frame.waiting (fr : Frame) : List Job := fr.course.toList.map (·.job)

/-- Rows in the group assembly buffer after some instructions of a job. -/
def asmOver (j : JobP) (asm : Nat) (p : List CInsn) : Nat := p.foldl (fun m c => c.asmAfter j m) asm

/-- Rows that the group assembly buffer holds when the jobs accepted so far have run their programs (R164). -/
def Frame.assemblyRows (fr : Frame) : Nat :=
  let m := match fr.assembly with | some a => a.valid.toNat | none => 0
  let m := match fr.course with
    | some x => let p := jobFields x.job.words; asmOver p m ((fr.program p).drop x.next)
    | none => m
  (fr.inFlight ++ fr.deckQueue).foldl (fun m j =>
    if j.att.isSome then m else let p := jobFields j.words; asmOver p m (fr.program p)) m

/-- Physical ranges that the STOREs of a job accepted now will write (R166). -/
def Frame.storesOf (fr : Frame) (p : JobP) (q : ParamP) : List (Nat × Nat) := storesFrom p q fr.assemblyRows p.accFmt (fr.program p)

/-- Deck read ranges of a job: of an engine's job, the whole attention area (R213). -/
def Job.deckRanges (j : Job) : List (Nat × Nat) :=
  match j.att with
  | some a => [(a.area, 0x80000)]
  | none => (jobFields j.words).deckRanges

/-- Sequence number a is earlier than b (R137). -/
def seqEarlier (a b : W32) : Bool := decide (1 ≤ (b - a).toNat) && decide ((b - a).toNat < 2 ^ 31)

/-- Whether a store to [off, off + len) of a frame's own store meets a read range of a job that is in the deck queue, or
in flight and not seen read out by a FENCEJ (R113, R143, R166). -/
def Frame.hazard (fr : Frame) (f off len : Nat) : Bool :=
  let w := [(off, len)]
  (fr.deckQueue.any fun j => anyMeet w (j.deckRanges ++ fr.chainRanges f j)) ||
  ((fr.inFlight ++ fr.waiting).any fun j => (decide (j.seq ≠ fr.readDone) && !seqEarlier j.seq fr.readDone) &&
    anyMeet w (j.deckRanges ++ fr.chainRanges f j))

end Sys2Proof.Machine
end

