-- ==== Sys2Proof/Machine/Operands.lean ====
section
/-! DEFINITION. The operands of a reckoner instruction (04: R115, R119 to R122, R126 to R128): registers, lane masks,
elements of a vector, the checks at issue, and the frame store seen from a core. -/

namespace Sys2Proof.Machine

/-! ## Registers (Table 4-1) -/

/-- Scalar register r; s0 reads as 0. -/
def Ctx.getS (c : Ctx) (r : BitVec 5) : W64 := if r = 0 then 0 else smGet 0 c.sregs r.toNat

/-- Write scalar register r; s0 ignores writes. -/
def Ctx.setS (c : Ctx) (r : BitVec 5) (v : W64) : Ctx :=
  if r = 0 then c else { c with sregs := smSet 0 c.sregs r.toNat v }

/-- Vector register r. -/
def Ctx.getV (c : Ctx) (r : BitVec 5) : BitVec 2048 := smGet 0 c.vregs r.toNat

/-- Write vector register r. -/
def Ctx.setV (c : Ctx) (r : BitVec 5) (v : BitVec 2048) : Ctx := { c with vregs := smSet 0 c.vregs r.toNat v }

/-- Mask register r; m0 reads as all ones. -/
def Ctx.getM (c : Ctx) (r : Nat) : W64 := if r = 0 then BitVec.allOnes 64 else smGet 0 c.masks r

/-- Write mask register r; an instruction that names m0 is malformed before it comes here (R127). -/
def Ctx.setM (c : Ctx) (r : Nat) (v : W64) : Ctx := if r = 0 then c else { c with masks := smSet 0 c.masks r v }

/-- The number of a context in its frame. -/
def slotOf (w : ThreadId) : Nat := w.core.val * 16 + w.ctx.val

/-- Thread number (R119). -/
def threadNo (w : ThreadId) : Nat := w.frame.val * 64 + slotOf w

/-- A context of the state. -/
def State.ctx (s : State) (w : ThreadId) : Ctx := smGet {} (s.frame w.frame.val).ctxs (slotOf w)

/-- Replace a context. -/
def State.setCtx (s : State) (w : ThreadId) (c : Ctx) : State :=
  s.modFrame w.frame.val fun f => { f with ctxs := smSet {} f.ctxs (slotOf w) c }

/-! ## Program faults (R149) -/

/-- Fault codes (Tables 4-11, 5-8, 7-6, 12-9). -/
inductive FCode where
  | malformedInsn | varyForbidden | deckMalformed | deckHazard | dmaMalformed | misaligned | storeRange | badAddress
  | regionEdge | barrierMismatch | waitTimeout | pcRange | chainSlot | tallyDup | groupOpen | kvFormat
  | other (n : Nat)
deriving DecidableEq, Repr

/-- The code's number. -/
def FCode.num : FCode → Nat
  | .malformedInsn => 0x01 | .varyForbidden => 0x02 | .deckMalformed => 0x03 | .deckHazard => 0x04
  | .dmaMalformed => 0x05 | .misaligned => 0x06 | .storeRange => 0x07 | .badAddress => 0x08 | .regionEdge => 0x09
  | .barrierMismatch => 0x0A | .waitTimeout => 0x0B | .pcRange => 0x0C | .chainSlot => 0x0D | .tallyDup => 0x0E
  | .groupOpen => 0x0F | .kvFormat => 0x10 | .other n => n

/-- A fault record (Table 4-10). -/
def faultRecord (code : FCode) (w : ThreadId) (pc : W64) (addr : Nat) : BitVec 128 :=
  BitVec.ofNat 128 (code.num + 2 ^ 8 * w.frame.val + 2 ^ 17 * w.core.val + 2 ^ 19 * w.ctx.val +
    2 ^ 23 * (pc.toNat % 2 ^ 17) + 2 ^ 64 * (addr % 2 ^ 48))

/-- A context that has not ended its part does not issue any more. -/
def Ctx.stop (c : Ctx) : Ctx := if c.run = .halted then c else { c with run := .stopped }

/-- Stop every context of a frame (R149). -/
def Frame.stopAll (f : Frame) : Frame := { f with ctxs := f.ctxs.map fun (x : Nat × Ctx) => (x.1, x.2.stop) }

/-- Stop a region's compute: every context stops before its next issue, accepted jobs and transfers complete (R149). -/
def State.stopRegion (s : State) (n : Nat) : State :=
  let fs := (s.region n).frameList s.nv
  let s := { s with frames := s.frames.map fun (x : Nat × Frame) => if fs.contains x.1 then (x.1, x.2.stopAll) else x }
  s.modRegion n fun (r : Region) => { r with run := if r.run = .waiting then .waiting else .stopping }

/-- Record a fault against a region and stop it (R149): up to eight records are kept. -/
def State.regionFault (s : State) (n : Nat) (rec : BitVec 128) : State :=
  let s := s.stopRegion n
  s.modRegion n fun r => { r with
    faultN := min 8 (r.faultN + 1), faulted := true,
    faultRecs := if r.faultRecs.length < 8 then r.faultRecs ++ [rec] else r.faultRecs }

/-- A context faults: it stops at the faulting instruction, the record is written and its region's compute ends
(R149). -/
def State.programFault (s : State) (w : ThreadId) (pc : W64) (code : FCode) (addr : Nat) : State :=
  match s.regionOfFrame w.frame.val with
  | some n => s.regionFault n (faultRecord code w pc addr)
  | none => s.setCtx w { s.ctx w with run := .stopped }

/-- The address field of a chain fault: chain store index and job number (R179). -/
def chainFaultAddr (idx : Nat) (seq : W32) : Nat := idx + 2 ^ 16 * seq.toNat

/-- Whether a frame's part of the step has ended (R148): no context issues any more, its queues are empty and its chain
unit is idle. -/
def Frame.partEnded (fr : Frame) : Bool :=
  fr.ctxs.all (fun (x : Nat × Ctx) => decide (x.2.run = .halted) || decide (x.2.run = .stopped)) &&
  fr.deckQueue.isEmpty && fr.inFlight.isEmpty && fr.course.isNone && fr.delivered.isEmpty && fr.heldJobs.isEmpty && fr.attTodo.isEmpty &&
  fr.dmaQueue.isEmpty && fr.attQueue.isEmpty && fr.dmaActive.isEmpty

/-- A frame's part of the step that would end with a full group assembly buffer faults (R164). -/
def State.checkPart (s : State) (f : Nat) : State :=
  let fr := s.frame f
  match fr.assembly, s.regionOfFrame f with
  | some a, some n =>
    if fr.partEnded && decide ((s.region n).run ≠ .waiting) then
      (s.modFrame f fun fr => { fr with assembly := none }).regionFault n
        (faultRecord .groupOpen a.who a.pc (chainFaultAddr a.idx a.seq))
    else s
  | _, _ => s

/-- Go on at an address: a fetch at or above 0x2_0000 faults (R149, Table 4-11). DESIGN CHOICE: the record's pc is the address modulo 2^17
and its address the whole address (log 204). -/
def State.goTo (s : State) (w : ThreadId) (c : Ctx) (pc : W64) : State :=
  let s := s.setCtx w { c with pc := pc }
  if 0x20000 ≤ pc.toNat then s.programFault w pc .pcRange pc.toNat else s

/-- The instruction is complete: the context goes on at the next word. -/
def State.retire (s : State) (w : ThreadId) (c : Ctx) : State := s.goTo w c (c.pc + 8)

/-! ## Issue (R127, R128) -/

/-- Which fields of the word an opcode uses, its V attribute, and the element types allowed (Table 4-4). -/
structure Form where
  d : Bool := false
  a : Bool := false
  b : Bool := false
  c : Bool := false
  mask : Bool := false
  imm : Bool := false
  dIsMask : Bool := false
  v : Bool := false
  types : List Nat := []
deriving DecidableEq, Repr

/-- Whether a word keeps to its opcode's form (R127); immediate contents are checked by the opcode. -/
def Form.fits (f : Form) (i : Insn) : Bool :=
  (f.d || decide (i.d = 0)) && (f.a || decide (i.a = 0)) && (f.b || decide (i.b = 0)) && (f.c || decide (i.c = 0)) &&
  (f.mask || decide (i.mask = 0)) && (f.imm || decide (i.imm = 0)) &&
  (!f.dIsMask || (decide (i.d ≠ 0) && decide (i.d.toNat < 8))) && decide (i.v = f.v) &&
  (if f.types = [] then decide (i.ty = 0) else f.types.contains i.ty.toNat)

/-- Whether the loaded image of a frame's region forbids V (R128). -/
def State.novary (s : State) (f : Nat) : Bool :=
  match s.regionOfFrame f with
  | some n => match (s.region n).image with
    | some im => im.novary
    | none => false
  | none => false

/-- A context may issue: its frame exists, it runs, and its pc is in the instruction store. -/
def State.canIssue (s : State) (w : ThreadId) : Bool :=
  decide (w.frame.val < s.nv.frames) && decide ((s.ctx w).run = .running) && decide ((s.ctx w).pc.toNat < 0x20000)

/-- The command that a context issues next: what the word of its frame's instruction store at its pc spells (R115, R118, R126;
log 11). -/
def State.nextCommand (s : State) (w : ThreadId) : Instr :=
  Instr.ofWord w (smGet 0 (s.frame w.frame.val).istore ((s.ctx w).pc.toNat / 8))

/-- Issue an instruction of a context (R117, R127, R128): a context that does not run issues nothing; a fetch outside
the store, a malformed word and a forbidden V fault; else `body` is what the instruction does. Of R127 and R128, where both
apply, R127 comes first (log 148). -/
def State.issue (s : State) (w : ThreadId) (ok v : Bool) (body : Ctx → State) : Host.Outcome State Fault Refusal :=
  if s.nv.frames ≤ w.frame.val then .fault .absentFrame else
  let c := s.ctx w
  .next (
    if c.run ≠ .running then s
    else if 0x20000 ≤ c.pc.toNat then s.programFault w c.pc .pcRange c.pc.toNat
    else if !ok then s.programFault w c.pc .malformedInsn 0
    else if v && s.novary w.frame.val then s.programFault w c.pc .varyForbidden 0
    else body c)

/-- The signed immediate, extended to 64 bits (log 15). -/
def simm (i : Insn) : W64 := i.imm.signExtend 64

/-! ## Elements (R119, R120) -/

/-- The elements of a vector at a width, in index order. -/
def vecElems (w : Nat) (v : BitVec 2048) : List Nat := codesOf w (2048 / w) v.toNat

/-- The vector of a list of elements. -/
def vecOf (w : Nat) (xs : List Nat) : BitVec 2048 := BitVec.ofNat 2048 (packCodes w xs)

/-- Element i of n is active under a mask (R120). -/
def activeAt (m : W64) (n i : Nat) : Bool := bitAt m (i * 64 / n)

/-- New elements where active, old ones elsewhere. -/
def mergeActive (m : W64) (n : Nat) (old new : List Nat) : List Nat :=
  (old.zip new).mapIdx fun i p => if activeAt m n i then p.2 else p.1

/-- Whether two numbers of a list are equal. -/
def hasDup : List Nat → Bool
  | [] => false
  | x :: r => r.contains x || hasDup r

/-- Put an entry at a position of a list. -/
def insertAt {α : Type} : List α → Nat → α → List α
  | r, 0, x => x :: r
  | [], _, x => [x]
  | y :: r, n + 1, x => y :: insertAt r n x

/-- An order of arrival that nothing fixes (R130: arrival order): each entry is inserted at a place named by a free
value, from free value `k` on (log 4, log 16). -/
def shuffle {α : Type} : Nat → List α → List α
  | _, [] => []
  | k, x :: r => insertAt (shuffle (k + 1) r) ((Config.free64 k).toNat % (r.length + 1)) x

/-! ## The frame store seen from a core (R121, R122) -/

/-- How an access of `len` bytes at an offset fares: STORE_RANGE when it touches a byte at or above 3 MiB, MISALIGNED
when it is not aligned (log 17: in this order). -/
def accessFault (off len align : Nat) : Option FCode :=
  if storeSize < off + len then some .storeRange
  else if off % align ≠ 0 then some .misaligned
  else none

/-- Read a little-endian number from a frame's store. -/
def State.loadStore (s : State) (f off n : Nat) : Nat := readLe s.mem (storeAddr f off) n

/-- Write a little-endian number to a frame's store. -/
def State.storeStore (s : State) (f off n v : Nat) : State := { s with mem := writeLe s.mem (storeAddr f off) n v }

/-! ## Races (R125, R434) -/

/-- Who reads: a context, another unit of a region, or the host through COPY_OUT. -/
inductive Viewer where
  | context (w : ThreadId) | unit (rid : Nat) | host (rid : Nat)
deriving DecidableEq, Repr

/-- The bytes that a noted write wrote meet a range. -/
def Race.meets (e : Race) (a n : Nat) : Bool := rangesMeet (e.addr, e.old.length) (a, n)

/-- The byte at an address before a noted write, where the write covers it. -/
def Race.before (e : Race) (a : Nat) : Option Byte := if e.addr ≤ a then e.old[a - e.addr]? else none

/-- Whether a noted write races with an access of a reader: another context's store that nothing has made visible to the reader
(R125), a copy with an access of the step, or a write of the step with a copy (R434). -/
def Race.races (e : Race) : Viewer → Bool
  | .context w => (match e.writer with
      | .context x => decide (x ≠ w) && decide (x.frame = w.frame) && !e.seen.contains w
      | .unit _ => false
      | .copy _ => !e.seen.contains w)
  | .unit n => decide (e.writer = .copy n)
  | .host n => (match e.writer with | .context _ => true | .unit m => decide (m = n) | .copy _ => false)

/-- Whether a byte of a noted write has been made visible to a reader by an atomic operation on its word (R125). -/
def Race.known (e : Race) (r : Viewer) (a : Nat) : Bool :=
  match r with
  | .context w => e.met.any fun x => decide (x.1 = w) && decide (x.2 ≤ a) && decide (a < x.2 + 4)
  | _ => false

/-- The noted writes that race with a read, latest first. -/
def State.racing (s : State) (r : Viewer) (a n : Nat) : List Race := s.races.filter fun e => e.races r && e.meets a n

/-- A byte as it was before the newest `k` racing writes to its 16-byte granule. A write to the byte that does not race there, such as
the reader's own or one that an atomic operation has made visible at that byte, hides what was before it. -/
def rewound (racing : Race → Bool) (known : Race → Nat → Bool) (a : Nat) : Nat → List Race → Byte → Byte
  | 0, _, b => b
  | _ + 1, [], b => b
  | k + 1, e :: r, b =>
    if (e.before a).isSome && (!racing e || known e a) then b
    else if racing e && e.meets (a / 16 * 16) 16 then rewound racing known a k r ((e.before a).getD b)
    else rewound racing known a (k + 1) r b

/-- Bytes of memory read among noted writes, of which each 16-byte granule is as it stands or as it was before the newest racing
writes to it, as many of them as a free value from number `c` on says: old bytes or new for each granule independently (R125,
log 149). -/
def racedBytes (m : List Host.Cell) (es : List Race) (racing : Race → Bool) (known : Race → Nat → Bool) (a n c : Nat) : List Byte :=
  (List.range n).map fun i =>
    let x := a + i
    let cnt := (es.filter fun e => racing e && e.meets (x / 16 * 16) 16).length
    rewound racing known x ((Config.free64 (c + (x / 16 - a / 16))).toNat % (cnt + 1)) es (memGet m x)

/-- Number of 16-byte granules that a range touches. -/
def granules (a n : Nat) : Nat := (a + n - 1) / 16 + 1 - a / 16

/-- Read bytes: what stands there, or for a read that races, granule by granule the old bytes or the new (R125, R434). -/
def State.readRaced (s : State) (r : Viewer) (a n : Nat) : List Byte × State :=
  if s.racing r a n = [] then (readBytes s.mem a n, s)
  else (racedBytes s.mem s.races (·.races r) (·.known r) a n s.freeCtr, { s with freeCtr := s.freeCtr + granules a n })

/-- Load a little-endian number from the frame store of a context (R125). -/
def State.loadBy (s : State) (w : ThreadId) (off n : Nat) : Nat × State :=
  let x := s.readRaced (.context w) (storeAddr w.frame.val off) n
  (leNat x.1, x.2)

/-- Store a number into the frame store of a context; until something makes it visible to them, other contexts' loads race
with it (R125). -/
def State.storeBy (s : State) (w : ThreadId) (off n v : Nat) : State :=
  let a := storeAddr w.frame.val off
  { s with
    mem := writeLe s.mem a n v
    races := { writer := .context w, addr := a, old := readBytes s.mem a n } :: s.races }

/-- The stores of frame f's contexts that `p` accepts have become visible to the contexts listed (R125). -/
def State.reveal (s : State) (seers : List ThreadId) (p : Race → Bool) : State :=
  { s with races := s.races.map fun e => if p e then { e with seen := e.seen ++ seers } else e }

/-- A write of a context of frame f. -/
def Race.ofFrame (e : Race) (f : Nat) : Bool := match e.writer with | .context w => decide (w.frame.val = f) | _ => false

/-- A context has issued a job (`dma` = false) or a transfer: its earlier stores are before that job or transfer (R125,
R144). -/
def State.orderStores (s : State) (me : ThreadId) (dma : Bool) (seq : W32) : State :=
  { s with races := s.races.map fun e =>
      if e.writer ≠ .context me then e
      else if dma then { e with xfer := e.xfer.or (some seq) } else { e with job := e.job.or (some seq) } }

/-- Memory as a unit of a region sees it: every granule that a copy of the step has written is old or new (R434). -/
def State.lookUnit (s : State) (n : Nat) : State :=
  let gs := ((s.races.filter fun e => e.races (.unit n)).flatMap fun e =>
    (List.range (granules e.addr e.old.length)).map fun k => e.addr / 16 + k).eraseDups
  gs.foldl (fun (t : State) g =>
    let x := { s with freeCtr := t.freeCtr }.readRaced (.unit n) (16 * g) 16
    { t with mem := writeBytes t.mem (16 * g) x.1, freeCtr := x.2.freeCtr }) s

/-- What a unit of region n does, on memory as it sees it: bytes that it does not change stay as they stand (R434). -/
def State.inStep (s : State) (n : Nat) (act : State → State) : State :=
  let es := s.races.filter fun e => e.races (.unit n)
  if es = [] then act s
  else
    let v := s.lookUnit n
    let t := act v
    { t with mem := es.foldl (fun m e => (List.range e.old.length).foldl (fun m i =>
        let x := e.addr + i
        if memGet t.mem x = memGet v.mem x then writeBytes m x [memGet s.mem x] else m) m) t.mem }

/-- Number by which a frame's owner names a sampler run (its descriptors are not in the attention list). -/
def sampOwner (slot : Nat) : Nat := 1024 + slot

/-- Offset of the attention area that a sampler descriptor's frames stage logits in: a multiple of 64 KiB, its 512 KiB within the store
(R211, R325; log 38). -/
def samplerBase (w : List W64) : Nat := 0x10000 * (Config.samplerArea w % 41)

/-- The attention area of a frame that a descriptor, or a sampler run, holds: offset of its 512 KiB (R210, R213, R325). -/
def State.attArea (s : State) (n d : Nat) : Nat :=
  match (s.region n).image with
  | some im => if d < 1024 then fld (wordAt (im.attention.getD d []) 9) 57 36 else samplerBase (im.sampler.getD (d - 1024) [])
  | none => 0

/-- Size of that area. -/
def State.attSize (s : State) (n d : Nat) : Nat :=
  match (s.region n).image with
  | some im => if d < im.attention.length ∨ 1024 ≤ d then 0x80000 else 0
  | none => 0

/-- Whether a store or atomic of a core meets a job's read ranges (R113); while an engine's descriptor holds the frame,
its attention area is one of them (R213). -/
def State.hazard (s : State) (f off len : Nat) : Bool :=
  let fr := s.frame f
  fr.hazard f off len ||
  (match fr.attOwner with
   | some o => rangesMeet (off, len) (s.attArea o.1 o.2, s.attSize o.1 o.2)
   | none => false)

/-- The fault of a store, if any: range, alignment, then the decks' read ranges. -/
def State.storeFault (s : State) (f off len align : Nat) : Option FCode :=
  match accessFault off len align with
  | some c => some c
  | none => if s.hazard f off len then some .deckHazard else none

end Sys2Proof.Machine
end

