-- ==== Sys2Proof/Machine/Accept.lean ====
section
/-! DEFINITION. Accepting a tile job or a transfer into its queue (03: R85, R86; 04: R135, R136, R138, R139, R141, R142, R144;
05: R153, R154, R171; 07: R213): what makes a descriptor malformed, and the acceptance itself, which a context that found the
queue full does once an entry frees. -/

namespace Sys2Proof.Machine

/-! ## The descriptor (Table 4-7) -/

/-- The fields of a transfer descriptor. -/
structure XferP where
  src : Nat
  kind : Nat
  dst : Nat
  rowbytes : Nat
  nrows : Nat
  sstride : Int
  dstride : Int
  arg0 : Nat
  arg1 : Nat
  sframe : Nat
  sctr : Nat
  sen : Bool
deriving DecidableEq, Repr

/-- Read the fields out of the descriptor words. -/
def xferFields (w : List W64) : XferP :=
  let g := fun k hi lo => fld (wordAt w k) hi lo
  { src := g 0 47 0, kind := g 0 51 48, dst := g 1 47 0, rowbytes := g 2 23 0 + 1, nrows := g 2 43 24 + 1,
    sstride := signedOf 32 (g 3 31 0), dstride := signedOf 32 (g 3 63 32), arg0 := (wordAt w 4).toNat,
    arg1 := (wordAt w 5).toNat, sframe := g 6 8 0, sctr := g 6 13 9, sen := bitAt (wordAt w 6) 14 }

/-- ARG0 of FEED and WEIGHTS (Table 4-8). -/
structure PackP where
  fmt : Nat
  npass : Nat
  klast : Nat
  cls : Option PClass
  ncol : Nat
  side : Nat
deriving DecidableEq, Repr

/-- Read ARG0 of a FEED or WEIGHTS transfer. -/
def packFields (x : XferP) : PackP :=
  { fmt := bitsOf x.arg0 4 0, npass := bitsOf x.arg0 16 5 + 1, klast := bitsOf x.arg0 23 17 + 1,
    cls := (match bitsOf x.arg0 25 24 with | 0 => some .four | 1 => some .eight | 2 => some .sixteen | _ => none),
    ncol := bitsOf x.arg0 32 26 + 1, side := bitsOf x.arg0 47 26 }

/-- Whether a pass of a class can have an operand of a format (R82, R83). -/
def packClassOk (fmt : Nat) (c : PClass) : Bool :=
  (isFloatDeckFmt fmt || isIntFmt fmt) &&
  (match c with
   | .four => is4BitFmt fmt
   | .sixteen => isFloatDeckFmt fmt
   | .eight => !([0x02, 0x03].contains fmt))

/-- Bytes that FEED writes at DST. -/
def PackP.feedBytes (q : PackP) (c : PClass) : Nat := (64 * q.npass + 63) * feedWordBytes q.fmt c

/-- Depth of a tensor row that a FEED or WEIGHTS reads; a KLAST beyond the pass depth, which R142 does not list as malformed,
cuts nothing off the last pass (log 150). -/
def PackP.depth (q : PackP) (c : PClass) : Nat := (q.npass - 1) * c.depth + min q.klast c.depth

/-- Frame of a frame-store address. -/
def frameOfAddr (a : Nat) : Nat := (a - storeBase) / 0x400000

/-- Window offset of a frame-store address. -/
def offOfAddr (a : Nat) : Nat := (a - storeBase) % 0x400000

/-- A FEED or WEIGHTS destination of `len` bytes is out of place (R142). -/
def badPackDst (nv : NonVol) (dst len : Nat) : Bool :=
  decide (dst < storeBase) || decide (nv.frames ≤ frameOfAddr dst) || decide (dst % 64 ≠ 0) || !inStore (offOfAddr dst) len

/-- A reserved bit of the descriptor is not 0 (R10, R11, Tables 4-7 and 4-8; log 51). -/
def xferReserved (w : List W64) : Bool :=
  let g := fun k hi lo => decide (fld (wordAt w k) hi lo ≠ 0)
  let kind := (xferFields w).kind
  g 0 63 52 || g 1 63 48 || g 2 63 44 || g 6 63 15 || g 7 63 0 ||
  (match kind with
   | 0 => g 4 63 0
   | 1 | 2 => g 4 63 22
   | 3 => g 4 63 48
   | 4 => g 4 63 33
   | _ => false) ||
  (decide (kind ≠ 3) && g 5 63 0)

/-- A transfer descriptor is malformed (R11, R142). -/
def State.badXfer (s : State) (f : Nat) (w : List W64) : Bool :=
  let x := xferFields w
  let q := packFields x
  xferReserved w || decide (5 < x.kind) ||
  (decide (x.kind = 3) || decide (x.kind = 4)) && (match q.cls with
    | none => true
    | some c =>
      !packClassOk q.fmt c ||
      badPackDst s.nv x.dst (if x.kind = 3 then q.feedBytes c else q.npass * statBlockBytes q.fmt c)) ||
  (x.sen && !(decide (x.sframe < s.nv.frames) && decide (s.regionOfFrame x.sframe = s.regionOfFrame f)))

/-! ## Malformed jobs (R85, R97, R153, R154, R157, R171) -/

/-- The partial list of a program that combines partials is malformed (R171). -/
def ParamP.badPlist (q : ParamP) (f : Nat) : Bool :=
  let xs := q.plist.take q.npart
  !((xs.zip (xs.drop 1)).all fun p => decide (p.1.1 < p.2.1)) || !(xs.any fun p => decide (p.1 = f)) ||
  xs.any fun p => decide (p.2 % 64 ≠ 0)

/-- A tile job descriptor is malformed (R11, R85, R97, R153, R154, R171; a malformed chain program, R157: log 29). -/
def Frame.badJob (fr : Frame) (f : Nat) (w : List W64) (q : ParamP) : Bool :=
  let j := jobFields w
  let prog := fr.program j
  jobReserved w || j.badOperands || decide (512 < j.cstart + j.clen) || decide (j.pblk % 64 ≠ 0) || !inStore j.pblk 256 ||
  chainBad prog ||
  (prog.any (fun c => decide (c.op = 0x09)) && (decide (q.rowmap % 64 ≠ 0) || !inStore q.rowmap 512)) ||
  (prog.any (fun c => decide (c.op = 0x0D)) && q.badPlist f) ||
  (q.cren && (decide (q.crec % 16 ≠ 0) || !inStore q.crec 16))

/-! ## Attention descriptors in force (Table 7-1, R213, R243) -/

/-- Rectangle of engine e in a descriptor: its two corners, where its ENG bit is set (Table 7-1). -/
def attRect (d : List W64) (e : Nat) : Option (Nat × Nat) :=
  if bitAt (wordAt d 1) (32 + e) then
    let w := wordAt d (if e < 2 then 9 else 10)
    let lo := 18 * (e % 2)
    some (fld w (lo + 8) lo, fld w (lo + 17) (lo + 9))
  else none

/-- Frames of a descriptor's rectangles, engine by engine. -/
def attFramesOf (nv : NonVol) (w : List W64) : List Nat :=
  ((List.range 4).filterMap fun e => attRect w e).flatMap fun x => rectFrames nv x.1 x.2

/-- The engines and rectangles of a sampler descriptor, laid out as Table 7-1 has them. -/
def sampRects (w : List W64) : List W64 :=
  [0, BitVec.ofNat 64 (fld (wordAt w 0) 20 17 * 2 ^ 32), 0, 0, 0, 0, 0, 0, 0, wordAt w 3, wordAt w 4]

/-- A slot's sampler run. -/
def Region.samp (r : Region) (slot : Nat) : SampRun := if slot = 0 then r.samp0 else r.samp1

/-- Frames of the rectangles of every attention descriptor in course and of every sampler run, with region and descriptor (R213, R243,
R325). -/
def State.attFrames (s : State) : List (Nat × Nat × Nat) :=
  (List.range 4).flatMap fun n =>
    match (s.region n).image with
    | none => []
    | some im =>
      ((s.region n).att.flatMap fun run =>
        if run.phase = .running then (attFramesOf s.nv (im.attention.getD run.desc [])).map fun f => (f, n, run.desc) else []) ++
      (List.range 2).flatMap fun k =>
        if ((s.region n).samp k).phase = .running then
          (attFramesOf s.nv (sampRects (im.sampler.getD k []))).map fun f => (f, n, sampOwner k)
        else []

/-! ## Acceptance -/

/-- The deck queue takes a program's job: it has a free entry, and no engine holds it (R86, R213). -/
def Frame.deckRoom (fr : Frame) : Bool := decide (fr.deckQueue.length < 4) && fr.attOwner.isNone

/-- The program queue of the frame DMA engine has a free entry (R139). -/
def Frame.dmaRoom (fr : Frame) : Bool := decide (fr.dmaQueue.length < 16)

/-- Bytes of frame f's store as the device reads them to accept a job or transfer for the region that holds the frame (R144, R434). -/
def State.takeBytes (s : State) (f off n : Nat) : List Byte × State :=
  s.readRaced (.unit ((s.regionOfFrame f).getD 0)) (storeAddr f off) n

/-- Take an MJOB whose queue has room: the descriptor with its parameter block and row map is read, and the job is appended
under the next sequence number, which s_d receives; or the descriptor is malformed and the context faults (R135, R136, R144,
R154, R434). -/
def State.acceptJob (s : State) (w : ThreadId) (c : Ctx) (i : Insn) : State :=
  let f := w.frame.val
  let off := (c.getS i.a).toNat
  let fr := s.frame f
  if off % 64 ≠ 0 ∨ storeSize < off + 64 then s.programFault w c.pc .deckMalformed off
  else
    let d := s.takeBytes f off 64
    let words := wordsOf 8 d.1
    let j := jobFields words
    let p := if inStore j.pblk 256 then d.2.takeBytes f j.pblk 256 else ([], d.2)
    let q := paramFields p.1
    let s := p.2
    if fr.badJob f words q then s.programFault w c.pc .deckMalformed off
    else
      let seq := fr.jobSeq + 1
      let m := if (fr.program j).any (fun c => decide (c.op = 0x09)) then s.takeBytes f q.rowmap 512 else ([], s)
      let s := m.2
      let job : Job := {
        seq := seq, stamp := s.stamp, who := w, pc := c.pc, words := words, params := p.1,
        seed := c.srseed, stores := fr.storesOf j q,
        rowmap := if m.1 = [] then [] else wordsOf 64 m.1 }
      (({ s with stamp := s.stamp + 1 }.orderStores w false seq).modFrame f fun fr =>
        { fr with deckQueue := fr.deckQueue ++ [job], jobSeq := seq }).retire w
        (c.setS i.d (seq.setWidth 64))

/-- Take a DMA whose queue has room (R139, R144, R434). -/
def State.acceptXfer (s : State) (w : ThreadId) (c : Ctx) (i : Insn) : State :=
  let f := w.frame.val
  let off := (c.getS i.a).toNat
  let fr := s.frame f
  if off % 64 ≠ 0 ∨ storeSize < off + 64 then s.programFault w c.pc .dmaMalformed off
  else
    let d := s.takeBytes f off 64
    let words := wordsOf 8 d.1
    let s := d.2
    if s.badXfer f words then s.programFault w c.pc .dmaMalformed off
    else
      let seq := fr.dmaSeq + 1
      let t : Xfer := { seq := seq, stamp := s.stamp, who := w, pc := c.pc, words := words, attAt := s.attFrames }
      (({ s with stamp := s.stamp + 1 }.orderStores w true seq).modFrame f fun fr =>
        { fr with dmaQueue := fr.dmaQueue ++ [t], dmaSeq := seq }).retire w
        (c.setS i.d (seq.setWidth 64))

/-- An MJOB or DMA that found its queue full is taken once an entry is free; until then the context stalls in it (R135,
R139, R213). -/
def State.takeOrStall (s : State) (w : ThreadId) (c : Ctx) (dma : Bool) (i : Insn) : State :=
  let fr := s.frame w.frame.val
  if dma then (if fr.dmaRoom then s.acceptXfer w { c with run := .running } i else s.setCtx w { c with run := .stalled true i })
  else if fr.deckRoom then s.acceptJob w { c with run := .running } i
  else s.setCtx w { c with run := .stalled false i }

end Sys2Proof.Machine
end

