-- ==== Sys2Proof/Machine/Flags.lean ====
section
/-! DEFINITION. FPSR and the frame counters (04: Table 4-1; 02: R69, R70, R75, R76). -/

namespace Sys2Proof.Machine

/-- Raise sticky flags (R69). -/
def Ctx.raise (c : Ctx) (fl : Nat) : Ctx := { c with fpsr := c.fpsr ||| BitVec.ofNat 5 fl }

/-- All flags of a list of results. -/
def orFlags : List Nat → Nat
  | [] => 0
  | x :: r => x ||| orFlags r

/-- Count crushed and overflowed elements in a frame's counters, which saturate (R54, R64, R75). -/
def State.countFrame (s : State) (f crush ovf : Nat) : State :=
  if crush = 0 ∧ ovf = 0 then s
  else s.modFrame f fun x => { x with crush := satAdd x.crush crush, ovf := satAdd x.ovf ovf }

/-- The rounding mode in FPCR. -/
def Ctx.rm (c : Ctx) : RMode := rmOf c.fpcr.toNat

end Sys2Proof.Machine
end

