-- ==== Sys2Proof/Machine/Scalar.lean ====
section
/-! DEFINITION. The scalar and branch classes (04: R121, R122, R127, R130, R148). Each instruction is one function of its
operands over a shared form. -/

namespace Sys2Proof.Machine

/-! ## Shared forms -/

/-- The rows of Table 4-4: class and operation that some row has. -/
def opKnown (cls op : Nat) : Bool :=
  match cls with
  | 0 => decide (op ≤ 0x09) || (decide (0x10 ≤ op) && decide (op ≤ 0x1A)) || (decide (0x20 ≤ op) && decide (op ≤ 0x26)) ||
      (decide (0x40 ≤ op) && decide (op ≤ 0x47))
  | 1 => decide (op ≤ 5) || [8, 9, 15].contains op
  | 2 => decide (op ≤ 0x14) || [0x18, 0x19].contains op
  | 3 => decide (op ≤ 3) || (decide (8 ≤ op) && decide (op ≤ 0xC))
  | 4 => decide (op ≤ 2)
  | 5 | 6 => decide (op = 0)
  | 7 => decide (op ≤ 6)
  | 8 => decide (op ≤ 7)
  | _ => false

/-- Form of an instruction with two sources and a destination. -/
def formDAB : Form := { d := true, a := true, b := true }

/-- Form of an instruction with a source, an immediate and a destination. -/
def formDAI : Form := { d := true, a := true, imm := true }

/-- s_d := f s_a s_b. -/
def scalarRR (s : State) (w : ThreadId) (i : Insn) (f : W64 → W64 → W64) : Host.Outcome State Fault Refusal :=
  s.issue w (formDAB.fits i) false fun c => s.retire w (c.setS i.d (f (c.getS i.a) (c.getS i.b)))

/-- s_d := f s_a IMM. -/
def scalarRI (s : State) (w : ThreadId) (i : Insn) (f : W64 → W64 → W64) : Host.Outcome State Fault Refusal :=
  s.issue w (formDAI.fits i) false fun c => s.retire w (c.setS i.d (f (c.getS i.a) (simm i)))

/-- 1 or 0 as a word. -/
def boolWord (b : Bool) : W64 := if b then 1 else 0

/-- Shift left; by 64 or more the result is free (log 18). -/
def shl64 (a b : W64) : W64 := if b.toNat < 64 then a <<< b.toNat else Config.wideShift 0 a b

/-- Logical shift right; by 64 or more the result is free (log 18). -/
def shr64 (a b : W64) : W64 := if b.toNat < 64 then a >>> b.toNat else Config.wideShift 1 a b

/-- Arithmetic shift right; by 64 or more the result is free (log 18). -/
def sra64 (a b : W64) : W64 := if b.toNat < 64 then a.sshiftRight b.toNat else Config.wideShift 2 a b

/-- Signed quotient, truncated (log 19); by 0 all ones; −2^63 by −1 is free (log 19). -/
def div64 (a b : W64) : W64 :=
  if b = 0 then BitVec.allOnes 64
  else if a = BitVec.intMin 64 ∧ b = BitVec.allOnes 64 then Config.divOverflow
  else a.sdiv b

/-- Signed remainder of the truncated quotient (log 19); by 0 the dividend. -/
def rem64 (a b : W64) : W64 := if b = 0 then a else a.srem b

/-- Unsigned quotient; by 0 all ones. -/
def divu64 (a b : W64) : W64 := if b = 0 then BitVec.allOnes 64 else a / b

/-- Unsigned remainder; by 0 the dividend. -/
def remu64 (a b : W64) : W64 := if b = 0 then a else a % b

/-- High half of the signed product. -/
def mulh64 (a b : W64) : W64 := BitVec.ofInt 64 (a.toInt * b.toInt / 2 ^ 64)

/-- High half of the unsigned product. -/
def mulhu64 (a b : W64) : W64 := BitVec.ofNat 64 (a.toNat * b.toNat / 2 ^ 64)

/-! ## Arithmetic -/

/-- ADD. A word with a reserved CLASS or OP is malformed (R127); one with another row's is a command of that row. -/
def execAdd (who : ThreadId) (cls : BitVec 4) (op : BitVec 9) (i : Insn) (s : State) : Host.Outcome State Fault Refusal :=
  if cls = 0 ∧ op = 0 then scalarRR s who i (fun a b => a + b)
  else if opKnown cls.toNat op.toNat then .refused .otherRow
  else s.issue who false false fun _ => s


/-- SUB. -/
def execSub (who : ThreadId) (i : Insn) (s : State) : Host.Outcome State Fault Refusal := scalarRR s who i (fun a b => a - b)

/-- AND. -/
def execAnd (who : ThreadId) (i : Insn) (s : State) : Host.Outcome State Fault Refusal := scalarRR s who i (fun a b => a &&& b)

/-- OR. -/
def execOr (who : ThreadId) (i : Insn) (s : State) : Host.Outcome State Fault Refusal := scalarRR s who i (fun a b => a ||| b)

/-- XOR. -/
def execXor (who : ThreadId) (i : Insn) (s : State) : Host.Outcome State Fault Refusal := scalarRR s who i (fun a b => a ^^^ b)

/-- SHL. -/
def execShl (who : ThreadId) (i : Insn) (s : State) : Host.Outcome State Fault Refusal := scalarRR s who i shl64

/-- SHR. -/
def execShr (who : ThreadId) (i : Insn) (s : State) : Host.Outcome State Fault Refusal := scalarRR s who i shr64

/-- SRA. -/
def execSra (who : ThreadId) (i : Insn) (s : State) : Host.Outcome State Fault Refusal := scalarRR s who i sra64

/-- SLT, signed. -/
def execSlt (who : ThreadId) (i : Insn) (s : State) : Host.Outcome State Fault Refusal := scalarRR s who i (fun a b => boolWord (a.slt b))

/-- SLTU, unsigned. -/
def execSltu (who : ThreadId) (i : Insn) (s : State) : Host.Outcome State Fault Refusal := scalarRR s who i (fun a b => boolWord (a.ult b))

/-- The operation of the k-th immediate form: ADDI, SUBI, ANDI, ORI, XORI, SHLI, SHRI, SRAI, SLTI. -/
def immOp (k : Fin 9) : W64 → W64 → W64 :=
  match k.val with
  | 0 => fun a b => a + b
  | 1 => fun a b => a - b
  | 2 => fun a b => a &&& b
  | 3 => fun a b => a ||| b
  | 4 => fun a b => a ^^^ b
  | 5 => shl64
  | 6 => shr64
  | 7 => sra64
  | _ => fun a b => boolWord (a.slt b)

/-- ADDI and the other immediate forms up to SLTI. -/
def execAddi (who : ThreadId) (k : Fin 9) (i : Insn) (s : State) : Host.Outcome State Fault Refusal :=
  scalarRI s who i (immOp k)

/-- SLTUI. -/
def execSltui (who : ThreadId) (i : Insn) (s : State) : Host.Outcome State Fault Refusal :=
  scalarRI s who i (fun a b => boolWord (a.ult b))

/-- LUI: s_d := IMM × 2^22. -/
def execLui (who : ThreadId) (i : Insn) (s : State) : Host.Outcome State Fault Refusal :=
  s.issue who (({ d := true, imm := true } : Form).fits i) false fun c => s.retire who (c.setS i.d (simm i <<< 22))


/-- MUL: low 64 bits of the product. -/
def execMul (who : ThreadId) (i : Insn) (s : State) : Host.Outcome State Fault Refusal := scalarRR s who i (fun a b => a * b)

/-- MULH: signed high half. -/
def execMulh (who : ThreadId) (i : Insn) (s : State) : Host.Outcome State Fault Refusal := scalarRR s who i mulh64

/-- MULHU: unsigned high half. -/
def execMulhu (who : ThreadId) (i : Insn) (s : State) : Host.Outcome State Fault Refusal := scalarRR s who i mulhu64

/-- DIV. -/
def execDiv (who : ThreadId) (i : Insn) (s : State) : Host.Outcome State Fault Refusal := scalarRR s who i div64

/-- DIVU. -/
def execDivu (who : ThreadId) (i : Insn) (s : State) : Host.Outcome State Fault Refusal := scalarRR s who i divu64

/-- REM. -/
def execRem (who : ThreadId) (i : Insn) (s : State) : Host.Outcome State Fault Refusal := scalarRR s who i rem64

/-- REMU. -/
def execRemu (who : ThreadId) (i : Insn) (s : State) : Host.Outcome State Fault Refusal := scalarRR s who i remu64

/-! ## Loads and stores (R121, R122, R113) -/

/-- LD1, LD2, LD4, LD8 (k = 0 to 3): zero-extended bytes at s_a + IMM. -/
def execLd1 (who : ThreadId) (k : Fin 4) (i : Insn) (s : State) : Host.Outcome State Fault Refusal :=
  s.issue who (formDAI.fits i) false fun c =>
    let off := (c.getS i.a + simm i).toNat
    let n := 2 ^ k.val
    match accessFault off n n with
    | some code => s.programFault who c.pc code off
    | none => let x := s.loadBy who off n; x.2.retire who (c.setS i.d (BitVec.ofNat 64 x.1))

/-- ST1, ST2, ST4, ST8 (k = 0 to 3): low bytes of s_b at s_a + IMM; an overlap with a job's read ranges is not performed
(R113). -/
def execSt1 (who : ThreadId) (k : Fin 4) (i : Insn) (s : State) : Host.Outcome State Fault Refusal :=
  s.issue who (({ a := true, b := true, imm := true } : Form).fits i) false fun c =>
    let off := (c.getS i.a + simm i).toNat
    let n := 2 ^ k.val
    match s.storeFault who.frame.val off n n with
    | some code => s.programFault who c.pc code off
    | none => (s.storeBy who off n (c.getS i.b).toNat).retire who c

/-! ## Branches -/

/-- The condition of the k-th branch: BEQ, BNE, BLT, BGE, BLTU, BGEU. -/
def branchCond (k : Fin 6) (a b : W64) : Bool :=
  match k.val with
  | 0 => decide (a = b)
  | 1 => decide (a ≠ b)
  | 2 => a.slt b
  | 3 => !a.slt b
  | 4 => a.ult b
  | _ => !a.ult b

/-- Go to a jump target; where one that is not a multiple of 8 goes is left open by R115 (log 20). -/
def State.jumpTo (s : State) (w : ThreadId) (c : Ctx) (t : W64) : State :=
  s.goTo w c (if t.toNat % 8 = 0 then t else Config.misalignedTarget t)

/-- BEQ, BNE, BLT, BGE, BLTU, BGEU: if s_a cond s_b then pc := pc + IMM × 8. -/
def execBeq (who : ThreadId) (k : Fin 6) (i : Insn) (s : State) : Host.Outcome State Fault Refusal :=
  s.issue who (({ a := true, b := true, imm := true } : Form).fits i) false fun c =>
    if branchCond k (c.getS i.a) (c.getS i.b) then s.jumpTo who c (c.pc + simm i * 8) else s.retire who c

/-- JAL: s_d := pc + 8; pc := pc + IMM × 8. -/
def execJal (who : ThreadId) (i : Insn) (s : State) : Host.Outcome State Fault Refusal :=
  s.issue who (({ d := true, imm := true } : Form).fits i) false fun c =>
    s.jumpTo who (c.setS i.d (c.pc + 8)) (c.pc + simm i * 8)

/-- JR: pc := s_a + IMM × 8. -/
def execJr (who : ThreadId) (i : Insn) (s : State) : Host.Outcome State Fault Refusal :=
  s.issue who (({ a := true, imm := true } : Form).fits i) false fun c =>
    s.jumpTo who c (c.getS i.a + simm i * 8)

/-- HALT: the context ends its part of the step (R148). -/
def execHalt (who : ThreadId) (i : Insn) (s : State) : Host.Outcome State Fault Refusal :=
  s.issue who (({ } : Form).fits i) false fun c => (s.setCtx who { c with run := .halted }).checkPart who.frame.val

end Sys2Proof.Machine
end

