-- ==== Sys2Proof/Machine/Sync.lean ====
section
/-! DEFINITION. The sync and system classes (04: R137, R143 to R146, R130; 02: R75, R76). -/

namespace Sys2Proof.Machine

/-! ## Conditions of the waits (Table 4-9) -/

/-- Sequence number `a` has been accepted, or lies so far behind that a wait on it completes at once (R137). -/
def seqAccepted (a latest : W32) : Bool := !seqEarlier latest a

/-- Job `j` is job `a` or an earlier one. -/
def upTo (a j : W32) : Bool := decide (j = a) || seqEarlier j a

/-- Every job up to `a` has read its last operand byte: it has started, and its chain program's reads are past (R143,
R166). -/
def Frame.readOut (fr : Frame) (f : Nat) (a : W32) : Bool :=
  seqAccepted a fr.jobSeq && !(fr.deckQueue.any fun j => upTo a j.seq) &&
  !((fr.inFlight ++ fr.waiting).any fun j => upTo a j.seq && !(fr.chainRanges f j).isEmpty)

/-- Every job up to `a` has delivered its tile and finished its chain program; a provisional job has not (R176). -/
def Frame.jobsDone (fr : Frame) (a : W32) : Bool :=
  seqAccepted a fr.jobSeq &&
  !((fr.deckQueue ++ fr.inFlight ++ fr.waiting ++ fr.delivered ++ fr.heldJobs).any fun j => upTo a j.seq)

/-- Transfer `a` has completed. -/
def Frame.xferDone (fr : Frame) (a : W32) : Bool :=
  seqAccepted a fr.dmaSeq && !((fr.dmaQueue ++ fr.dmaActive).any fun t => t.att.isNone && upTo a t.seq)

/-- Signal counter `k` of a frame. -/
def Frame.counter (fr : Frame) (k : Nat) : W32 := smGet 0 fr.sig k

/-- Whether a wait's condition holds; a barrier's is decided by its last arrival. -/
def Frame.waitHolds (fr : Frame) (f : Nat) : SyncWait → Bool
  | .bar _ => false
  | .fencej a => fr.readOut f a
  | .waitj a => fr.jobsDone a
  | .waitd a => fr.xferDone a
  | .waits k v => decide (v.toNat ≤ (fr.counter k.val).toNat)

/-- The later of two sequence numbers. -/
def seqMax (a b : W32) : W32 := if seqEarlier a b then b else a

/-- A noted store of frame f came before transfers of its context that have incremented counter k of the frame, and without their
increments the counter would stand below v: a wait for v has waited for the completion of one of them (R125, log 210). -/
def State.signalled (s : State) (f k : Nat) (v : W64) (e : Race) : Bool :=
  decide (((s.frame f).counter k).toNat < v.toNat + e.signals.count k)

/-- What a wait of context `me` that completes leaves: a FENCEJ records that its jobs are read out (R113, R143); a wait for a
job or transfer, or for a count that transfers have brought about, makes the stores of its frame that were before it visible to
the context (R125). -/
def State.noteWait (s : State) (me : ThreadId) (x : SyncWait) : State :=
  let f := me.frame.val
  match x with
  | .bar _ => s
  | .fencej a => if seqAccepted a (s.frame f).jobSeq then s.modFrame f fun fr => { fr with readDone := seqMax fr.readDone a } else s
  | .waitj a => s.reveal [me] fun e => e.ofFrame f && (match e.job with | some j => upTo a j | none => false)
  | .waitd a => s.reveal [me] fun e => e.ofFrame f && (match e.xfer with | some t => upTo a t | none => false)
  | .waits k v => s.reveal [me] fun e => e.ofFrame f && s.signalled f k.val v e

/-- Core and context of a slot number. -/
def threadOf (f : Fin 384) (k : Nat) : ThreadId :=
  { frame := f, core := ⟨k / 16 % 4, Nat.mod_lt _ (by decide)⟩, ctx := ⟨k % 16, Nat.mod_lt _ (by decide)⟩ }

/-- Release one blocked context whose condition holds, or let one that stalls take its MJOB or DMA. -/
def State.wakeOne (s : State) (f : Fin 384) (k : Nat) : State :=
  let w := threadOf f k
  let c := s.ctx w
  match c.run with
  | .blocked x =>
    if (s.frame f.val).waitHolds f.val x then
      (s.noteWait w x).retire w { c with run := .running }
    else s
  | .stalled dma i => s.takeOrStall w c dma i
  | _ => s

/-- Release every blocked or stalled context of a frame whose condition holds, in core order, then context order (R136,
R143). -/
def State.wakeFrame (s : State) (f : Nat) : State :=
  if h : f < 384 then (List.range 64).foldl (fun s k => s.wakeOne ⟨f, h⟩ k) s else s

/-- Add to a signal counter, modulo 2^32, and release the contexts that waited for it (R146). -/
def State.addSignal (s : State) (f k n : Nat) : State :=
  (s.modFrame f fun fr => { fr with sig := smSet 0 fr.sig k (fr.counter k + BitVec.ofNat 32 n) }).wakeFrame f

/-- A noted write is of a context's, and from before its transfer `seq`. -/
def Race.precedes (e : Race) (who : ThreadId) (seq : W32) : Bool :=
  decide (e.writer = .context who) && (match e.xfer with | some t => upTo seq t | none => false)

/-- A transfer of frame f has completed and increments a counter: the stores of its context that were before it note that, where the
counter is the frame's own (R125, R146). -/
def State.noteSignal (s : State) (f : Nat) (who : ThreadId) (seq : W32) (sframe k : Nat) : State :=
  if sframe ≠ f then s
  else { s with races := s.races.map fun e => if e.precedes who seq then { e with signals := k :: e.signals } else e }

/-! ## Sync instructions -/

/-- Block in a sync instruction, or go on where its condition holds already (R143). -/
def State.waitOr (s : State) (w : ThreadId) (c : Ctx) (x : SyncWait) : State :=
  if (s.frame w.frame.val).waitHolds w.frame.val x then (s.noteWait w x).retire w c
  else s.setCtx w { c with run := .blocked x }

/-- Release the participants of a barrier: each goes on at its next instruction; one whose region has stopped meanwhile, a
participant before it having run past the instruction store, stays stopped there (R149). -/
def releaseBar (f : Fin 384) (s : State) : List (Nat × Nat) → State
  | [] => s
  | (core, ctx) :: r =>
    let w := threadOf f (core * 16 + ctx)
    let c := s.ctx w
    releaseBar f (if c.run = .stopped then s.setCtx w { c with pc := c.pc + 8 } else s.retire w { c with run := .running }) r

/-- A barrier that all have reached makes every participant's stores visible to every participant (R125, R143). -/
def State.noteBar (s : State) (f : Fin 384) (ps : List (Nat × Nat)) : State :=
  let ws := ps.map fun p => threadOf f (p.1 * 16 + p.2)
  s.reveal ws fun e => match e.writer with | .context w => ws.contains w | _ => false

/-- BAR: IMM[10:4] contexts meet at barrier IMM[3:0] (R143, R145). -/
def execBar (who : ThreadId) (i : Insn) (s : State) : Host.Outcome State Fault Refusal :=
  let n := fld i.imm 10 4
  let b := fld i.imm 3 0
  s.issue who (({ imm := true } : Form).fits i && decide (i.imm.toNat < 2048) && decide (1 ≤ n) && decide (n ≤ 64)) false
    fun c =>
    let cur := smGet (0, []) (s.frame who.frame.val).bars b
    if cur.1 ≠ 0 ∧ cur.1 ≠ n then s.programFault who c.pc .barrierMismatch 0
    else
      let arrived := cur.2 ++ [(who.core.val, who.ctx.val)]
      let set := fun (s : State) (x : Nat × List (Nat × Nat)) =>
        s.modFrame who.frame.val fun fr => { fr with bars := smSet (0, []) fr.bars b x }
      if arrived.length = n then
        releaseBar who.frame ((set s (0, [])).noteBar who.frame arrived) arrived
      else (set s (n, arrived)).setCtx who { c with run := .blocked (.bar ⟨b % 16, Nat.mod_lt _ (by decide)⟩) }

/-- FENCES: each command is one whole step, so every earlier store of the context is performed (log 12). -/
def execFences (who : ThreadId) (i : Insn) (s : State) : Host.Outcome State Fault Refusal :=
  s.issue who (({ } : Form).fits i) false fun c => s.retire who c

/-- Form of a wait on s_a. -/
def formA : Form := { a := true }

/-- The low 32 bits of s_a: a sequence number (R137). -/
def seqOf (c : Ctx) (i : Insn) : W32 := (c.getS i.a).setWidth 32

/-- FENCEJ: job s_a and every earlier one has read its last operand byte. -/
def execFencej (who : ThreadId) (i : Insn) (s : State) : Host.Outcome State Fault Refusal :=
  s.issue who (formA.fits i) false fun c => s.waitOr who c (.fencej (seqOf c i))

/-- WAITJ: job s_a and every earlier one has finished its chain program. -/
def execWaitj (who : ThreadId) (i : Insn) (s : State) : Host.Outcome State Fault Refusal :=
  s.issue who (formA.fits i) false fun c => s.waitOr who c (.waitj (seqOf c i))

/-- WAITD: transfer s_a has completed. -/
def execWaitd (who : ThreadId) (i : Insn) (s : State) : Host.Outcome State Fault Refusal :=
  s.issue who (formA.fits i) false fun c => s.waitOr who c (.waitd (seqOf c i))

/-- Form of an instruction that names a signal counter in IMM[4:0]. -/
def counterForm (i : Insn) : Bool := ({ a := true, imm := true } : Form).fits i && decide (i.imm.toNat < 32)

/-- WAITS: signal counter IMM[4:0] is at least s_a, unsigned. -/
def execWaits (who : ThreadId) (i : Insn) (s : State) : Host.Outcome State Fault Refusal :=
  s.issue who (counterForm i) false fun c =>
    s.waitOr who c (.waits ⟨i.imm.toNat % 32, Nat.mod_lt _ (by decide)⟩ (c.getS i.a))

/-- SIGADD: adds s_a to signal counter IMM[4:0] of the frame. -/
def execSigadd (who : ThreadId) (i : Insn) (s : State) : Host.Outcome State Fault Refusal :=
  s.issue who (counterForm i) false fun c =>
    (s.retire who c).addSignal who.frame.val (i.imm.toNat % 32) ((c.getS i.a).toNat % 2 ^ 32)

/-! ## System instructions -/

/-- The counter that IMM names: 0 crush, 1 overflow. -/
def frameCounter (fr : Frame) (i : Insn) : W32 := if i.imm = 0 then fr.crush else fr.ovf

/-- Form of RDCNT and RCCNT. -/
def cntForm (i : Insn) : Bool := ({ d := true, imm := true, v := true } : Form).fits i && decide (i.imm.toNat < 2)

/-- RDCNT: s_d := a frame counter. -/
def execRdcnt (who : ThreadId) (i : Insn) (s : State) : Host.Outcome State Fault Refusal :=
  s.issue who (cntForm i) true fun c =>
    s.retire who (c.setS i.d ((frameCounter (s.frame who.frame.val) i).setWidth 64))

/-- RCCNT: s_d := a frame counter, which it clears (R76). -/
def execRccnt (who : ThreadId) (i : Insn) (s : State) : Host.Outcome State Fault Refusal :=
  s.issue who (cntForm i) true fun c =>
    (s.modFrame who.frame.val fun fr => if i.imm = 0 then { fr with crush := 0 } else { fr with ovf := 0 }).retire who
      (c.setS i.d ((frameCounter (s.frame who.frame.val) i).setWidth 64))

/-- RDFPSR: s_d := FPSR. -/
def execRdfpsr (who : ThreadId) (i : Insn) (s : State) : Host.Outcome State Fault Refusal :=
  s.issue who (({ d := true } : Form).fits i) false fun c => s.retire who (c.setS i.d (c.fpsr.setWidth 64))

/-- WRFPSR: FPSR := s_a. -/
def execWrfpsr (who : ThreadId) (i : Insn) (s : State) : Host.Outcome State Fault Refusal :=
  s.issue who (formA.fits i) false fun c => s.retire who { c with fpsr := (c.getS i.a).setWidth 5 }

/-- WRFPCR: FPCR := s_a. The dynamic mode stays one of the five IEEE modes (R50); which one a value above 4 leaves is open
(log 27). -/
def execWrfpcr (who : ThreadId) (i : Insn) (s : State) : Host.Outcome State Fault Refusal :=
  s.issue who (formA.fits i) false fun c =>
    let v := (c.getS i.a).toNat % 8
    s.retire who { c with fpcr := BitVec.ofNat 3 (if v < 5 then v else Config.reservedMode (c.getS i.a) % 5) }

/-- SETSEED: SRSEED := s_a; SRSEQ := s_b[31:0]. -/
def execSetseed (who : ThreadId) (i : Insn) (s : State) : Host.Outcome State Fault Refusal :=
  s.issue who (({ a := true, b := true } : Form).fits i) false fun c =>
    s.retire who { c with srseed := c.getS i.a, srseq := (c.getS i.b).setWidth 32 }

/-- RDTID: s_d := thread number (R119). -/
def execRdtid (who : ThreadId) (i : Insn) (s : State) : Host.Outcome State Fault Refusal :=
  s.issue who (({ d := true } : Form).fits i) false fun c => s.retire who (c.setS i.d (BitVec.ofNat 64 (threadNo who)))

/-- RDGC: s_d := global counter. -/
def execRdgc (who : ThreadId) (i : Insn) (s : State) : Host.Outcome State Fault Refusal :=
  s.issue who (({ d := true, v := true } : Form).fits i) true fun c => s.retire who (c.setS i.d s.gc)

end Sys2Proof.Machine
end

