-- ==== Sys2Proof/Machine/Dma.lean ====
section
/-! DEFINITION. The frame DMA engine (04: R139 to R142, R144, R146; 03: R94 to R96, R112): descriptors, the addresses a
transfer touches, what it writes, and its acceptance, start and completion. -/

namespace Sys2Proof.Machine

/-! ## What a transfer touches -/

/-- Index list entry i of a GATHER or SCATTER. -/
def State.xferIndex (s : State) (f : Nat) (x : XferP) (i : Nat) : Nat :=
  readLe s.mem (storeAddr f (bitsOf x.arg0 21 0 + 4 * i)) 4

/-- Ranges that a transfer reads (Table 4-8). -/
def State.xferReads (s : State) (f : Nat) (x : XferP) : List (Nat × Nat) :=
  let q := packFields x
  let c := q.cls.getD .eight
  match x.kind with
  | 0 => (List.range x.nrows).map fun i => (strided x.src x.sstride i, x.rowbytes)
  | 1 => (storeAddr f (bitsOf x.arg0 21 0), 4 * x.nrows) ::
      (List.range x.nrows).map fun i => (strided x.src x.sstride (s.xferIndex f x i), x.rowbytes)
  | 2 => (storeAddr f (bitsOf x.arg0 21 0), 4 * x.nrows) ::
      (List.range x.nrows).map fun i => (strided x.src x.sstride i, x.rowbytes)
  | 3 => ((List.range 64).filter fun m => x.arg1.testBit m).map fun m =>
      (strided x.src x.sstride m, fmtBytes q.fmt (q.depth c))
  | 4 => (List.range q.ncol).map fun n => (strided x.src x.sstride n, fmtBytes q.fmt (q.depth c))
  | _ => []

/-- Ranges that a transfer writes (Table 4-8). -/
def State.xferWrites (s : State) (f : Nat) (x : XferP) : List (Nat × Nat) :=
  let q := packFields x
  let c := q.cls.getD .eight
  match x.kind with
  | 0 | 1 | 5 => (List.range x.nrows).map fun i => (strided x.dst x.dstride i, x.rowbytes)
  | 2 => (List.range x.nrows).map fun i => (strided x.dst x.dstride (s.xferIndex f x i), x.rowbytes)
  | 3 => (x.dst, q.feedBytes c) ::
      (if (blockFmt q.fmt).isSome then [(storeAddr (frameOfAddr x.dst) q.side, (64 * q.npass + 63) * 8)] else [])
  | 4 => [(x.dst, q.npass * statBlockBytes q.fmt c)]
  | _ => []

/-- The first address fault among ranges, for a region (R142, R197). -/
def State.rangeFault (s : State) (n : Nat) : List (Nat × Nat) → Option (FCode × Nat)
  | [] => none
  | (a, len) :: r =>
    match s.reachRange n a len with
    | .ok => s.rangeFault n r
    | .badAddress => some (.badAddress, a)
    | .regionEdge => some (.regionEdge, a)

/-! ## Lost granules (R199, R488) -/

/-- DATA_LOST of a step's reads, with the first lost granule that they meet (R488). -/
def State.lostRead (s : State) (n : Nat) (rs : List (Nat × Nat)) : Option (FCode × Nat) :=
  ((s.lostGranules n).find? fun g => anyMeet rs [g]).map fun g => (.other 0x1B, g.1)

/-- The first fault of a step's reads: an address fault, or DATA_LOST (R142, R488). -/
def State.readFault (s : State) (n : Nat) (rs : List (Nat × Nat)) : Option (FCode × Nat) :=
  (s.rangeFault n rs).or (s.lostRead n rs)

/-! ## What a transfer writes -/

/-- The code of depth k of a tensor row at `a` in a format. -/
def codeAt (m : List Host.Cell) (fmt a k : Nat) : Nat :=
  match blockFmt fmt with
  | some b => (blockElemAt m b a k).1
  | none => scalarElemAt m (fmtBits fmt) a k

/-- Scale byte of the block that holds depth k of a block-format row at `a`. -/
def scaleAt (m : List Host.Cell) (fmt a k : Nat) : Nat :=
  match blockFmt fmt with
  | some b => (blockElemAt m b a k).2.1
  | none => 0

/-- Offset byte of the block that holds depth k of a BD4 row at `a`. -/
def offsetAt (m : List Host.Cell) (fmt a k : Nat) : Nat :=
  match blockFmt fmt with
  | some b => (blockElemAt m b a k).2.2
  | none => 0

/-- Bead row of the first element of block b (R93). -/
def row0 (cl : PClass) (b : Nat) : Nat := if cl = .four then b * 16 else b * 32

/-- Feed word c as bytes (R94, Table 3-4) from the code of every row and depth position: lane d holds row c − d, 0 in
padding. -/
def feedWordOf (fmt : Nat) (cl : PClass) (npass : Nat) (code : Nat → Nat → Nat) (c : Nat) : List Byte :=
  let per := if cl = .four then 2 else 1
  leBytes (feedWordBytes fmt cl) (packCodes (fmtBits fmt) ((List.range 64).flatMap fun d => (List.range per).map fun t =>
    if c < d ∨ npass ≤ (c - d) / 64 then 0 else code ((c - d) % 64) ((c - d) / 64 * cl.depth + per * d + t)))

/-- A feed stream of R94. -/
def feedStreamOf (fmt : Nat) (cl : PClass) (npass : Nat) (code : Nat → Nat → Nat) : List Byte :=
  (List.range (64 * npass + 63)).flatMap (feedWordOf fmt cl npass code)

/-- The weight rows of the stationary block of pass p (R96) from the code of every column and depth position. -/
def statRowsOf (fmt : Nat) (cl : PClass) (p : Nat) (code : Nat → Nat → Nat) : List Byte :=
  (List.range cl.depth).flatMap fun k => leBytes (16 * fmtBits fmt)
    (packCodes (fmtBits fmt) ((List.range 128).map fun n => code n (p * cl.depth + k)))

/-- What a FEED transfer writes for a row and depth position: 0 in an unfed row; at or beyond KLAST in the last pass the content
is open, and free here (log 28). -/
def XferP.feedCode (x : XferP) (words : List W64) (q : PackP) (cl : PClass) (m : List Host.Cell) (row k : Nat) : Nat :=
  if !x.arg1.testBit row then 0
  else if (q.npass - 1) * cl.depth + q.klast ≤ k then Config.feedPad words row k % 2 ^ fmtBits q.fmt
  else codeAt m q.fmt (strided x.src x.sstride row) k

/-- Side word c (R95): scales in lanes 0 to 3, BD4 offsets in lanes 4 to 7. -/
def sideWord (m : List Host.Cell) (x : XferP) (q : PackP) (cl : PClass) (c : Nat) : List Byte :=
  (List.range 8).map fun lane =>
    let b := lane % 4
    let d := row0 cl b
    let row := (c - d) % 64
    let p := (c - d) / 64
    if cl.depth / 32 ≤ b ∨ c < d ∨ q.npass ≤ p ∨ !x.arg1.testBit row then 0
    else
      let a := strided x.src x.sstride row
      let k := p * cl.depth + 32 * b
      BitVec.ofNat 8 (if lane < 4 then scaleAt m q.fmt a k else offsetAt m q.fmt a k)

/-- The stationary block of pass p of a WEIGHTS transfer (R96), 0 in columns at or beyond NCOL and in depths at or beyond
KLAST. -/
def statBlock (m : List Host.Cell) (x : XferP) (q : PackP) (cl : PClass) (p : Nat) : List Byte :=
  let here := fun n k => decide (n < q.ncol) && decide (k < (q.npass - 1) * cl.depth + q.klast)
  let col := fun n => strided x.src x.sstride n
  let plane := fun (g : Nat → Nat → Nat) => (List.range (cl.depth / 32)).flatMap fun b => (List.range 128).map fun n =>
    BitVec.ofNat 8 (if here n (p * cl.depth + 32 * b) then g (col n) (p * cl.depth + 32 * b) else 0)
  statRowsOf q.fmt cl p (fun n k => if here n k then codeAt m q.fmt (col n) k else 0) ++
  (if (blockFmt q.fmt).isSome then plane (scaleAt m q.fmt) else []) ++
  (if q.fmt = 0x0F then plane (offsetAt m q.fmt) else [])

/-- The bytes a transfer writes, as address and bytes: every source byte is read before any is written (log 151). -/
def State.xferData (s : State) (f : Nat) (words : List W64) : List (Nat × List Byte) :=
  let x := xferFields words
  let q := packFields x
  let c := q.cls.getD .eight
  match x.kind with
  | 0 => (List.range x.nrows).map fun i =>
      (strided x.dst x.dstride i, readBytes s.mem (strided x.src x.sstride i) x.rowbytes)
  | 1 => (List.range x.nrows).map fun i =>
      (strided x.dst x.dstride i, readBytes s.mem (strided x.src x.sstride (s.xferIndex f x i)) x.rowbytes)
  | 2 => (List.range x.nrows).map fun i =>
      (strided x.dst x.dstride (s.xferIndex f x i), readBytes s.mem (strided x.src x.sstride i) x.rowbytes)
  | 3 => (x.dst, feedStreamOf q.fmt c q.npass (x.feedCode words q c s.mem)) ::
      (if (blockFmt q.fmt).isSome then
        [(storeAddr (frameOfAddr x.dst) q.side, (List.range (64 * q.npass + 63)).flatMap (sideWord s.mem x q c))]
       else [])
  | 4 => [(x.dst, (List.range q.npass).flatMap (statBlock s.mem x q c))]
  | _ => (List.range x.nrows).map fun i =>
      (strided x.dst x.dstride i,
        (List.range x.rowbytes).map fun k => BitVec.ofNat 8 (x.arg0 >>> (8 * (k % 8))))

/-! ## Order against the decks (R111, R112) -/

/-- Frames whose stores hold bytes of a list of writes. -/
def framesOfWrites (ws : List (Nat × List Byte)) : List Nat :=
  (ws.filterMap fun w => if storeBase ≤ w.1 then some (frameOfAddr w.1) else none).eraseDups

/-- Whether a job that frame f accepted before a write still reads bytes that the write would change (R112, R166, R213). -/
def Frame.stillReads (fr : Frame) (f stamp : Nat) (ws : List (Nat × List Byte)) : Bool :=
  let rs := ws.flatMap fun w => storeRange f w.1 w.2.length
  (fr.deckQueue.any fun j => decide (j.stamp < stamp) && anyMeet rs (j.deckRanges ++ fr.chainRanges f j)) ||
  ((fr.inFlight ++ fr.waiting).any fun j => decide (j.stamp < stamp) && anyMeet rs (fr.chainRanges f j))

/-- Whether some frame's earlier job still reads what a write accepted as number `stamp` would change (R112). -/
def State.writeHeld (s : State) (stamp : Nat) (ws : List (Nat × List Byte)) : Bool :=
  (framesOfWrites ws).any fun f => (s.frame f).stillReads f stamp ws

/-- Whether the write of a started transfer is held back: by an earlier job, or, of a block for a gang, by a copy still to be
taken of the block in the same buffer (R112, R223). -/
def State.holdsBack (s : State) (f : Nat) (t : Xfer) : Bool :=
  s.writeHeld t.stamp t.writes ||
  (match t.att with
   | some (.fetch j _ _) => (s.frame f).kvStaged.any fun x => decide (x.buf = j.buf)
   | some (.copy j _ _) => (s.frame f).kvStaged.any fun x => decide (x.buf = j.buf)
   | _ => false)

/-- Where a transfer writes, for the order of R111: a started one where its writes go, as they were read; of an engine's transfer,
the attention area that it writes into. -/
def State.destRanges (s : State) (f : Nat) (t : Xfer) : List (Nat × Nat) :=
  match t.att with
  | none => if t.writes.isEmpty then s.xferWrites f (xferFields t.words) else t.writes.map fun w => (w.1, w.2.length)
  | some (.queries j) | some (.fetch j _ _) | some (.copy j _ _) => [(storeAddr f j.area, 0x80000)]
  | some (.part p area _) => [(storeAddr p.home area, 0x80000)]

/-- DMA: a transfer for the frame's engine (R139, R144). -/
def execDma (who : ThreadId) (i : Insn) (s : State) : Host.Outcome State Fault Refusal :=
  s.issue who (({ d := true, a := true } : Form).fits i) false fun c => s.takeOrStall who c true i

end Sys2Proof.Machine
end

