-- ==== Sys2Proof/Machine/Deck.lean ====
section
/-! DEFINITION. The decks (03: R65 to R67 of 02, R84 to R109, R111; 04: R135, R136, R144): accepting a tile job, reading its
operands and the order of accumulation. -/

namespace Sys2Proof.Machine

/-! ## Accumulation (R65 to R67, R98, R99) -/

/-- The canonical NaN of the decks (R66). -/
def deckNan : Nat := 0x7FC00000

/-- The exact product of two operands. -/
def prodOf (x y : FVal) : FVal :=
  match x, y with
  | .fin n1 m1 e1, .fin n2 m2 e2 => .fin (n1 != n2) (m1 * m2) (e1 + e2)
  | _, _ =>
    if x.isNan || y.isNan then .nan false true 0
    else if x.isZero || y.isZero then .nan false true 0
    else .inf (x.neg != y.neg)

/-- The first product initialises the accumulator, rounded once (R98). -/
def accFirst (p : FVal) : Nat :=
  match p with
  | .nan _ _ _ => deckNan
  | .inf n => fmtFP32.withSign n fmtFP32.infCode
  | .fin n m e => (fmtFP32.ieee .rne n m e).1

/-- Add an exact product to an FP32 accumulator with one rounding (R65, R66). -/
def accAdd (acc : Nat) (p : FVal) : Nat :=
  match fmtFP32.decode acc, p with
  | .fin n1 m1 e1, .fin n2 m2 e2 => (fmtFP32.sumBits .rne n1 n2 (dyAdd n1 m1 e1 n2 m2 e2)).1
  | .nan _ _ _, _ => deckNan
  | _, .nan _ _ _ => deckNan
  | .inf n1, .inf n2 => if n1 = n2 then fmtFP32.withSign n1 fmtFP32.infCode else deckNan
  | .inf n, _ => fmtFP32.withSign n fmtFP32.infCode
  | _, .inf n => fmtFP32.withSign n fmtFP32.infCode

/-- The sum of products in order (R98): none before the first product. -/
def dotFloat : Option Nat → List FVal → Option Nat
  | acc, [] => acc
  | none, p :: r => dotFloat (some (accFirst p)) r
  | some a, p :: r => dotFloat (some (accAdd a p)) r

/-- The integer sum modulo 2^32 (R67). -/
def dotInt : Nat → List Int → Nat
  | acc, [] => acc
  | acc, p :: r => dotInt (intBits 32 ((acc : Int) + p)) r

/-- The integer that a decoded integer operand is. -/
def FVal.toInt : FVal → Int
  | .fin n m _ => if n then -(m : Int) else m
  | _ => 0

/-! ## Operands of a job in the frame store (R94 to R96, R107) -/

/-- Byte and bit place of a source element of a row-shift job (R107). -/
def JobP.shiftElem (j : JobP) (f : Nat) (m : List Host.Cell) (row p k : Nat) : FVal :=
  let s := k / j.rs
  let t := k % j.rs
  let base : Int := (j.src : Int) + j.pstep * (p : Int) + (((row + t) * j.tstride : Nat) : Int)
  valueAt m j.afmt (storeAddr f base.toNat) s

/-- Activation of token row `row`, pass p, depth position k. -/
def JobP.actAt (j : JobP) (f : Nat) (m : List Host.Cell) (row p k : Nat) : FVal :=
  if j.rs ≠ 0 then j.shiftElem f m row p k
  else
    let d := if j.cls = .four then k / 2 else k
    let word := storeAddr f (j.feed + (64 * p + row + d) * feedWordBytes j.afmt j.cls)
    let code := scalarElemAt m (fmtBits j.afmt) word k
    match blockFmt j.afmt with
    | some b =>
      let side := storeAddr f (j.side + (64 * p + row + row0 j.cls (k / 32)) * 8)
      b.decode (readLe m (side + k / 32) 1) (if b.offs then readLe m (side + 4 + k / 32) 1 else 0) (k % 32) code
    | none => match etypeOf j.afmt with
      | some t => t.decode code
      | none => .fin false 0 0

/-- Address of the stationary block of pass p, and of its scale and offset rows (R96). -/
def JobP.blockAt (j : JobP) (f p : Nat) : Nat := storeAddr f (j.wblk + p * statBlockBytes j.wfmt j.cls)
def JobP.scalesAt (j : JobP) (f p : Nat) : Nat := j.blockAt f p + 64 * weightRowBytes j.wfmt j.cls
def JobP.offsAt (j : JobP) (f p : Nat) : Nat := j.scalesAt f p + j.d / 32 * 128

/-- Code of the weight of column n, pass p, depth position k, and scale and offset of its block b. -/
def JobP.weightCode (j : JobP) (f : Nat) (m : List Host.Cell) (n p k : Nat) : Nat :=
  scalarElemAt m (fmtBits j.wfmt) (j.blockAt f p + k * 16 * fmtBits j.wfmt) n
def JobP.weightScale (j : JobP) (f : Nat) (m : List Host.Cell) (n p b : Nat) : Nat := readLe m (j.scalesAt f p + b * 128 + n) 1
def JobP.weightOffs (j : JobP) (f : Nat) (m : List Host.Cell) (n p b : Nat) : Nat := readLe m (j.offsAt f p + b * 128 + n) 1

/-- Weight of column n, pass p, depth position k. -/
def JobP.weightAt (j : JobP) (f : Nat) (m : List Host.Cell) (n p k : Nat) : FVal :=
  let code := j.weightCode f m n p k
  match blockFmt j.wfmt with
  | some b => b.decode (j.weightScale f m n p (k / 32)) (if b.offs then j.weightOffs f m n p (k / 32) else 0) (k % 32) code
  | none => match etypeOf j.wfmt with
    | some t => t.decode code
    | none => .fin false 0 0

/-- Depth positions used in pass p: all but those at or beyond KLAST in the last pass (R99), and in a row-shift job those
of the whole segments (R107). -/
def JobP.positions (j : JobP) (p : Nat) : List Nat :=
  let n := if p = j.npass - 1 then j.klast else j.d
  let used := if j.rs = 0 then j.d else j.d / j.rs * j.rs
  List.range (min n used)

/-- The accumulator of element (row, n) of a job (R98). -/
def JobP.accAt (j : JobP) (f : Nat) (m : List Host.Cell) (row n : Nat) : Nat :=
  let pairs := (List.range j.npass).flatMap fun p =>
    (j.positions p).map fun k => (j.actAt f m row p k, j.weightAt f m n p k)
  if isIntFmt j.afmt then dotInt 0 (pairs.map fun x => x.1.toInt * x.2.toInt)
  else (dotFloat none (pairs.map fun x => prodOf x.1 x.2)).getD 0

/-- The accumulator tile (R101): rows not fed and columns at or beyond NCOL hold nothing, and are given as 0. -/
def JobP.accTile (j : JobP) (f : Nat) (m : List Host.Cell) : List (List Nat) :=
  (List.range 64).map fun row => (List.range 128).map fun n =>
    if j.fed.testBit row && decide (n < j.ncol) then j.accAt f m row n else 0

/-- MJOB: a tile job for the frame's decks (R135). -/
def execMjob (who : ThreadId) (i : Insn) (s : State) : Host.Outcome State Fault Refusal :=
  s.issue who (({ d := true, a := true } : Form).fits i) false fun c => s.takeOrStall who c false i

/-! ## Starting a job -/

/-- A SCATTER of a program that has not started: its index list may still change, and with it where it writes (R111, log 211). -/
def Xfer.unplaced (t : Xfer) : Bool := t.att.isNone && t.writes.isEmpty && decide ((xferFields t.words).kind = 2)

/-- Whether the head job may start: no earlier transfer that writes, or may yet write, into its read ranges is outstanding (R111), and no
earlier job whose STOREs write into them has a chain program to finish (R166). -/
def State.jobReady (s : State) (f : Nat) (j : Job) : Bool :=
  let fr := s.frame f
  let rs := j.deckRanges ++ fr.chainRanges f j
  !((fr.dmaQueue ++ fr.attQueue ++ fr.dmaActive).any fun t => decide (t.stamp < j.stamp) && (t.unplaced ||
      anyMeet rs ((s.destRanges f t).flatMap fun w => storeRange f w.1 w.2))) &&
  !((fr.waiting ++ fr.inFlight ++ fr.delivered).any fun e =>
      anyMeet rs (e.stores.flatMap fun w => storeRange f w.1 w.2))

/-! ## The bead registers (R81, R89 to R93, R106) -/

/-- Whether the loader loads the weight of depth position k of pass p: not at or beyond KLAST in the last pass (R93, R96). -/
def JobP.loads (j : JobP) (p k : Nat) : Bool := decide (p + 1 ≠ j.npass) || decide (k < j.klast)

/-- An entry of a register plane. -/
def entryAt (xs : List (List Nat)) (i n : Nat) : Nat := (xs.getD i []).getD n 0

/-- A register plane of so many rows and 128 columns; the rods of columns at or beyond NCOL are clock-gated (R106) and keep what they
hold in `gated`. -/
def JobP.plane (j : JobP) (rows : Nat) (gated : List (List Nat)) (g : Nat → Nat → Nat) : List (List Nat) :=
  (List.range rows).map fun i => (List.range 128).map fun n => if n < j.ncol then g i n else entryAt gated i n

/-- The shadow registers loaded with the stationary block of pass p (R92, R93); what is not loaded keeps what it holds. -/
def JobP.loadShadow (j : JobP) (f : Nat) (m : List Host.Cell) (p : Nat) (old : Plane) : Plane :=
  let weight := fun (k n o : Nat) => if j.loads p k then j.weightCode f m n p k else o
  let block := fun (here : Bool) (g : Nat → Nat → Nat) (o : List (List Nat)) =>
    j.plane 4 o fun b n => if here && decide (b < j.d / 32) && j.loads p (32 * b) then g n b else entryAt o b n
  { weights := j.plane 64 old.weights fun d n =>
      let o := entryAt old.weights d n
      if j.cls = .four then weight (2 * d) n (o % 16) + 16 * weight (2 * d + 1) n (o / 16 % 16) else weight d n o
    scales := block (blockFmt j.wfmt).isSome (fun n b => j.weightScale f m n p b) old.scales
    offs := block (decide (j.wfmt = 0x0F)) (fun n b => j.weightOffs f m n p b) old.offs }

/-- A plane whose clock-gated columns are those of another plane. -/
def JobP.gate (j : JobP) (x held : Plane) : Plane :=
  { weights := j.plane 64 held.weights fun d n => entryAt x.weights d n
    scales := j.plane 4 held.scales fun b n => entryAt x.scales b n
    offs := j.plane 4 held.offs fun b n => entryAt x.offs b n }

/-- One pass: the shadow registers are loaded, then both sets are swapped (R91, R92; log 152). -/
def JobP.beadPass (j : JobP) (f : Nat) (m : List Host.Cell) (b : Beads) (p : Nat) : Beads :=
  { active := j.gate (j.loadShadow f m p b.shadow) b.active, shadow := j.gate b.active b.shadow }

/-- The bead registers in a job's last pass. A job with no fed row loads none (R104). -/
def State.beadsFor (s : State) (f : Nat) (j : JobP) (old : Beads) : Beads :=
  if j.fed = 0 then old else (List.range j.npass).foldl (j.beadPass f s.mem) old

/-- The tile of a job that is executed again (R177): its weights pass through the beads, and its accumulator tile is formed (R91, R92,
R98). -/
def State.formAgain (s : State) (f : Nat) (j : Job) : State × Job :=
  (s.modFrame f fun fr => { fr with beads := s.beadsFor f (jobFields j.words) fr.beads },
   { j with acc := (jobFields j.words).accTile f s.mem })

/-- The head job starts: it leaves the queue, its weights pass through the beads, and its accumulator tile is formed (R81, R86,
R98, R104). -/
def State.startJob (s : State) (f : Nat) (j : Job) (acc : List (List Nat)) : State :=
  (s.modFrame f fun fr => { fr with
    deckQueue := fr.deckQueue.drop 1, inFlight := fr.inFlight ++ [{ j with acc := acc }],
    beads := s.beadsFor f (jobFields j.words) fr.beads }).wakeFrame f

end Sys2Proof.Machine
end

