-- ==== Sys2Proof/Machine/Elem.lean ====
section
/-! DEFINITION. Correctly rounded functions (05: R160, R161, R169; 07: R224, R226, R228): each is evaluated to several
hundred bits with integer series and rounded once to FP32 (log 30). -/

namespace Sys2Proof.Machine

/-- Bits of the fixed-point evaluation. -/
def fxP : Nat := 640

/-- One, in fixed point. -/
def fxOne : Nat := 2 ^ fxP

/-- π × 2^1800, truncated. -/
def piFix : Nat := 0x3243f6a8885a308d313198a2e03707344a4093822299f31d0082efa98ec4e6c89452821e638d01377be5466cf34e90c6cc0ac29b7c97c50dd3f84d5b5b54709179216d5d98979fb1bd1310ba698dfb5ac2ffd72dbd01adfb7b8e1afed6a267e96ba7c9045f12c7f9924a19947b3916cf70801f2e2858efc16636920d871574e69a458fea3f4933d7e0d95748f728eb658718bcd5882154aee7b54a41dc25a59b59c30d5392af26013c5d1b023286085f0ca417918b8db38ef8e79dcb0603a180e6c9e0e8bb01e8a3ed71577c1bd314b2778af2fda55605c60e65525f3aa55ab9457

/-- Taylor terms of e^y − 1 beyond term k for a fixed-point y, with t the last term. -/
def expTerms (y : Nat) : Nat → Nat → Nat → Nat
  | 0, _, _ => 0
  | n + 1, k, t => let t := ((t * y) >>> fxP) / k; t + expTerms y n (k + 1) t

/-- Square a fixed-point number n times. -/
def squareTimes : Nat → Nat → Nat
  | 0, v => v
  | n + 1, v => squareTimes n ((v * v) >>> fxP)

/-- e^a in fixed point for a fixed-point a below 512. -/
def expFix (a : Nat) : Nat :=
  let y := a >>> 20
  squareTimes 20 (fxOne + expTerms y 44 1 fxOne)

/-- The terms of atanh z beyond order 2k + 1, with t = z^(2k+1) and q = z². -/
def atanhTerms (q : Nat) : Nat → Nat → Nat → Nat
  | 0, _, _ => 0
  | n + 1, k, t => t / (2 * k + 1) + atanhTerms q n (k + 1) ((t * q) >>> fxP)

/-- ln(1 + w) in fixed point for w from 0 to 1. -/
def ln1pFix (w : Nat) : Nat :=
  let z := (w <<< fxP) / (2 * fxOne + w)
  2 * atanhTerms ((z * z) >>> fxP) 210 0 z

/-- ln 2. -/
def ln2Fix : Nat := ln1pFix fxOne

/-- A magnitude m × 2^e in fixed point, truncated. -/
def fixOf (m : Nat) (e : Int) : Nat :=
  let k := e + (fxP : Int)
  if 0 ≤ k then m <<< k.toNat else m >>> (-k).toNat

/-- Round num / den × 2^e, which is no FP32 value or midpoint, once to FP32 by RNE. -/
def ratRound (neg : Bool) (num den : Nat) (e : Int) : Nat :=
  (fmtFP32.ieee .rne neg (2 * ((num <<< 1600) / den) + 1) (e - 1601)).1

/-- A positive or negative number too small for FP32. -/
def tinyOf (neg : Bool) : Nat := ratRound neg 1 1 (-400)

/-- The FP32 value 1. -/
def fp32One : Nat := 0x3F800000

/-- e^x for a finite x other than 0. -/
def expFin (neg : Bool) (m : Nat) (e : Int) : Nat :=
  let big := decide (256 * fxOne ≤ fixOf m e)
  if neg then (if big then tinyOf false else ratRound false fxOne (expFix (fixOf m e)) 0)
  else if big then fmtFP32.infCode else ratRound false (expFix (fixOf m e)) fxOne 0

/-- e^x correctly rounded (exp_rn). -/
def expRn (x : Nat) : Nat :=
  match fmtFP32.decode x with
  | .nan n _ p => fmtFP32.nanBits n p
  | .inf n => if n then 0 else x
  | .fin n m e => if m = 0 then fp32One else expFin n m e

/-- ln x correctly rounded (ln_rn); the limit −∞ at 0, and the default NaN below 0. -/
def lnRn (x : Nat) : Nat :=
  match fmtFP32.decode x with
  | .nan n _ p => fmtFP32.nanBits n p
  | .inf n => if n then fmtFP32.defaultNan else x
  | .fin n m e =>
    if m = 0 then fmtFP32.withSign true fmtFP32.infCode
    else if n then fmtFP32.defaultNan
    else if x = fp32One then 0
    else
      let k : Int := (Nat.log2 m : Int) + e
      let f := (m <<< fxP) / 2 ^ Nat.log2 m - fxOne
      let v : Int := k * (ln2Fix : Int) + (ln1pFix f : Int)
      ratRound (decide (v < 0)) v.natAbs fxOne 0

/-- The logistic function of a finite x, as numerator and denominator. -/
def sigmoidRat (neg : Bool) (a : Nat) : Nat × Nat :=
  let a := min a (400 * fxOne)
  let ex := expFix a
  if neg then (fxOne, fxOne + ex) else (ex, fxOne + ex)

/-- Terms of Σ x^(2k+1) / (1·3·…·(2k+1)), with q = x². -/
def phiTerms (q : Nat) : Nat → Nat → Nat → Nat
  | 0, _, _ => 0
  | n + 1, k, t => t + phiTerms q n (k + 1) (((t * q) >>> fxP) / (2 * k + 3))

/-- The normal distribution function at ±a for a fixed-point a of at most 16, in fixed point. -/
def normalFix (neg : Bool) (a : Nat) : Nat :=
  let q := (a * a) >>> fxP
  let dens := (fxOne * fxOne / expFix (q / 2) * fxOne) / isqrt (2 * (piFix >>> (1800 - fxP)) * fxOne)
  let tail := (dens * phiTerms q 700 0 a) >>> fxP
  if neg then fxOne / 2 - tail else fxOne / 2 + tail

/-- 2u of the tanh form of GELU at a finite x: 2 × 0.797884560802865 × (x + 0.044715 x³), in fixed point. -/
def geluArg (m : Nat) (e : Int) : Nat :=
  let a := fixOf m e
  let c := (a * a) >>> fxP
  2 * 797884560802865 * (a + 44715 * ((c * a) >>> fxP) / 1000000) / 1000000000000000

/-- An activation function of Table 5-5 at a finite nonzero x. -/
def actFin (fn : Nat) (neg : Bool) (m : Nat) (e : Int) (bits : Nat) : Nat :=
  let a := fixOf m e
  let huge := decide (256 * fxOne ≤ a)
  match fn with
  | 0x01 => if neg then 0 else bits
  | 0x02 =>
    if huge && neg then tinyOf true
    else let r := sigmoidRat neg a; ratRound neg (r.1 * m) r.2 e
  | 0x03 =>
    if 16 * fxOne < a then (if neg then tinyOf true else bits)
    else ratRound neg (normalFix neg a * m) fxOne e
  | 0x04 =>
    if huge then (if neg then tinyOf true else bits)
    else let r := sigmoidRat neg (geluArg m e); ratRound neg (r.1 * m) r.2 e
  | 0x05 =>
    if huge && neg then tinyOf false
    else let r := sigmoidRat neg a; ratRound false r.1 r.2 0
  | 0x06 =>
    let ex := expFix (2 * min a (200 * fxOne))
    ratRound neg (ex - fxOne) (ex + fxOne) 0
  | 0x07 => expFin neg m e
  | 0x08 =>
    if huge then (if neg then tinyOf false else bits)
    else
      let l := ln1pFix (fxOne * fxOne / expFix a)
      ratRound false (if neg then l else a + l) fxOne 0
  | 0x09 => if neg then 0 else (fmtFP32.ieee .rne false (m * m) (2 * e)).1
  | _ => bits

/-- An activation function at a zero: odd-like functions keep the sign (log 31). -/
def actZero (fn : Nat) (neg : Bool) : Nat :=
  match fn with
  | 0x01 | 0x09 => 0
  | 0x05 => 0x3F000000
  | 0x07 => fp32One
  | 0x08 => ratRound false ln2Fix fxOne 0
  | _ => fmtFP32.withSign neg 0

/-- The limits at ±∞ (R160). -/
def actInf (fn : Nat) (neg : Bool) : Nat :=
  let inf := fmtFP32.infCode
  match fn with
  | 0x00 => fmtFP32.withSign neg inf
  | 0x05 => if neg then 0 else fp32One
  | 0x06 => fmtFP32.withSign neg fp32One
  | 0x02 | 0x03 | 0x04 => if neg then fmtFP32.withSign true 0 else inf
  | _ => if neg then 0 else inf

/-- ACT with a function code 0x00 to 0x09 (R160). -/
def actFun (fn x : Nat) : Nat :=
  match fmtFP32.decode x with
  | .nan n _ p => fmtFP32.nanBits n p
  | .inf n => actInf fn n
  | .fin n m e => if m = 0 then actZero fn n else actFin fn n m e x

/-- Evaluate a polynomial by fused multiply-adds, from the highest coefficient down (R161). -/
def polyEval (x : Nat) : Nat → List Nat → Nat
  | y, [] => y
  | y, c :: r => polyEval x (fmtFP32.fma .rne y x c).1 r

/-- A piecewise polynomial of a table of entries (bound, c0 to c5): the first entry whose bound exceeds x, or the last
(R161). DESIGN CHOICE: at ±∞ with a coefficient 0 it is what the steps of R161 give, a NaN, and not a limit (R160, log 215). -/
def polyFun (table : List (List Nat)) (x : Nat) : Nat :=
  let pick := (table.find? fun t => FVal.lt false (fmtFP32.decode x) (fmtFP32.decode (t.getD 0 0))).getD (table.getLastD [])
  polyEval x (pick.getD 6 0) [pick.getD 5 0, pick.getD 4 0, pick.getD 3 0, pick.getD 2 0, pick.getD 1 0]

/-! ## Rotation (R224) -/

/-- The terms of the sine or cosine series beyond term k, with alternating sign, for q = a². -/
def trigTerms (q : Nat) : Nat → Nat → Int → Int
  | 0, _, _ => 0
  | n + 1, k, t => t + trigTerms q n (k + 2) (-((t * (q : Int)) / (fxOne : Int) / ((k * (k + 1) : Nat) : Int)))

/-- Sine (`cosine` = false) or cosine of a finite FP64 value, correctly rounded to FP32 (R224). -/
def trigRn (cosine : Bool) (x : Nat) : Nat :=
  match fmtFP64.decode x with
  | .nan n _ p => fmtFP32.nanBits n (carryPayload 51 22 p)
  | .inf _ => fmtFP32.defaultNan
  | .fin n m e =>
    if m = 0 then (if cosine then fp32One else fmtFP32.withSign n 0)
    else if e < -1000 then (if cosine then fp32One else tinyOf n)
    else
      -- reduce to a multiple of π/2 and a rest at scale 2^1800
      let a := m <<< (e + 1800).toNat
      let half := piFix / 2
      let k := a / half
      let r := (a % half) >>> (1800 - fxP)
      let q := (r * r) >>> fxP
      let sinR := trigTerms q 60 2 (r : Int)
      let cosR := trigTerms q 60 1 (fxOne : Int)
      let quad := k % 4
      let v : Int :=
        if cosine then (match quad with | 0 => cosR | 1 => -sinR | 2 => -cosR | _ => sinR)
        else (match quad with | 0 => sinR | 1 => cosR | 2 => -sinR | _ => -cosR)
      let v := if !cosine && n then -v else v
      ratRound (decide (v < 0)) v.natAbs fxOne 0

/-- 1 / sqrt t correctly rounded (R169): +∞ at a zero, the default NaN below zero. -/
def rsqrtRn (t : Nat) : Nat :=
  match fmtFP32.decode t with
  | .nan n _ p => fmtFP32.nanBits n p
  | .inf n => if n then fmtFP32.defaultNan else 0
  | .fin n m e =>
    if m = 0 then fmtFP32.infCode
    else if n then fmtFP32.defaultNan
    else
      -- 1 / sqrt(m 2^e) = sqrt(2^(−e) / m)
      let k : Int := if e % 2 = 0 then e else e - 1
      let m := if e % 2 = 0 then m else 2 * m
      let v := 2 ^ 400 / m
      let r := isqrt v
      let exact := decide (r * r * m = 2 ^ 400)
      (fmtFP32.ieee .rne false (2 * r + b2n (!exact)) (-(k / 2) - 201)).1

end Sys2Proof.Machine
end

