-- ==== Sys2Proof/Machine/Hash.lean ====
section
/-! DEFINITION. The checks that the spec writes out or names: CRC-64/ECMA-182 (05: R172), CRC-32C (12: R367, R381) and
SHAKE256 of FIPS 202 (08: R266; 15: R455). -/

namespace Sys2Proof.Machine

/-- One bit of CRC-64/ECMA-182. -/
def crc64Bit (c : W64) : W64 := if bitAt c 63 then (c <<< 1) ^^^ 0x42F0E1EBA9EA3693 else c <<< 1

/-- `n` bits of CRC-64/ECMA-182. -/
def crc64Bits : Nat → W64 → W64
  | 0, c => c
  | n + 1, c => crc64Bits n (crc64Bit c)

/-- CRC-64/ECMA-182 continued over a byte string: no reflection, no final XOR (R172). -/
def crc64From (c : W64) : List Byte → W64
  | [] => c
  | b :: bs => crc64From (crc64Bits 8 (c ^^^ ((b.setWidth 64 : W64) <<< 56))) bs

/-- CRC-64/ECMA-182 of a byte string. -/
def crc64 (bs : List Byte) : W64 := crc64From 0 bs

/-! ## CRC-32C (R367, R381): the polynomial 0x1EDC6F41, reflected, with the register and the result inverted -/

/-- `n` bits of CRC-32C. -/
def crc32cBits : Nat → W32 → W32
  | 0, c => c
  | n + 1, c => crc32cBits n (if c.getLsbD 0 then (c >>> 1) ^^^ 0x82F63B78 else c >>> 1)

/-- CRC-32C of a byte string. -/
def crc32c (bs : List Byte) : W32 := ~~~ (bs.foldl (fun (c : W32) b => crc32cBits 8 (c ^^^ b.setWidth 32)) 0xFFFFFFFF)

/-! ## SHAKE256 (FIPS 202)

A permutation state is a function table of 25 lanes; the constants are computed as FIPS 202 gives them: the offsets of ρ by its walk
over the lanes, the constants of ι by its shift register. -/

/-- The register of ι after one step (x⁸ + x⁶ + x⁵ + x⁴ + 1), as a number below 256. -/
def iotaNext (r : Nat) : Nat := if 128 ≤ r then (2 * r) ^^^ 0x171 else 2 * r

/-- The register after `n` steps. -/
def iotaReg : Nat → Nat
  | 0 => 1
  | n + 1 => iotaNext (iotaReg n)

/-- The constant of round `k`: bit 2^j − 1 is the register's output after 7k + j steps. -/
def iotaConst (k : Nat) : W64 :=
  BitVec.ofNat 64 (((List.range 7).map fun j => iotaReg (7 * k + j) % 2 * 2 ^ (2 ^ j - 1)).foldl (· + ·) 0)

/-- The walk of ρ: the lane at step `t`, as a pair of coordinates, from (1, 0) by (x, y) ↦ (y, 2x + 3y). -/
def rhoLane : Nat → Nat × Nat
  | 0 => (1, 0)
  | t + 1 => ((rhoLane t).2, (2 * (rhoLane t).1 + 3 * (rhoLane t).2) % 5)

/-- ρ and π in one: step t of the walk turns its lane by (t + 1)(t + 2)/2 and puts it where the next step stands. -/
def turnLanes (lane : Nat → W64) : List (Nat × W64) :=
  (0, lane 0) :: (List.range 24).map fun t =>
    let from' := rhoLane t
    let dest := rhoLane (t + 1)
    (dest.1 + 5 * dest.2, (lane (from'.1 + 5 * from'.2)).rotateLeft ((t + 1) * (t + 2) / 2 % 64))

/-- The lane with a number in a list of numbered lanes. -/
def laneOf (xs : List (Nat × W64)) (n : Nat) : W64 := ((xs.find? fun p => decide (p.1 = n)).map (·.2)).getD 0

/-- The parity of column x over the five planes. -/
def planeParity (lane : Nat → W64) (x : Nat) : W64 := (List.range 5).foldl (fun p y => p ^^^ lane (x % 5 + 5 * y)) 0

/-- Round `k` of the permutation over 25 lanes, lane x + 5y. -/
def shakeRound (lanes : List W64) (k : Nat) : List W64 :=
  let lane := fun n => lanes.getD n 0
  let mixed := (List.range 25).map fun n => lane n ^^^ planeParity lane (n + 4) ^^^ (planeParity lane (n + 1)).rotateLeft 1
  let turned := turnLanes fun n => mixed.getD n 0
  let row := fun n d => laneOf turned (n / 5 * 5 + (n + d) % 5)
  (List.range 25).map fun n => row n 0 ^^^ (row n 2 &&& ~~~(row n 1)) ^^^ (if n = 0 then iotaConst k else 0)

/-- The permutation: 24 rounds. -/
def shakePermute (lanes : List W64) : List W64 := (List.range 24).foldl shakeRound lanes

/-- One block of 136 bytes is taken in. -/
def takeBlock (lanes : List W64) (block : List Byte) : List W64 :=
  shakePermute (List.zipWith (· ^^^ ·) lanes (wordsOf 17 block ++ List.replicate 8 0))

/-- The first `n` bytes of SHAKE256 of a message, for n of at most 136. -/
def shake256 (m : List Byte) (n : Nat) : List Byte :=
  let count := m.length / 136 + 1
  let padded := (List.range (136 * count)).map fun i =>
    m.getD i 0 ^^^ (if i = m.length then 0x1F else 0) ^^^ (if i + 1 = 136 * count then 0x80 else 0)
  let final := (List.range count).foldl (fun lanes b => takeBlock lanes ((padded.drop (136 * b)).take 136)) (List.replicate 25 0)
  (final.flatMap fun w => leBytes 8 w.toNat).take n

end Sys2Proof.Machine
end

