-- ==== Sys2Proof/Machine/Walk.lean ====
section
/-! DEFINITION. Page geometry and page walks (08: R246, R247, R249 to R255, R258): from a request's position and layer to a
page entry. -/

namespace Sys2Proof.Machine

/-- Bytes of an element of a page format. -/
def Geom.esize (g : Geom) : Nat := fmtBits g.kvfmt.toNat / 8

/-- Head dimension HD. -/
def Geom.hd (g : Geom) : Nat := 64 * g.hpass

/-- Bytes of the keys of a page (R247). -/
def Geom.keyBytes (g : Geom) : Nat := g.kvh * g.ppos * g.hd * g.esize

/-- Page size (R246). -/
def Geom.pageSize (g : Geom) : Nat := ceilDiv (2 * g.keyBytes) 4096 * 4096

/-- Byte offset in a page of the row of head h, position t; w = 0 keys, 1 values (R247). -/
def Geom.rowOffset (g : Geom) (w h t : Nat) : Nat := w * g.keyBytes + (h * g.ppos + t) * g.hd * g.esize

/-- Geometry of a model slot. -/
def Region.geom (r : Region) (slot : Nat) : Option Geom := if slot = 0 then r.geom0 else r.geom1

/-- Pool of a model slot. -/
def Region.pool (r : Region) (slot : Nat) : List Page := if slot = 0 then r.pool0 else r.pool1

/-- Replace the pool of a model slot. -/
def Region.setPool (r : Region) (slot : Nat) (p : List Page) : Region :=
  if slot = 0 then { r with pool0 := p } else { r with pool1 := p }

/-- Address of the page-table header of a request and slot (R251). -/
def State.headerAddr (s : State) (rid ridx slot : Nat) : Nat := (s.region rid).ctlBase rid + (ridx * 2 + slot) * 64

/-- The fields of a page-table header (Table 8-4). -/
structure Header where
  diraddr : Nat
  dirblk : Nat
  sbase0 : Nat
  count0 : Nat
  sbase1 : Nat
  count1 : Nat
  plen : Nat
  variant : Nat
deriving DecidableEq, Repr

/-- Read a page-table header. -/
def State.header (s : State) (rid ridx slot : Nat) : Header :=
  let w := wordsOf 4 (readBytes s.mem (s.headerAddr rid ridx slot) 32)
  { diraddr := fld (wordAt w 0) 47 0, dirblk := fld (wordAt w 0) 50 48 + 1, sbase0 := fld (wordAt w 1) 37 0,
    count0 := fld (wordAt w 1) 56 38, sbase1 := fld (wordAt w 2) 37 0, count1 := fld (wordAt w 2) 56 38,
    plen := fld (wordAt w 3) 18 0, variant := fld (wordAt w 3) 31 19 }

/-- Local position of a position (R249). -/
def Header.local? (h : Header) (p : Nat) : Option Nat :=
  if h.sbase0 ≤ p ∧ p < h.sbase0 + h.count0 then some (p - h.sbase0)
  else if h.sbase1 ≤ p ∧ p < h.sbase1 + h.count1 then some (h.count0 + p - h.sbase1)
  else none

/-- How a walk ends (R253, R254, R258). -/
inductive Walk where
  | page (addr : Nat) (ro : Bool) (t : Nat)
  | limit | invalid | race
deriving DecidableEq, Repr

/-- Whether a page lies wholly in the region's windows outside the control and sampler areas (R254). -/
def State.pageInside (s : State) (rid addr size : Nat) : Bool :=
  decide (addr < storeBase) && decide (s.reachRange rid addr size = .ok)

/-- Live generation of a request's table (R257). -/
def Region.gen (r : Region) (ridx slot : Nat) : W32 := smGet 0 r.gens (ridx * 2 + slot)

/-- Snapshot generation. -/
def Region.snap (r : Region) (ridx slot : Nat) : W32 := smGet 0 r.snaps (ridx * 2 + slot)

/-- The walk cache of a half. -/
def State.walkCache (s : State) (h : Half) : List (Nat × Nat × Nat × W64) :=
  match h with | .west => s.att.wcW | .east => s.att.wcE

/-- Put an entry into a half's walk cache, which holds 2,048 (R255), and count the miss. -/
def State.cacheMiss (s : State) (h : Half) (x : Nat × Nat × Nat × W64) : State :=
  match h with
  | .west => { s with att := { s.att with wcW := (x :: s.att.wcW).take 2048, missW := satAdd s.att.missW 1 } }
  | .east => { s with att := { s.att with wcE := (x :: s.att.wcE).take 2048, missE := satAdd s.att.missE 1 } }

/-- The end of a walk at a page-list entry. -/
def State.walkEnd (s : State) (rid : Nat) (g : Geom) (e : W64) (t : Nat) : Walk :=
  let addr := fld e 47 12 * 4096
  if !bitAt e 0 || !s.pageInside rid addr g.pageSize then .invalid else .page addr (bitAt e 1) t

/-- A request takes part in the step in course (R258, R259). -/
def Region.inStep (r : Region) (ridx : Nat) : Bool := decide (r.run ≠ .waiting) && r.stepReqs.any fun x => decide (x.ridx = ridx)

/-- Translate a position and layer (R253; a lost header is invalid, R486; a raw store to the table of a request outside the step
is not detected, R259): the walk's end, and the state with the half's cache brought up to date. -/
def State.walk (s : State) (h : Half) (rid ridx slot p l : Nat) : Walk × State :=
  let r := s.region rid
  match r.geom slot with
  | none => (.invalid, s)
  | some g =>
    let hd := s.header rid ridx slot
    if anyMeet (s.lostGranules rid) [(s.headerAddr rid ridx slot, 32)] then (.invalid, s) else
    match hd.local? p with
    | none => (.limit, s)
    | some lam =>
      let j := lam / g.ppos * g.nl + l
      if r.inStep ridx && decide (r.gen ridx slot ≠ r.snap ridx slot) then (.race, s)
      else
        match (s.walkCache h).find? fun x => decide (x.1 = rid) && decide (x.2.1 = ridx * 2 + slot) && decide (x.2.2.1 = j) with
        | some x => (s.walkEnd rid g x.2.2.2 (lam % g.ppos), s)
        | none =>
          if hd.dirblk * 512 ≤ j / 512 then (.invalid, s)
          else
            let d : W64 := BitVec.ofNat 64 (readLe s.mem (hd.diraddr + j / 512 * 8) 8)
            if !bitAt d 0 then (.invalid, s)
            else
              let e : W64 := BitVec.ofNat 64 (readLe s.mem (fld d 47 12 * 4096 + j % 512 * 8) 8)
              (s.walkEnd rid g e (lam % g.ppos), s.cacheMiss h (rid, ridx * 2 + slot, j, e))

/-! ## Requests of the step -/

/-- Change the step's record of a request. -/
def Region.modStep (r : Region) (ridx : Nat) (f : StepReq → StepReq) : Region :=
  { r with stepReqs := r.stepReqs.map fun x => if x.ridx = ridx then f x else x }

/-- Whether a KVAPP still writes rows of a request, and a later attention descriptor feeds them, in the step (R165, R242, R254,
R258). -/
def Region.feeds (r : Region) (ridx : Nat) : Bool :=
  match r.stepReqs.find? fun x => decide (x.ridx = ridx) with
  | some x => !(x.race || x.invalid || x.readonly || x.limit)
  | none => true

/-- Whether a descriptor that has started goes on feeding rows of a request: a row left unwritten under R165 stops later
descriptors only (R242), a failed walk of the engine's own at once (R254). -/
def Region.feedsNow (r : Region) (ridx : Nat) : Bool :=
  match r.stepReqs.find? fun x => decide (x.ridx = ridx) with
  | some x => !(x.race || x.invalid || x.readonly || x.cut)
  | none => true

/-- Record how a failed walk ends its request at the boundary (R254, R258). -/
def Region.noteWalk (r : Region) (ridx : Nat) : Walk → Region
  | .limit => r.modStep ridx fun x => { x with limit := true }
  | .invalid => r.modStep ridx fun x => { x with invalid := true }
  | .race => r.modStep ridx fun x => { x with race := true }
  | .page _ _ _ => r

/-- Record a failed walk of an attention engine, which feeds no further row of the request (R254). -/
def Region.noteFetch (r : Region) (ridx : Nat) (w : Walk) : Region := (r.noteWalk ridx w).modStep ridx fun x => { x with cut := true }

/-- The half of a logical frame (R4). -/
def State.halfOfFrame (s : State) (f : Nat) : Half := halfOfCol s.nv (colOf s.nv f)

end Sys2Proof.Machine
end

