-- ==== Sys2Proof/Machine/Chain.lean ====
section
/-! DEFINITION. The chain unit (05: R151 to R179; 02: R77 to R79; 13: R409, R413, R414): values, each chain operation, the
tile status word, and a chain program over one tile. -/

namespace Sys2Proof.Machine

/-! ## Values (R158, R159) -/

/-- A tile's current value: a format of Table 4-3 and, row by row, its codes; a block-format row holds for each of its four
blocks 32 codes, the scale byte and the offset byte. -/
structure CVal where
  fmt : Nat
  rows : List (List Nat)
deriving DecidableEq, Repr

/-- A code of a scalar format as FP32: exact, with INT32 by RNE (R158). -/
def toF32 (fmt code : Nat) : Nat :=
  match etypeOf fmt with
  | some t => (convert t (.flt fmtFP32) .rne true code).bits
  | none => 0

/-- Value of column n of a row of a block-format value. -/
def blockCol (b : BFmt) (row : List Nat) (n : Nat) : FVal :=
  let g := (row.drop (34 * (n / 32))).take 34
  b.decode (g.getD 32 0) (g.getD 33 0) (n % 32) (g.getD (n % 32) 0)

/-- Value of column n of a row, exact. -/
def CVal.at (v : CVal) (row : List Nat) (n : Nat) : FVal :=
  match blockFmt v.fmt with
  | some b => blockCol b row n
  | none => match etypeOf v.fmt with
    | some t => t.decode (row.getD n 0)
    | none => .fin false 0 0

/-- Column n of a row decoded to FP32 (R158, R159). -/
def CVal.f32 (v : CVal) (row : List Nat) (n : Nat) : Nat :=
  match blockFmt v.fmt with
  | some b =>
    let g := (row.drop (34 * (n / 32))).take 34
    (b.toF32 .rne true (g.getD 32 0) (g.getD 33 0) (n % 32) (g.getD (n % 32) 0)).bits
  | none => toF32 v.fmt (row.getD n 0)

/-- A block as it stands in a block-format row. -/
def Block.asRow (b : Block) : List Nat := b.codes ++ [b.scale, b.offs]

/-- Four all-zero blocks (R60). -/
def zeroBlocks : List Nat := List.replicate 136 0

/-- The blocks of a block-format row. -/
def rowBlocks (row : List Nat) : List Block :=
  (List.range (row.length / 34)).map fun k =>
    let g := (row.drop (34 * k)).take 34
    { codes := g.take 32, scale := g.getD 32 0, offs := g.getD 33 0, ovf := 0, crush := 0 }

/-! ## Status (R77, R78) -/

/-- The first non-finite value: stage, row, column and kind. -/
structure Exc where
  stage : Nat
  row : Nat
  col : Nat
  kind : Nat
deriving DecidableEq, Repr

/-- The kind of a value: 0 finite, 1 NaN, 2 +∞, 3 −∞ (Table 2-9). -/
def FVal.kind : FVal → Nat
  | .nan _ _ _ => 1
  | .inf n => if n then 3 else 2
  | .fin _ _ _ => 0

/-- The first non-finite value among valid rows and columns (R78, R79), an element's FP32 result before its conversion (`pre`,
none where there is none) and the converted value both being looked at (log 153). -/
def CVal.firstExc (v : CVal) (pre : Option CVal) (stage ncol : Nat) (rows : List Nat) : Option Exc :=
  let kindAt := fun (x : CVal) m n => (x.at (x.rows.getD m []) n).kind
  rows.findSome? fun m =>
    (List.range ncol).findSome? fun n =>
      let k0 := match pre with | some x => kindAt x m n | none => 0
      let k := if k0 = 0 then kindAt v m n else k0
      if k = 0 then none else some { stage := stage, row := m, col := n, kind := k }

/-- The tile status word (Table 2-9). -/
def statusWord (crush ovf : Nat) (x : Option Exc) : W64 :=
  let base := min crush 16383 + 2 ^ 14 * min ovf 16383
  match x with
  | none => BitVec.ofNat 64 base
  | some x => BitVec.ofNat 64 (base + 2 ^ 28 * x.col + 2 ^ 35 * x.row + 2 ^ 41 * x.stage + 2 ^ 48 * x.kind + 2 ^ 50)

/-! ## A program in course -/

/-- A chain program in course over one tile, at instruction `pos`. -/
structure Chn where
  s : State
  v : CVal
  pre : Option CVal := none        -- the instruction's FP32 results before their conversion
  valid : Nat                      -- rows valid
  pos : Nat := 0
  waits : Bool := false            -- the wait of instruction `pos` is not over
  crush : Nat := 0
  ovf : Nat := 0
  exc : Option Exc := none
  held : Withheld := {}
  stats : List (Nat × RStat) := [] -- buffers as RC = 1 instructions have read them (R177)
  emptySlots : List Nat := []      -- slots that a GATE empties after the tile
  clearBufs : List Nat := []       -- buffers that an RSCALE clears after the tile
  fault : Option FCode := none
deriving DecidableEq, Repr

/-- What a program runs on: frame, region, job and its decoded descriptor. -/
structure ChnEnv where
  f : Nat
  rid : Nat
  job : Job
  j : JobP
  q : ParamP
deriving DecidableEq, Repr

/-- Valid rows. -/
def Chn.rows (c : Chn) : List Nat := (List.range 64).filter fun m => c.valid.testBit m

/-- Stop with a fault. -/
def Chn.fail (c : Chn) (code : FCode) : Chn := { c with fault := some code }

/-- Fault where an address range is not the region's (R142, R179). -/
def Chn.guard (c : Chn) (env : ChnEnv) (ranges : List (Nat × Nat)) (k : Chn → Chn) : Chn :=
  match c.s.rangeFault env.rid ranges with
  | some (code, _) => c.fail code
  | none => k c

/-- Fault where a read is not the region's, or meets lost data (R142, R179, R488). -/
def Chn.guardRead (c : Chn) (env : ChnEnv) (ranges : List (Nat × Nat)) (k : Chn → Chn) : Chn :=
  match c.s.readFault env.rid ranges with
  | some (code, _) => c.fail code
  | none => k c

/-- The rounding of column n of row m in a chain conversion (R49, R52, R164). QUANT alone has a field for the SR stream number;
with RM = SR in any other instruction the stream number is 0 (log 155). -/
def chainMode (env : ChnEnv) (ci : CInsn) (m n : Nat) : RMode :=
  if ci.rm = 6 then
    let p := 128 * m + n
    .sr (philox16 (philox env.job.seed.toNat (p / 8) env.j.tidx (if ci.op = 0x07 then ci.imm else 0) 0) (p % 8))
  else rmOf ci.rm

/-- Replace the rows listed, keeping the others. -/
def mapRows (rows : List (List Nat)) (valid : List Nat) (g : Nat → List Nat → List Nat) : List (List Nat) :=
  rows.mapIdx fun m r => if valid.contains m then g m r else r

/-- Convert rows of FP32 results to IFMT (R158): codes, with the count of R54. -/
def convRows (env : ChnEnv) (ci : CInsn) (src : EType) (rows : List (List Nat)) (valid : List Nat) :
    List (List Nat) × Nat :=
  match etypeOf ci.ifmt with
  | none => (rows, 0)
  | some dt =>
    let rs := rows.mapIdx fun m r =>
      if valid.contains m then r.mapIdx fun n x => convert src dt (chainMode env ci m n) ci.ovm x else []
    (mapRows rows valid (fun m _ => (rs.getD m []).map (·.bits)),
     ((rs.flatMap fun r => (r.take env.j.ncol).filter fun x => x.counted)).length)

/-- An arithmetic instruction: `g m n x` on FP32, then the conversion to IFMT, which changes nothing for FP32 (R158). -/
def Chn.arith (c : Chn) (env : ChnEnv) (ci : CInsn) (g : Nat → Nat → Nat → Nat) : Chn :=
  let y := mapRows c.v.rows c.rows fun m r => (List.range 128).map fun n => if n < env.j.ncol then g m n (c.v.f32 r n) else 0
  let c := { c with pre := some { fmt := 0, rows := y } }
  if ci.ifmt = 0 then { c with v := { fmt := 0, rows := y } }
  else
    let t := convRows env ci (.flt fmtFP32) y c.rows
    { c with v := { fmt := ci.ifmt, rows := t.1 }, ovf := c.ovf + t.2 }

/-! ## Operations (Table 5-4) -/

/-- Element n of a vector or row in memory, as FP32. -/
def memF32 (s : State) (fmt a n : Nat) : Nat := toF32 fmt (scalarElemAt s.mem (fmtBits fmt) a n)

/-- BIAS. -/
def chnBias (env : ChnEnv) (ci : CInsn) (c : Chn) : Chn :=
  c.guardRead env (ci.reads env.j env.q) fun c =>
    c.arith env ci fun _ n x => (fmtFP32.add .rne x (memF32 c.s ci.fn (env.q.addr ci.pa) n)).1

/-- SCALE. -/
def chnScale (env : ChnEnv) (ci : CInsn) (c : Chn) : Chn :=
  c.guardRead env (ci.reads env.j env.q) fun c =>
    let a := env.q.addr ci.pa
    c.arith env ci fun m n x =>
      (fmtFP32.mul .rne x (match ci.fn / 32 with
        | 0 => memF32 c.s (ci.fn % 32) a n
        | 1 => memF32 c.s (ci.fn % 32) a m
        | _ => ci.imm)).1

/-- The table of a piecewise polynomial (R161). -/
def polyTable (s : State) (a n : Nat) : List (List Nat) :=
  (List.range n).map fun k => (List.range 7).map fun i => readLe s.mem (a + 32 * k + 4 * i) 4

/-- ACT (R160, R161). -/
def chnAct (env : ChnEnv) (ci : CInsn) (c : Chn) : Chn :=
  c.guardRead env (ci.reads env.j env.q) fun c =>
    let table := if 0x10 ≤ ci.fn then polyTable c.s (env.q.addr ci.pa) (ci.fn % 16 + 1) else []
    c.arith env ci fun _ _ x => if 0x10 ≤ ci.fn then polyFun table x else actFun ci.fn x

/-- GATE (R162). -/
def chnGate (env : ChnEnv) (ci : CInsn) (c : Chn) : Chn :=
  let slot := smGet {} (c.s.frame env.f).slots ci.cb
  if !slot.full then c.fail .chainSlot
  else
    let c := { c with valid := c.valid &&& slot.valid.toNat }
    let c := c.arith env ci fun m n x => (fmtFP32.mul .rne x ((slot.rows.getD m []).getD n 0)).1
    if ci.fn = 1 then { c with emptySlots := ci.cb :: c.emptySlots } else c

/-- HOLD (R162). What a column at or beyond NCOL holds is open (log 184). -/
def chnHold (env : ChnEnv) (ci : CInsn) (c : Chn) : Chn :=
  let slot := smGet {} (c.s.frame env.f).slots ci.cb
  if slot.full then c.fail .chainSlot
  else
    let rows := c.v.rows.mapIdx fun m r =>
      if c.valid.testBit m then (List.range 128).map fun n =>
        if n < env.j.ncol then c.v.f32 r n else Config.heldPad r m n % 2 ^ 32
      else []
    let x : Slot := { full := true, valid := BitVec.ofNat 64 c.valid, rows := rows
                      verify := if env.job.att.isNone && env.j.prov then some env.j.vslot else none }
    { c with s := c.s.modFrame env.f fun fr => { fr with slots := smSet {} fr.slots ci.cb x } }

/-- RESID. -/
def chnResid (env : ChnEnv) (ci : CInsn) (c : Chn) : Chn :=
  c.guardRead env (ci.reads env.j env.q) fun c =>
    c.arith env ci fun m n x =>
      (fmtFP32.add .rne x (memF32 c.s ci.fn (strided (env.q.addr ci.pa) (signedOf 32 ci.imm) m) n)).1

/-- The four blocks of a row under QUANT to a block format (R164); columns at or beyond NCOL count as zeros. DESIGN CHOICE: an element of
another format than FP32, BF16 and FP16, the sources of a block encode, is first rounded to FP32 by RNE, uncounted (log 214). -/
def quantRow (env : ChnEnv) (ci : CInsn) (b : BFmt) (v : CVal) (m : Nat) (r : List Nat) : List Block :=
  (List.range 4).map fun k =>
    b.encode (fun i => chainMode env ci m (32 * k + i)) ci.ovm
      ((List.range 32).map fun i =>
        let n := 32 * k + i
        if n < env.j.ncol then fmtFP32.decode (v.f32 r n) else .fin false 0 0)

/-- QUANT (R158, R164); of FP32 to FP32 it changes nothing. -/
def chnQuant (env : ChnEnv) (ci : CInsn) (c : Chn) : Chn :=
  match blockFmt ci.ifmt with
  | some b =>
    let bs := c.v.rows.mapIdx fun m r => if c.valid.testBit m then quantRow env ci b c.v m r else []
    let all := bs.flatMap fun x => x
    { c with
      v := { fmt := ci.ifmt, rows := bs.map fun x => x.flatMap Block.asRow },
      crush := c.crush + (all.map (·.crush)).foldl (· + ·) 0, ovf := c.ovf + (all.map (·.ovf)).foldl (· + ·) 0 }
  | none =>
    match blockFmt c.v.fmt, etypeOf c.v.fmt with
    | none, some src =>
      if ci.ifmt = 0 ∧ c.v.fmt = 0 then c
      else
      let t := convRows env ci src c.v.rows c.rows
      { c with v := { fmt := ci.ifmt, rows := t.1 }, ovf := c.ovf + t.2 }
    | _, _ => c.arith env ci fun _ _ x => x

/-- Bytes of a scalar-format row (R163). -/
def rowBytesOf (fmt ncol : Nat) (r : List Nat) : List Byte :=
  leBytes (rowBytes fmt ncol) (packCodes (fmtBits fmt) (r.take ncol))

/-- Write byte strings. -/
def Chn.put (c : Chn) (env : ChnEnv) (ws : List (Nat × List Byte)) : Chn := { c with s := c.s.writeMem env.rid ws }

/-- Set the group assembly buffer. -/
def Chn.setAssembly (c : Chn) (f : Nat) (a : Option Assembly) : Chn :=
  { c with s := c.s.modFrame f fun fr => { fr with assembly := a } }

/-- STORE (R163, R164); `k` is the instruction's chain store index. A block group is written at any byte address (log 154). -/
def chnStore (env : ChnEnv) (ci : CInsn) (k : Nat) (c : Chn) : Chn :=
  let base := env.q.addr ci.pa
  let pitch := signedOf 32 ci.imm
  let at' := fun m => strided base pitch m
  match blockFmt c.v.fmt with
  | none =>
    c.guard env (c.rows.map fun m => (at' m, rowBytes c.v.fmt env.j.ncol)) fun c =>
      c.put env (c.rows.map fun m => (at' m, rowBytesOf c.v.fmt env.j.ncol (c.v.rows.getD m [])))
  | some b =>
    let asm := (c.s.frame env.f).assembly
    match ci.fn % 4, asm with
    | 0, none =>
      c.guard env (c.rows.map fun m => (at' m, b.groupBytes)) fun c =>
        c.put env (c.rows.map fun m => (at' m, b.groupOf (rowBlocks (c.v.rows.getD m [] ++ zeroBlocks))))
    | 1, none =>
      c.setAssembly env.f (some {
        addr := base, pitch := pitch, fmt := BitVec.ofNat 5 c.v.fmt, valid := BitVec.ofNat 64 c.valid,
        rows := c.v.rows, who := env.job.who, pc := env.job.pc, idx := k, seq := env.job.seq })
    | 2, some a =>
      if a.addr ≠ base ∨ a.pitch ≠ pitch ∨ a.fmt.toNat ≠ c.v.fmt then c.fail .groupOpen
      else
        let both := (List.range 64).filter fun m => c.valid.testBit m || bitAt a.valid m
        c.guard env (both.map fun m => (at' m, b.groupBytes)) fun c =>
          (c.put env (both.map fun m =>
            let lo := if bitAt a.valid m then a.rows.getD m [] else zeroBlocks
            let hi := if c.valid.testBit m then c.v.rows.getD m [] else zeroBlocks
            (at' m, b.groupOf (rowBlocks (lo ++ hi))))).setAssembly env.f none
    | _, _ => c.fail .groupOpen

/-- One row of a KVAPP: write it through the page table, or note why not (R165, R254). -/
def kvRow (env : ChnEnv) (ci : CInsn) (g : Geom) (codes : List (List Nat)) (c : Chn) (m : Nat) : Chn :=
  let e := wordAt env.job.rowmap m
  let pos := fld e 37 0
  let ridx := fld e 52 38
  if c.fault.isSome || !(c.s.region env.rid).feeds ridx then c
  else
    let w := c.s.walk (c.s.halfOfFrame env.f) env.rid ridx 0 pos env.j.layer
    let c := { c with s := w.2 }
    match w.1 with
    | .page addr ro t =>
      if ro then { c with s := c.s.modRegion env.rid fun r => r.modStep ridx fun x => { x with readonly := true } }
      else
        let off := g.rowOffset (ci.fn % 2) env.q.kvhead t
        let bs := rowBytesOf ci.ifmt env.j.ncol (codes.getD m [])
        if 2 * g.keyBytes < off + bs.length then c.fail .badAddress
        else
          let w : KvWrite := { addr := addr + off, old := readBytes c.s.mem (addr + off) bs.length, new := bs, frame := env.f,
                               seq := env.job.seq }
          let c := c.put env [(addr + off, bs)]
          { c with
            s := c.s.modRegion env.rid fun r => { r with kvWrites := r.kvWrites ++ [w] }
            held := { c.held with kv := c.held.kv ++ [(ridx, env.j.layer, pos, env.q.kvhead * 2 + ci.fn % 2)] } }
    | x => { c with s := c.s.modRegion env.rid fun r => r.noteWalk ridx x }

/-- KVAPP (R165): the current value stays as it is. -/
def chnKvapp (env : ChnEnv) (ci : CInsn) (c : Chn) : Chn :=
  match (c.s.region env.rid).geom0 with
  | none => c.fail .kvFormat
  | some g =>
    if g.kvfmt.toNat ≠ ci.ifmt then c.fail .kvFormat
    else
      let x := c.arith env ci fun _ _ v => v
      c.rows.foldl (kvRow env ci g x.v.rows) { c with ovf := x.ovf }

/-- The pairwise tree over 128 columns, absent ones −0 (R131, R167). -/
def colTree (xs : List Nat) : Nat := (treeSum' 7 xs)
where
  /-- `n` levels of pairwise FP32 sums. -/
  treeSum' : Nat → List Nat → Nat
    | 0, xs => xs.headD 0
    | n + 1, xs => treeSum' n (pairs xs)
  /-- One level. -/
  pairs : List Nat → List Nat
    | a :: b :: r => (fmtFP32.add .rne a b).1 :: pairs r
    | r => r

/-- The statistic of a row for a TALLY kind (R167). -/
def rowStat (kind ncol : Nat) (xs : List Nat) : Nat :=
  match kind with
  | 0 => colTree (xs.take ncol ++ List.replicate (128 - ncol) 0x80000000)
  | 1 => colTree ((xs.take ncol).map (fun x => (fmtFP32.mul .rne x x).1) ++ List.replicate (128 - ncol) 0x80000000)
  | _ => (xs.take ncol).foldl (fun a x => (fmtFP32.minmax true a (x % 2 ^ 31)).1) 0

/-- TALLY (R167): 64 contributions to every frame of the target rectangle, in the name of the instruction at chain store index
k. -/
def chnTally (env : ChnEnv) (ci : CInsn) (k : Nat) (c : Chn) : Chn :=
  let targets := rectFrames c.s.nv env.q.tfirst env.q.tlast
  if env.q.tfirst ≥ c.s.nv.frames ∨ env.q.tlast ≥ c.s.nv.frames then c.fail .badAddress
  else if targets.any fun t => !(c.s.region env.rid).holdsFrame c.s.nv t then c.fail .regionEdge
  else
    let stats := (List.range 64).map fun m =>
      if c.valid.testBit m then
        rowStat ci.fn env.j.ncol ((List.range 128).map fun n => c.v.f32 (c.v.rows.getD m []) n)
      else 0
    let msg : TallyMsg := { buf := ci.rsb, index := env.q.tcont, rows := stats, largest := decide (ci.fn = 2), who := env.job.who,
                            pc := env.job.pc, idx := k, seq := env.job.seq }
    { c with held := { c.held with tallies := c.held.tallies ++ targets.map fun t => (t, msg) } }

/-- The row statistics of a complete buffer (R168). -/
def RStat.sum (b : RStat) (expect : Nat) (m : Nat) : Nat :=
  let xs := ((List.range expect).map fun i =>
    match b.present.find? fun p => decide (p.1 = i) with
    | some p => p.2.getD m 0
    | none => 0)
  match xs with
  | [] => 0
  | x :: r => r.foldl (fun a y => if b.largest then (fmtFP32.minmax true a y).1 else (fmtFP32.add .rne a y).1) x

/-- The row-statistic buffer that an RC = 1 instruction reads: where its job is executed again, as the first run read it (R177,
R168). -/
def Chn.buffer (c : Chn) (env : ChnEnv) (k : Nat) : RStat :=
  match env.job.stats.find? fun x => decide (x.1 = k) with
  | some x => x.2
  | none => smGet {} (c.s.frame env.f).rstat k

/-- RSCALE (R169). The buffer is cleared after the tile (R168), once for the job: contributions that have come since a run of it cleared
the buffer stay (log 209). -/
def chnRscale (env : ChnEnv) (ci : CInsn) (c : Chn) : Chn :=
  let buf := c.buffer env ci.rsb
  let r := fun m =>
    let S := buf.sum env.q.expect m
    match ci.fn / 2 with
    | 0 => rsqrtRn (fmtFP32.add .rne (fmtFP32.mul .rne S env.q.rsk).1 env.q.rseps).1
    | 1 => S
    | _ => (fmtFP32.mul .rne S env.q.rsk).1
  let rs := (List.range 64).map fun m => if c.valid.testBit m then r m else 0
  let c := c.arith env ci fun m _ x => (fmtFP32.mul .rne x (rs.getD m 0)).1
  if ci.fn % 2 = 1 ∧ !env.job.cleared.contains ci.rsb then { c with clearBufs := ci.rsb :: c.clearBufs } else c

/-- The bytes a row contributes to a digest (R172). -/
def CVal.digestRow (v : CVal) (ncol : Nat) (r : List Nat) : List Byte :=
  match blockFmt v.fmt with
  | none => rowBytesOf v.fmt ncol r
  | some b => ((rowBlocks r).take (ceilDiv ncol 32)).flatMap fun x =>
      leBytes b.blockBytes (packCodes b.bits x.codes) ++ [BitVec.ofNat 8 x.scale] ++
      (if b.offs then [BitVec.ofNat 8 x.offs] else [])

/-- DIGEST (R172). -/
def chnDigest (env : ChnEnv) (c : Chn) : Chn :=
  let crc := crc64 (c.rows.flatMap fun m => c.v.digestRow env.j.ncol (c.v.rows.getD m []))
  { c with held := { c.held with digests := c.held.digests ++
      [{ layer := env.j.layer, tidx := env.j.tidx, crc := crc, status := statusWord c.crush c.ovf c.exc }] } }

/-- PCOMB (R100, R171): the partials in PLIST order. -/
def chnPcomb (env : ChnEnv) (c : Chn) : Chn :=
  let ps := env.q.plist.take env.q.npart
  let others := ps.filter fun p => decide (p.1 ≠ env.f)
  c.guardRead env (others.map fun p => (storeAddr env.f p.2, 32768)) fun c =>
    let part := fun (p : Nat × Nat) (m n : Nat) =>
      if p.1 = env.f then (c.v.rows.getD m []).getD n 0 else readLe c.s.mem (storeAddr env.f p.2 + (128 * m + n) * 4) 4
    let add := fun a b => if c.v.fmt = 0x12 then (a + b) % 2 ^ 32 else (fmtFP32.add .rne a b).1
    let comb := fun m (r : List Nat) => (List.range 128).map fun n =>
      if n < env.j.ncol then
        (match ps with
         | [] => r.getD n 0
         | p :: rest => rest.foldl (fun a p => add a (part p m n)) (part p m n))
      else 0
    { c with v := { fmt := c.v.fmt, rows := mapRows c.v.rows c.rows comb } }

/-- PSEND (R170). -/
def chnPsend (env : ChnEnv) (ci : CInsn) (c : Chn) : Chn :=
  let a := env.q.addr ci.pa
  if a < storeBase then c.fail (if c.s.place a = .nowhere then .badAddress else .regionEdge)
  else c.guard env [(a, 32768)] fun c =>
    let bytes := (List.range 64).flatMap fun m => (List.range 128).flatMap fun n =>
      leBytes 4 (if c.valid.testBit m && decide (n < env.j.ncol) then c.v.f32 (c.v.rows.getD m []) n else 0)
    { (c.put env [(a, bytes)]) with held := { c.held with signals := c.held.signals ++ [(frameOfAddr a, ci.imm % 32)] } }

/-! ## Waits of a program (R168, R171) -/

/-- A row-complete wait is over: contributions 0 to EXPECT − 1 are all present, or one at or above EXPECT is (which
faults). -/
def RStat.ready (b : RStat) (expect : Nat) : Bool :=
  b.present.any (fun p => decide (expect ≤ p.1)) ||
  (List.range expect).all fun i => b.present.any fun p => decide (p.1 = i)

/-- Whether the wait of an instruction is over (R168, R171). -/
def Chn.waitOver (c : Chn) (env : ChnEnv) (ci : CInsn) : Bool :=
  (!ci.rc || (c.buffer env ci.rsb).ready env.q.expect) &&
  (!decide (ci.op = 0x0D) || decide (env.q.pwait ≤ ((c.s.frame env.f).counter env.q.pctr).toNat))

/-- A provisional job keeps the buffer that an RC = 1 instruction has read, for an execution again (R177). -/
def Chn.keepBuffer (c : Chn) (env : ChnEnv) (ci : CInsn) : Chn :=
  if ci.rc ∧ env.j.prov ∧ !(c.stats.any fun x => decide (x.1 = ci.rsb)) then
    { c with stats := c.stats ++ [(ci.rsb, c.buffer env ci.rsb)] }
  else c

/-- The instruction at `pos` of a program, whose wait is over. -/
def chnStep (env : ChnEnv) (ci : CInsn) (c : Chn) : Chn :=
  let k := env.j.cstart + c.pos
  if ci.rc && (c.buffer env ci.rsb).present.any (fun p => decide (env.q.expect ≤ p.1)) then c.fail .tallyDup
  else
    let c := { (c.keepBuffer env ci) with pre := none }
    let c' := match ci.op with
      | 0x01 => chnBias env ci c
      | 0x02 => chnScale env ci c
      | 0x03 => chnAct env ci c
      | 0x04 => chnGate env ci c
      | 0x05 => chnHold env ci c
      | 0x06 => chnResid env ci c
      | 0x07 => chnQuant env ci c
      | 0x08 => chnStore env ci k c
      | 0x09 => chnKvapp env ci c
      | 0x0A => chnTally env ci k c
      | 0x0B => chnRscale env ci c
      | 0x0C => chnDigest env c
      | 0x0D => chnPcomb env c
      | 0x0E => chnPsend env ci c
      | _ => c
    match c'.exc with
    | some _ => c'
    | none => { c' with exc := c'.v.firstExc c'.pre (c.pos + 1) env.j.ncol c'.rows }

/-- The instructions of a program in order, until one faults or has to wait. -/
def chnRun (env : ChnEnv) : List CInsn → Chn → Chn
  | [], c => c
  | ci :: r, c =>
    if !c.waitOver env ci then { c with waits := true }
    else
      let c := chnStep env ci c
      if c.fault.isSome then c else chnRun env r { c with pos := c.pos + 1 }

/-! ## The layer digest (R409, R413, R414) -/

/-- The key by which exceptions are ordered: TIDX, XSTAGE, XROW, XCOL (R409). -/
def excKey (tidx : Nat) (st : W64) : Nat := ((tidx * 128 + fld st 47 41) * 64 + fld st 40 35) * 128 + fld st 34 28

/-- Combine one contribution into a layer's entry (R409). -/
def LayerAcc.add (a : LayerAcc) (d : DigestMsg) : LayerAcc :=
  { a with
    digest := a.digest ^^^ d.crc.rotateLeft (d.tidx % 64), ntiles := a.ntiles + 1,
    crush := min (2 ^ 32 - 1) (a.crush + fld d.status 13 0), ovf := min (2 ^ 32 - 1) (a.ovf + fld d.status 27 14),
    first := if !bitAt d.status 50 then a.first else
      match a.first with
      | none => some (d.tidx, d.status)
      | some (t, st) => if excKey d.tidx d.status < excKey t st then some (d.tidx, d.status) else some (t, st) }

/-- Combine a contribution into a list of layers in rising order. -/
def addLayer (d : DigestMsg) : List LayerAcc → List LayerAcc
  | [] => [({ layer := d.layer } : LayerAcc).add d]
  | a :: r =>
    if d.layer < a.layer then ({ layer := d.layer } : LayerAcc).add d :: a :: r
    else if d.layer = a.layer then a.add d :: r
    else a :: addLayer d r

/-- A contribution enters the region's accumulator, and its trace where its layer is traced (R409, R413, R414). -/
def Region.addDigest (r : Region) (d : DigestMsg) : Region :=
  let r := { r with digest := addLayer d r.digest }
  match r.trace with
  | some (l, n) =>
    if l = d.layer ∧ 0 < n then
      if r.traces.length < 65536 then { r with traces := r.traces ++ [d] } else { r with overrun := true }
    else r
  | none => r

/-! ## Running a tile (R151, R176) -/

/-- Release the effects that R176 withholds: signals, tallies, digests, KV appends. -/
def State.release (s : State) (rid : Nat) (h : Withheld) : State :=
  let s := h.tallies.foldl (fun (s : State) t => s.modFrame t.1 fun fr => { fr with tallyIn := fr.tallyIn ++ [t.2] }) s
  let s := s.modRegion rid fun r =>
    { (h.digests.foldl Region.addDigest r) with kvMarks := r.kvMarks ++ h.kv }
  h.signals.foldl (fun (s : State) x => s.addSignal x.1 x.2 1) s

/-- State of a verify slot. -/
def Frame.vslot (fr : Frame) (k : Nat) : VState := smGet .idle fr.vslots k

/-- Whether a job's effects are withheld (R176), until it has been executed again where its slot was BAD (R177). -/
def Frame.withholds (fr : Frame) (job : Job) : Bool :=
  let j := jobFields job.words
  job.att.isNone && j.prov &&
  (decide (fr.vslot j.vslot = .pending) || decide (fr.vslot j.vslot = .bad) || fr.redo.contains j.vslot)

/-- What a job's program runs on. -/
def chnEnv (f rid : Nat) (job : Job) : ChnEnv :=
  let j := jobFields job.words
  { f := f, rid := rid, job := job, j := j, q := paramFields job.params }

/-- A program before its first instruction: the current value is the accumulator tile (R158). -/
def Chn.start (s : State) (env : ChnEnv) : Chn :=
  let v : CVal := { fmt := env.j.accFmt, rows := env.job.acc }
  { s := s, v := v, valid := env.j.fed, exc := v.firstExc none 0 env.j.ncol env.j.rows, stats := env.job.stats }

/-- A program that waited, where it stands. -/
def Chn.resume (s : State) (x : Course) : Chn :=
  { s := s, v := { fmt := x.fmt, rows := x.rows }, valid := x.valid, pos := x.next, crush := x.crush, ovf := x.ovf,
    exc := x.exc.map fun e => { stage := e.1, row := e.2.1, col := e.2.2.1, kind := e.2.2.2 }, held := x.job.held,
    stats := x.stats, emptySlots := x.emptySlots, clearBufs := x.clearBufs }

/-- What a program that waits leaves in its frame. -/
def Chn.course (c : Chn) (job : Job) : Course :=
  { job := { job with held := c.held }, stats := c.stats, next := c.pos, fmt := c.v.fmt, rows := c.v.rows, valid := c.valid,
    crush := c.crush, ovf := c.ovf, exc := c.exc.map fun e => (e.stage, e.row, e.col, e.kind), emptySlots := c.emptySlots,
    clearBufs := c.clearBufs }

/-- The end of a program's run: slots and buffers are emptied, the counters advance, the tile status word is formed, and a
fault is recorded (R77, R149, R162, R168, R179). -/
def Chn.finish (c : Chn) (env : ChnEnv) : State × Job :=
  let s := c.s.modFrame env.f fun fr => { fr with
    slots := c.emptySlots.foldl (fun m k => smSet {} m k {}) fr.slots,
    rstat := c.clearBufs.foldl (fun m k => smSet {} m k {}) fr.rstat }
  let s := s.countFrame env.f c.crush c.ovf
  (match c.fault with
   | some code => s.regionFault env.rid
       (faultRecord code env.job.who env.job.pc (chainFaultAddr (env.j.cstart + c.pos) env.job.seq))
   | none => s,
   { env.job with status := statusWord c.crush c.ovf c.exc, held := c.held, stats := c.stats,
                  cleared := env.job.cleared ++ c.clearBufs })

/-- Let a program go on from where it stands, to its end or its next wait (R151, R168, R171): the state, and the job, or the
program as it waits. -/
def Chn.goOn (c : Chn) (env : ChnEnv) : State × Job × Option Course :=
  let c := chnRun env (((c.s.frame env.f).program env.j).drop c.pos) c
  if c.waits then
    let x := { c with waits := false }.course env.job
    (c.s, x.job, some x)
  else
    let r := c.finish env
    (r.1, r.2, none)

/-- Run the chain program of a job on its accumulator tile (R151, R158). -/
def State.runTile (s : State) (f rid : Nat) (job : Job) : State × Job × Option Course :=
  let env := chnEnv f rid job
  (Chn.start s env).goOn env

end Sys2Proof.Machine
end

