-- ==== Sys2Proof/Machine/Place.lean ====
section
/-! DEFINITION. Module coordinates, the members of collective groups, and the places of ring-attention members (07: R234, R235; 12:
R361, R365 to R367, Table 12-3, Table 12-10). -/

namespace Sys2Proof.Machine

/-! ## FAB_COORD (Table 12-10) -/

/-- Rack number of the module. -/
def State.rackNo (s : State) : Nat := fld s.fab.coord 6 0

/-- Tray of the module. -/
def State.tray (s : State) : Nat := fld s.fab.coord 9 7

/-- Slot of the module. -/
def State.slotNo (s : State) : Nat := fld s.fab.coord 12 10

/-- L3MODE: 0 NONE, 1 CHAIN, 2 RING, 3 TREE. -/
def State.l3mode (s : State) : Nat := fld s.fab.coord 14 13

/-- Rack position of the module. -/
def State.rackPos (s : State) : Nat := fld s.fab.coord 21 15

/-- NRACK. -/
def State.nrack (s : State) : Nat := fld s.fab.coord 28 22 + 1

/-- A member coordinate as SENDER of Table 12-7 codes it. -/
def coordOf (rack tray slot half : Nat) : BitVec 14 := BitVec.ofNat 14 (rack * 128 + tray * 16 + slot * 2 + half)

/-- The module's own coordinate, half 0. -/
def State.self (s : State) : BitVec 14 := coordOf s.rackPos s.tray s.slotNo 0

/-- The module of a member coordinate: half 0 of it. -/
def moduleOf (c : BitVec 14) : BitVec 14 := c &&& 0x3FFE

/-! ## Group descriptors (Table 12-3) -/

/-- The fields of a group descriptor. -/
structure GroupD where
  gid : Nat
  rid : Nat
  half : Bool
  slot : Bool
  tray : Bool
  rack : Bool
  drizzle : Bool
  serving : Bool
  pshare : Bool
  racks : Nat × Nat
  trays : Nat × Nat
  slots : Nat × Nat
deriving DecidableEq, Repr

/-- Read the fields out of the descriptor. -/
def groupFields (w0 w1 : W64) : GroupD :=
  { gid := fld w0 11 0, rid := fld w0 13 12, half := bitAt w0 14, slot := bitAt w0 15, tray := bitAt w0 16, rack := bitAt w0 17,
    drizzle := bitAt w0 18, serving := bitAt w0 19, pshare := bitAt w0 20, racks := (fld w1 6 0, fld w1 13 7),
    trays := (fld w1 16 14, fld w1 19 17), slots := (fld w1 22 20, fld w1 25 23) }

/-- The fields of a group. -/
def Group.d (g : Group) : GroupD := groupFields g.w0 g.w1

/-- Numbers lo to hi. -/
def span (x : Nat × Nat) : List Nat := (List.range (x.2 + 1 - x.1)).map (x.1 + ·)

/-- Member modules of a group, in increasing position (R365). -/
def State.modules (s : State) (g : GroupD) : List (BitVec 14) :=
  (if g.rack then span g.racks else [s.rackPos]).flatMap fun r =>
    (if g.tray then span g.trays else [s.tray]).flatMap fun t =>
      (if g.slot then span g.slots else [s.slotNo]).map fun k => coordOf r t k 0

/-- Members of a group, in ring order: increasing position (R365). -/
def State.members (s : State) (g : GroupD) : List (BitVec 14) :=
  (s.modules g).flatMap fun m => if g.half then [m, m ||| 1] else [m]

/-- CRC-32C of a group descriptor (R367). -/
def Group.crc (g : Group) : W32 := crc32c (leBytes 8 g.w0.toNat ++ leBytes 8 g.w1.toNat)

/-- Group gid of a region, if it is set. A set group has its own GID in its descriptor or is listed at all. -/
def Region.group? (r : Region) (gid : Nat) : Option Group := (r.groups.find? fun (x : Nat × Group) => decide (x.1 = gid)).map (·.2)

/-- Change a group that is set. -/
def Region.modGroup (r : Region) (gid : Nat) (f : Group → Group) : Region :=
  { r with groups := r.groups.map fun (x : Nat × Group) => if x.1 = gid then (x.1, f x.2) else x }

/-! ## Ring attention (R234, R235) -/

/-- Members of a ring-attention group (R234). -/
def State.ringMembers (s : State) (n gid : Nat) : List (BitVec 14) :=
  match (s.region n).group? gid with
  | some g => s.modules g.d
  | none => []

/-- Position in the sequence of local position i of the member at ring position r (R235). -/
def ringPos (shard : Bool) (n p r i : Nat) : Nat :=
  if shard then (if i < p / 2 then r * (p / 2) + i else (2 * n - 1 - r) * (p / 2) + (i - p / 2)) else r * p + i

/-- The local position, of the member at ring position r, of one of its positions in the sequence (R235). -/
def ringLocal (shard : Bool) (n p r q : Nat) : Nat :=
  if shard then (if q < (r + 1) * (p / 2) then q - r * (p / 2) else q - (2 * n - 1 - r) * (p / 2) + p / 2) else q - r * p

end Sys2Proof.Machine
end

