-- ==== Sys2Proof/Machine/Attention.lean ====
section
/-! DEFINITION. The attention engine's descriptors and data (07: R206 to R220, R224, R225, R242, R243): length tables, row groups,
visibility, the layout of the attention area, registers and operands. -/

namespace Sys2Proof.Machine

/-! ## The descriptor (Table 7-1, R211) -/

/-- The fields of an attention descriptor. -/
structure AttP where
  mode : Nat
  layer : Nat
  qh : Nat
  kvh : Nat
  hpass : Nat
  qfmt : Nat
  kvfmt : Nat
  pfmt : Nat
  ofmt : Nat
  split : Nat
  causal : Bool
  rot : Bool
  rotpair : Bool
  savestat : Bool
  dig : Bool
  ring : Bool
  shard : Bool
  smscale : Nat
  eng : Nat
  qaddr : Nat
  oaddr : Nat
  stataddr : Nat
  thaddr : Nat
  doaddr : Nat
  dqaddr : Nat
  dkvaddr : Nat
  attbase : Nat
  wframe : Nat
  wctr : Nat
  wval : Nat
  dfirst : Nat
  dlast : Nat
  dctr : Nat
  rgroup : Nat
  rord : W32
  ringbuf : Nat
  tbase : Nat
deriving DecidableEq, Repr

/-- Read the fields out of the 16 words. -/
def attFields (w : List W64) : AttP :=
  let g := fun k hi lo => fld (wordAt w k) hi lo
  let b := fun k i => bitAt (wordAt w k) i
  { mode := g 0 1 0, layer := g 0 13 2, qh := g 0 21 14 + 1, kvh := g 0 29 22 + 1, hpass := g 0 31 30 + 1,
    qfmt := g 0 36 32, kvfmt := g 0 41 37, pfmt := g 0 46 42, ofmt := g 0 51 47, split := g 0 55 52 + 1,
    causal := b 0 56, rot := b 0 57, rotpair := b 0 58, savestat := b 0 59, dig := b 0 60, ring := b 0 61,
    shard := b 0 62, smscale := g 1 31 0, eng := g 1 35 32, qaddr := g 2 47 0, oaddr := g 3 47 0, stataddr := g 4 47 0,
    thaddr := g 5 47 0, doaddr := g 6 47 0, dqaddr := g 7 47 0, dkvaddr := g 8 47 0, attbase := g 9 57 36,
    wframe := g 11 8 0, wctr := g 11 13 9, wval := g 11 45 14, dfirst := g 12 8 0, dlast := g 12 17 9,
    dctr := g 12 22 18, rgroup := g 13 11 0, rord := BitVec.ofNat 32 (g 13 43 12), ringbuf := g 14 47 0,
    tbase := g 15 23 0 }

/-- Head dimension. -/
def AttP.hd (a : AttP) : Nat := 64 * a.hpass

/-- Query heads of a KV head. -/
def AttP.g (a : AttP) : Nat := a.qh / a.kvh

/-- The reserved bits of a descriptor are 0, the fields unused in its mode among them (Table 7-1). -/
def attReserved (w : List W64) : Bool :=
  let g := fun k hi lo => fld (wordAt w k) hi lo
  decide (g 0 63 63 = 0) && decide (g 1 63 36 = 0) && (List.range 7).all (fun k => decide (g (k + 2) 63 48 = 0)) &&
  decide (g 9 63 58 = 0) && decide (g 10 63 36 = 0) && decide (g 11 63 46 = 0) && decide (g 12 63 23 = 0) &&
  decide (g 13 63 44 = 0) && decide (g 14 63 48 = 0) && decide (g 15 63 24 = 0) &&
  (List.range 4).all fun e => (attRect w e).isSome || decide (fld (wordAt w (if e < 2 then 9 else 10)) (18 * (e % 2) + 17) (18 * (e % 2)) = 0)

/-- The record of an engine fault (R243): the first corner of the rectangle that holds a frame, and the descriptor's
index × 8 as pc. -/
def engineRecord (code corner desc addr : Nat) : BitVec 128 :=
  BitVec.ofNat 128 (code + 2 ^ 8 * corner + 2 ^ 23 * (8 * desc % 2 ^ 17) + 2 ^ 64 * (addr % 2 ^ 48))

/-- First corner of the rectangle of a descriptor that holds a frame. -/
def attCorner (nv : NonVol) (d : List W64) (f : Nat) : Nat :=
  match (List.range 4).findSome? fun e => match attRect d e with
    | some r => if (rectFrames nv r.1 r.2).contains f then some r.1 else none
    | none => none with
  | some c => c
  | none => 0

/-- Addresses that a descriptor of a mode uses. -/
def AttP.addrs (a : AttP) : List Nat :=
  [a.qaddr, a.oaddr] ++ (if a.savestat || decide (a.mode = 2) then [a.stataddr] else []) ++
  (if a.rot then [a.thaddr] else []) ++ (if a.mode = 2 then [a.doaddr, a.dqaddr, a.dkvaddr] else []) ++
  (if a.ring then [a.ringbuf] else [])

/-- Fields that the descriptor's mode and flags do not use hold 0 (Table 7-1). -/
def AttP.unusedZero (a : AttP) : Bool :=
  (a.savestat || decide (a.mode = 2) || decide (a.stataddr = 0)) && (a.rot || (decide (a.thaddr = 0) && !a.rotpair)) &&
  (decide (a.mode = 2) || (decide (a.doaddr = 0) && decide (a.dqaddr = 0) && decide (a.dkvaddr = 0))) &&
  (a.ring || (decide (a.rgroup = 0) && decide (a.rord = 0) && decide (a.ringbuf = 0) && !a.shard)) &&
  (a.dig || decide (a.tbase = 0))

/-- An address lies in the region's windows; its control and sampler areas lie in them too (R197, R198, R210, R320). -/
def State.inWindows (s : State) (rid x : Nat) : Bool :=
  match s.place x with
  | .tier1 k _ => decide (k = rid)
  | .tier2 k _ => decide (k = rid)
  | _ => false

/-- A descriptor is malformed for a region (R211). -/
def State.badAtt (s : State) (rid : Nat) (w : List W64) : Bool :=
  let a := attFields w
  let r := s.region rid
  let holds := fun f => r.holdsFrame s.nv f
  let rects := (List.range 4).filterMap fun e => attRect w e
  let sets := rects.map fun x => rectFrames s.nv x.1 x.2
  !attReserved w || !a.unusedZero || decide (a.mode = 3) || decide (a.qh % a.kvh ≠ 0) || decide (16 < a.g) ||
  !isPageFmt a.qfmt || !isPageFmt a.kvfmt || !([0x04, 0x02, 0x03].contains a.pfmt) ||
  !([0x00, 0x02, 0x03, 0x04, 0x05].contains a.ofmt) ||
  (match r.geom0 with | some g => decide (g.kvfmt.toNat ≠ a.kvfmt) | none => false) ||
  decide (a.eng = 0) ||
  (List.range 4).any (fun e => a.eng.testBit e && !r.holdsStop (.engine e)) ||
  !holds a.wframe || !holds a.dfirst || !holds a.dlast ||
  rects.any (fun x => !decide (x.1 < s.nv.frames) || !decide (x.2 < s.nv.frames)) ||
  sets.any (fun fs => decide (fs.length < 2) || decide (128 < fs.length) || fs.any fun f => !holds f) ||
  hasDup (sets.flatMap fun x => x) ||
  decide (a.attbase % 0x10000 ≠ 0) || !inStore a.attbase 0x80000 ||
  (decide (a.mode = 2) && (decide (2 < a.hpass) || decide (1 < a.split) || a.ring)) ||
  (a.ring && (decide (a.mode ≠ 0) || decide (t1Base rid + r.t1Size ≤ a.ringbuf))) || a.addrs.any fun x => !s.inWindows rid x

/-- The attention list of a region's image. -/
def State.attList (s : State) (rid : Nat) : List (List W64) :=
  match (s.region rid).image with
  | some im => im.attention
  | none => []

/-- The descriptor's words; none where the list has no such entry. -/
def State.attDesc (s : State) (rid n : Nat) : Option (List W64) := (s.attList rid)[n]?

/-! ## Row groups (R215 to R220) -/

/-- Address of a length table: the prompt table stands at the start of the firmware state of Table 8-3, the token table
512 KiB above it (log 109). -/
def State.tableBase (s : State) (rid : Nat) (token : Bool) : Nat :=
  (s.region rid).ctlBase rid + 0xFC00000 + (if token then 0x80000 else 0)

/-- Entries of a length table. -/
def Region.tableLen (r : Region) (token : Bool) : Nat := if token then r.tokenN else r.promptN

/-- The two words of entry k of a length table (R215). -/
def State.tableWords (s : State) (rid : Nat) (token : Bool) (k : Nat) : List W64 :=
  wordsOf 2 (readBytes s.mem (s.tableBase rid token + 16 * k) 16)

/-- The fields of an entry (Table 7-2). -/
def tableEntry (w : List W64) : LtEntry :=
  { ridx := fld (wordAt w 0) 14 0, qcount := fld (wordAt w 0) 33 16 + 1, qstart := fld (wordAt w 1) 37 0 }

/-- The bytes of an entry (Table 7-2). -/
def LtEntry.bytes (x : LtEntry) : List Byte := leBytes 8 (x.ridx + 2 ^ 16 * (x.qcount - 1)) ++ leBytes 8 x.qstart

/-- An entry has a reserved field that is not 0, or a QCOUNT out of range (R215, R243). -/
def badEntry (token : Bool) (w : List W64) : Bool :=
  let g := fun k hi lo => decide (fld (wordAt w k) hi lo ≠ 0)
  g 0 15 15 || g 0 63 34 || g 1 63 38 || (token && decide (16 < (tableEntry w).qcount))

/-- A length table as it stands in the control area (R198, R215). -/
def State.lengthTable (s : State) (rid : Nat) (token : Bool) : List LtEntry :=
  (List.range ((s.region rid).tableLen token)).map fun k => tableEntry (s.tableWords rid token k)

/-- An entry as a ring-attention member takes it: its first query position counted among the member's own positions (R234, R235, R248;
log 203). -/
def State.ringEntry (s : State) (rid : Nat) (a : AttP) (x : LtEntry) : LtEntry :=
  let ms := s.ringMembers rid a.rgroup
  { x with qstart := ringLocal a.shard ms.length (s.req x.ridx).promptLen (ms.idxOf s.self) x.qstart }

/-- The length table a descriptor reads (R215). -/
def State.attTable (s : State) (rid : Nat) (a : AttP) : List LtEntry :=
  (s.lengthTable rid (decide (a.mode = 1))).map fun x => if a.ring then s.ringEntry rid a x else x

/-- The address of the first malformed entry of the table a mode reads (R243). -/
def State.badTable (s : State) (rid : Nat) (a : AttP) : Option Nat :=
  let token := decide (a.mode = 1)
  ((List.range ((s.region rid).tableLen token)).find? fun k => badEntry token (s.tableWords rid token k)).map fun k =>
    s.tableBase rid token + 16 * k

/-- Query rows of the entries before entry e (R216). -/
def rowsBefore (t : List LtEntry) (e : Nat) : Nat := ((t.take e).map (·.qcount)).foldl (· + ·) 0

/-- Key positions of an entry (R215). -/
def LtEntry.klen (x : LtEntry) : Nat := x.qstart + x.qcount

/-- Row groups per KV head in token mode (R218). -/
def AttP.ntile (a : AttP) (t : Nat) : Nat := ceilDiv a.g (64 / t)

/-- First head, among a KV head's, and number of heads of token-mode group k (R218). -/
def AttP.groupHeads (a : AttP) (t k : Nat) : Nat × Nat :=
  let nt := a.ntile t
  let more := a.g % nt
  let big := ceilDiv a.g nt
  let small := a.g / nt
  if k < more then (k * big, big) else (more * big + (k - more) * small, small)

/-- One fed row: token row m, query head, query position, and query row of the table. -/
structure FedRow where
  m : Nat
  head : Nat
  pos : Nat
  row : Nat
deriving DecidableEq, Repr

/-- The fed rows of a row group (R217, R218). -/
def fedRows (a : AttP) (t : List LtEntry) (g : RowGroup) : List FedRow :=
  match t[g.entry]? with
  | none => []
  | some x =>
    let base := rowsBefore t g.entry
    if a.mode = 1 then
      let hs := a.groupHeads x.qcount g.tile
      (List.range (hs.2 * x.qcount)).map fun m =>
        { m := m, head := g.head * a.g + hs.1 + m / x.qcount, pos := x.qstart + m % x.qcount, row := base + m % x.qcount }
    else
      (List.range (min 64 (x.qcount - 64 * g.tile))).map fun m =>
        { m := m, head := g.head, pos := x.qstart + 64 * g.tile + m, row := base + 64 * g.tile + m }

/-- KV head of a row group. -/
def AttP.kvOf (a : AttP) (g : RowGroup) : Nat := if a.mode = 1 then g.head else g.head / a.g

/-- Largest query position of a row group's fed rows. -/
def qmaxOf (rows : List FedRow) : Nat := rows.foldl (fun q r => max q r.pos) 0

/-- Whether key position n is visible at query position q (R219). -/
def AttP.visible (a : AttP) (klen q n : Nat) : Bool := decide (n < klen) && (!a.causal || decide (n ≤ q))

/-- Whether the engine issues the block of keys from `kbase` for a row group (R220). -/
def AttP.issues (a : AttP) (klen qmax kbase : Nat) : Bool := decide (kbase < klen) && (!a.causal || decide (kbase ≤ qmax))

/-- Key blocks of an entry that a row group sees, by their first positions (R220). -/
def AttP.blocksOf (a : AttP) (x : LtEntry) (rows : List FedRow) : List Nat :=
  ((List.range (ceilDiv x.klen 128)).map fun b => 128 * b).filter fun k => a.issues x.klen (qmaxOf rows) k

/-- Frame f as a thread for a record of its engine's jobs: core 0, context 0 (R243). -/
def engineThread (f : Nat) : ThreadId := { frame := ⟨f % 384, Nat.mod_lt _ (by decide)⟩, core := 0, ctx := 0 }

/-! ## Operands of the engine's jobs (R216, R223 to R225) -/

/-- Address of a query-layout row (R216). -/
def AttP.rowAddr (a : AttP) (base fmt : Nat) (r : FedRow) : Nat := base + ((r.row * a.qh + r.head) * a.hd) * (fmtBits fmt / 8)

/-- A row of `n` elements of a scalar format, as FP32. -/
def f32Row (m : List Host.Cell) (fmt a n : Nat) : List Nat := (List.range n).map fun i => toF32 fmt (scalarElemAt m (fmtBits fmt) a i)

/-- Rotate a vector at position p (R224); x and y are exact in FP32. -/
def rotateVec (thetas : List Nat) (pair : Bool) (p : Nat) (xs : List Nat) : List Nat :=
  let h := xs.length / 2
  let neg := fun x => fmtFP32.negBits x
  let half := fun i =>
    let a := (fmtFP64.mul .rne (fmtFP64.ieee .rne false p 0).1 (thetas.getD i 0)).1
    let c := trigRn true a
    let s := trigRn false a
    let x := xs.getD (if pair then i else 2 * i) 0
    let y := xs.getD (if pair then i + h else 2 * i + 1) 0
    ((fmtFP32.fma .rne c x (neg (fmtFP32.mul .rne s y).1)).1, (fmtFP32.fma .rne c y (fmtFP32.mul .rne s x).1).1)
  let rs := (List.range h).map half
  (List.range xs.length).map fun i =>
    if pair then (if i < h then (rs.getD i (0, 0)).1 else (rs.getD (i - h) (0, 0)).2)
    else if i % 2 = 0 then (rs.getD (i / 2) (0, 0)).1 else (rs.getD (i / 2) (0, 0)).2

/-- Convert a row of FP32 to a format by RNE and SAT: codes and the count of R54. -/
def satRow (fmt : Nat) (xs : List Nat) : List Nat × Nat :=
  match etypeOf fmt with
  | none => (xs, 0)
  | some t =>
    let cs := xs.map fun x => convert (.flt fmtFP32) t .rne false x
    (cs.map (·.bits), (cs.filter fun c => c.counted).length)

/-- The rotation table (R224). -/
def State.thetas (s : State) (a : AttP) : List Nat := (List.range (a.hd / 2)).map fun i => readLe s.mem (a.thaddr + 8 * i) 8

/-- A staged vector from its codes in memory: rotated where ROT asks for it and converted back, with the count of substitutions
(R224). -/
def State.stage (s : State) (a : AttP) (fmt p : Nat) (codes : List Nat) : List Nat × Nat :=
  if a.rot then satRow fmt (rotateVec (s.thetas a) a.rotpair p (codes.map (toF32 fmt))) else (codes, 0)

/-- The codes of a row of `n` elements in memory. -/
def rowCodes (m : List Host.Cell) (fmt a n : Nat) : List Nat := codesOf (fmtBits fmt) n (readLe m a (n * fmtBits fmt / 8))

/-- The codes that a byte string holds. -/
def bytesCodes (fmt n : Nat) (bs : List Byte) : List Nat := codesOf (fmtBits fmt) n (leNat bs)

/-- What a job of an engine needs: descriptor, table entry, fed rows. -/
structure AttCtx where
  a : AttP
  x : LtEntry
  rows : List FedRow
  t : List LtEntry
deriving DecidableEq, Repr

/-- The surroundings of an engine's job. -/
def State.attCtx (s : State) (j : AttJob) : AttCtx :=
  let a := attFields ((s.attDesc j.group.rid j.group.desc).getD [])
  let t := s.attTable j.group.rid a
  let rows := fedRows a t j.group
  { a := a, t := t, x := (t[j.group.entry]?).getD { ridx := 0, qcount := 1, qstart := 0 },
    rows := match j.ring with
      | some x => rows.map fun r => { r with pos := ringPos a.shard x.n x.p x.me r.pos }
      | none => rows }

/-- Position of the i-th key of a job's block: in a shard, that of its member (R220, R235). -/
def AttCtx.keyPos (c : AttCtx) (j : AttJob) (i : Nat) : Nat :=
  match j.ring with
  | some x => ringPos c.a.shard x.n x.p x.src (j.kbase + i)
  | none => j.kbase + i

/-- The end of the key positions that visibility looks at (R219): the sequence's in ring attention. -/
def AttCtx.keyEnd (c : AttCtx) (j : AttJob) : Nat :=
  match j.ring with
  | some x => x.n * x.p
  | none => c.x.klen

/-- Key positions of the job's block that exist (R220). -/
def AttCtx.ncol (c : AttCtx) (j : AttJob) : Nat := min 128 (c.x.klen - j.kbase)

/-! ## The attention area (R213; the layout is the engine's own, log 156) -/

/-- Offset of the query feed stream of slot A or B; in the backward pass of the query stream. -/
def qOff (slot : Nat) : Nat := slot * 0xA000

/-- Offset of the key stationary block of a buffer (forward), and of the value stationary blocks. -/
def kOff (buf : Nat) : Nat := 0x14000 + buf * 0x10000
def vOff (buf : Nat) : Nat := 0x34000 + buf * 0x10000

/-- Offset of the probability feed stream of slot A or B. -/
def pOff (slot : Nat) : Nat := 0x54000 + slot * 0x6000

/-- Offset of the places where parts arrive. -/
def zoneOff : Nat := 0x60000

/-- Backward: dO stream, keys and values with columns as keys, keys, dO and Q with columns as dimensions, probabilities and dS as
rows and, for keys 0 to 63 and 64 to 127, transposed. -/
def bGrad : Nat := 0x6000
def bKey : Nat := 0xC000
def bVal : Nat := 0x14000
def bKeyDim : Nat := 0x1C000
def bGradDim : Nat := 0x24000
def bQueryDim : Nat := 0x28000
def bProb : Nat := 0x2C000
def bProbT (h : Nat) : Nat := 0x32000 + h * 0x4000
def bDs : Nat := 0x3A000
def bDsT (h : Nat) : Nat := 0x40000 + h * 0x4000

/-- Bytes of one stationary block of the page element format. -/
def AttP.statSize (a : AttP) (fmt : Nat) : Nat := statBlockBytes fmt ((pairClass a.pfmt fmt).getD .eight)

/-- Stationary blocks whose columns are the vectors listed and whose depth is their elements, `np` passes of them (R96, R223). -/
def statBlocks (fmt np : Nat) (col : Nat → List Nat) : List Byte :=
  let cs := (List.range 128).map col
  (List.range np).flatMap fun p => statRowsOf fmt .eight p fun n k => (cs.getD n []).getD k 0

/-- Column n of rows of codes: element n of every row, by depth position. -/
def columnOf (rows : List (List Nat)) (n : Nat) : List Nat := rows.map fun r => r.getD n 0

/-- A feed stream of 64 rows of codes; an empty row is not fed (R94, R225, R226). -/
def rowStream (fmt np : Nat) (rows : List (List Nat)) : List Byte :=
  feedStreamOf fmt .eight np fun m k => (rows.getD m []).getD k 0

/-- Code k of row m of a feed stream at an address. -/
def streamCode (m : List Host.Cell) (fmt a row k : Nat) : Nat :=
  scalarElemAt m (fmtBits fmt) (a + (64 * (k / 64) + row + k % 64) * feedWordBytes fmt .eight) (k % 64)

/-- The 64 rows of a tile, from the fed rows and what each holds. -/
def placeRows (rows : List FedRow) (vals : List (List Nat)) : List (List Nat) :=
  (List.range 64).map fun m =>
    match (rows.zip vals).find? fun x => decide (x.1.m = m) with
    | some x => x.2
    | none => []

/-- The FED mask of fed rows. -/
def fedMask (rows : List FedRow) : Nat := rows.foldl (fun n r => n ||| 2 ^ r.m) 0

/-- The descriptor words of a job without side plane or row shift (Table 4-6). -/
def deckWords (fed feed wblk npass ncol afmt wfmt : Nat) : List W64 :=
  [BitVec.ofNat 64 fed, BitVec.ofNat 64 feed,
   BitVec.ofNat 64 (wblk + 2 ^ 22 * (npass - 1) + 2 ^ 34 * 63 + 2 ^ 41 * (ncol - 1) + 2 ^ 48 * afmt + 2 ^ 53 * wfmt), 0, 0, 0, 0, 0]

/-- The tile job that an engine enters for a job of its plan (R220, R225 to R227, R239; Table 7-5): its operands are streams and
blocks of the attention area. A value job has the block's 128 key positions as its depth (R230, log 61). -/
def State.attWords (s : State) (j : AttJob) : List W64 :=
  let c := s.attCtx j
  let a := c.a
  let n := c.ncol j
  let at' := fun off => j.area + off
  let fed := fedMask c.rows
  let keys := fun (h : Nat) => 2 ^ min 64 (n - 64 * h) - 1
  match j.step with
  | .score => deckWords fed (at' (qOff j.slot)) (at' (kOff j.buf)) a.hpass n a.qfmt a.kvfmt
  | .value k => deckWords fed (at' (pOff j.slot)) (at' (vOff j.buf + 2 * k * a.statSize a.kvfmt)) 2 (min 128 (a.hd - 128 * k))
      a.pfmt a.kvfmt
  | .backward 0 => deckWords fed (at' (qOff 0)) (at' bKey) a.hpass n a.qfmt a.kvfmt
  | .backward 1 => deckWords fed (at' bGrad) (at' bVal) a.hpass n a.qfmt a.kvfmt
  | .backward 6 => deckWords fed (at' bDs) (at' bKeyDim) 2 a.hd a.pfmt a.kvfmt
  | .backward k =>
    if k < 4 then deckWords (keys (k % 2)) (at' (bProbT (k % 2))) (at' bGradDim) 1 a.hd a.pfmt a.qfmt
    else deckWords (keys (k % 2)) (at' (bDsT (k % 2))) (at' bQueryDim) 1 a.hd a.pfmt a.qfmt

/-! ## Registers (R214) -/

/-- Attention accumulator k. -/
def AttRegs.acc (r : AttRegs) (k : Nat) : List (List Nat) :=
  match k with | 0 => r.acc0 | 1 => r.acc1 | 2 => r.acc2 | _ => r.acc3

/-- Set attention accumulator k. -/
def AttRegs.setAcc (r : AttRegs) (k : Nat) (x : List (List Nat)) : AttRegs :=
  match k with
  | 0 => { r with acc0 := x } | 1 => { r with acc1 := x } | 2 => { r with acc2 := x } | _ => { r with acc3 := x }

/-- The 64 entries of a slot in a register of 128 rows. -/
def slotRows (xs : List Nat) (slot : Nat) : List Nat := (List.range 64).map fun m => xs.getD (64 * slot + m) 0

/-- Replace the 64 entries of a slot in a register of 128 rows. -/
def setSlotRows (xs : List Nat) (slot : Nat) (new : List Nat) : List Nat :=
  (List.range 128).map fun i => if i / 64 = slot then new.getD (i % 64) 0 else xs.getD i 0

/-- The registers of one slot, as registers of slot A. -/
def AttRegs.only (r : AttRegs) (slot : Nat) : AttRegs :=
  { acc0 := r.acc (2 * slot), acc1 := r.acc (2 * slot + 1), max := slotRows r.max slot, sum := slotRows r.sum slot,
    alpha := slotRows r.alpha slot }

/-- Load one slot from registers of slot A. -/
def AttRegs.load (r : AttRegs) (slot : Nat) (x : AttRegs) : AttRegs :=
  let r := (r.setAcc (2 * slot) x.acc0).setAcc (2 * slot + 1) x.acc1
  { r with max := setSlotRows r.max slot x.max, sum := setSlotRows r.sum slot x.sum, alpha := setSlotRows r.alpha slot x.alpha }

/-- −∞ in FP32. -/
def negInf : Nat := 0xFF800000

/-- Registers before a row group's first block (R226). -/
def AttRegs.fresh : AttRegs := { max := List.replicate 64 negInf }

/-- What the engine keeps with a row group on a frame. -/
def Frame.rg (fr : Frame) (g : RowGroup) : RgState := (fr.rgs.find? fun x => decide (x.group = g)).getD { group := g }

/-- Replace what the engine keeps with a row group. -/
def Frame.setRg (fr : Frame) (x : RgState) : Frame :=
  { fr with rgs := (fr.rgs.filter fun y => decide (y.group ≠ x.group)) ++ [x] }

/-- A row group is finished on a frame. -/
def Frame.dropRg (fr : Frame) (g : RowGroup) : Frame :=
  { fr with rgs := fr.rgs.filter fun y => decide (y.group ≠ g), attA := if fr.attA = some g then none else fr.attA,
            attB := if fr.attB = some g then none else fr.attB }

/-- The row group whose state a slot's registers hold. -/
def Frame.holder (fr : Frame) (slot : Nat) : Option RowGroup := if slot = 0 then fr.attA else fr.attB

/-- Make a slot's registers hold a row group: what another row group has there is kept with it, and the group's own is loaded, or
is fresh before its first block (R214, R226, log 63). -/
def Frame.takeSlot (fr : Frame) (slot : Nat) (g : RowGroup) : Frame :=
  if fr.holder slot = some g then fr
  else
    let fr := match fr.holder slot with
      | some h => fr.setRg { fr.rg h with saved := some (fr.attRegs.only slot) }
      | none => fr
    let x := ((fr.rg g).saved).getD .fresh
    let fr := { (fr.setRg { fr.rg g with saved := none }) with attRegs := fr.attRegs.load slot x }
    if slot = 0 then { fr with attA := some g } else { fr with attB := some g }

/-- Count substitutions of a row group's conversions: in the frame's counter and in its status word (R54, R224, R229). -/
def State.countRg (s : State) (f : Nat) (g : RowGroup) (n : Nat) : State :=
  if n = 0 then s
  else (s.countFrame f 0 n).modFrame f fun fr => fr.setRg { fr.rg g with ovf := (fr.rg g).ovf + n }

/-- The copies of a staged block that frames' engines have entered and not taken yet (R223). -/
def State.copiesOf (s : State) (tag : StageTag) : Nat :=
  (s.frames.map fun (x : Nat × Frame) => (x.2.attQueue.filter fun t => match t.att with
    | some (.copy _ y _) => decide (y = tag)
    | _ => false).length).foldl (· + ·) 0

/-- Whether a block is staged at a frame, or a transfer that brings it there has been entered. -/
def Frame.brings (fr : Frame) (tag : StageTag) : Bool :=
  (fr.kvStaged.any fun x => decide (x.tag = tag)) ||
  (fr.attQueue ++ fr.dmaActive).any fun t => match t.att with | some (.fetch _ y _) => decide (y = tag) | _ => false

/-- A fetch that waits only for copies that have been entered. -/
def State.recount (s : State) (t : Xfer) : Xfer :=
  match t.att with
  | some (.fetch j tag _) => { t with att := some (.fetch j tag (s.copiesOf tag)) }
  | _ => t

/-- The engine of a descriptor enters nothing more: what it has entered completes; a copy of a block whose fetch it has not entered
is not taken, and no fetch waits for a copy that it has not entered (R149, R243; log 107). -/
def State.stopEngine (s : State) (rid desc : Nat) : State :=
  let own := fun (fr : Frame) => decide (fr.attOwner = some (rid, desc))
  let each := fun (s : State) (g : Frame → Frame) =>
    { s with frames := s.frames.map fun (x : Nat × Frame) => if own x.2 then (x.1, g x.2) else x }
  let s := each s fun fr => { fr with attTodo := [] }
  let s := each s fun fr => { fr with attQueue := fr.attQueue.filter fun t => match t.att with
    | some (.copy _ tag src) => (s.frame src).brings tag
    | _ => true }
  each s fun fr => { fr with
    attQueue := fr.attQueue.map s.recount
    dmaActive := fr.dmaActive.map s.recount
    kvStaged := (fr.kvStaged.map fun x => { x with left := s.copiesOf x.tag }).filter fun x => decide (x.left ≠ 0) }

/-- The rectangles of a descriptor, or of a sampler run (Tables 7-1 and 10-3). -/
def State.engineRects (s : State) (rid desc : Nat) : List W64 :=
  if desc < 1024 then (s.attDesc rid desc).getD []
  else match (s.region rid).image with | some im => sampRects (im.sampler.getD (desc - 1024) []) | none => []

/-- An engine's fault (R243): the descriptor's engine enters nothing more, and what it has entered completes (R149). A sampler
descriptor is named by its own index (log 193). -/
def State.engineFault (s : State) (rid desc f : Nat) (code : FCode) (addr : Nat) : State :=
  (s.stopEngine rid desc).regionFault rid (engineRecord code.num (attCorner s.nv (s.engineRects rid desc) f) (desc % 1024) addr)

end Sys2Proof.Machine
end

