-- ==== Sys2Proof/Machine/Cipher.lean ====
section
/-! DEFINITION. The inline encryption of the memory tiers (06: R199, R202 to R204): AES-256 in XTS mode, the key slots of the memory
controllers, and what a granule is in its package. Memory in the state is what the controllers decrypt. The cipher is FIPS 197 and
IEEE 1619, which R202 names; CMAC is for the ZL ports (R453). -/

namespace Sys2Proof.Machine

/-! ## AES-256 -/

/-- Twice a number of the field of 256 elements. -/
def fieldDouble (a : Nat) : Nat := if a < 128 then 2 * a else (2 * a) ^^^ 0x11B

/-- The product in the field: `n` bits of the first factor. -/
def fieldMulBits : Nat → Nat → Nat → Nat
  | 0, _, _ => 0
  | n + 1, a, b => (if a % 2 = 1 then b else 0) ^^^ fieldMulBits n (a / 2) (fieldDouble b)

/-- The product in the field. -/
def fieldMul (a b : Nat) : Nat := fieldMulBits 8 a b

/-- The inverse in the field, a²⁵⁴; 0 for 0. -/
def fieldInv (a : Nat) : Nat :=
  let sq := fun x => fieldMul x x
  let p3 := fieldMul (sq a) a
  let p15 := fieldMul (sq (sq p3)) p3
  let p63 := fieldMul (sq (sq p15)) p3
  sq (fieldMul (sq p63) a)

/-- A byte turned left. -/
def byteTurn (b n : Nat) : Nat := (b * 2 ^ n + b / 2 ^ (8 - n)) % 256

/-- The substitution of a byte. -/
def aesSub (b : Nat) : Nat :=
  let x := fieldInv b
  x ^^^ byteTurn x 1 ^^^ byteTurn x 2 ^^^ byteTurn x 3 ^^^ byteTurn x 4 ^^^ 0x63

/-- The key schedule's next word from those before, `i` being its number. -/
def aesNextWord (ws : List (List Nat)) (i : Nat) : List Nat :=
  let last := ws.getD (i - 1) []
  let mixed :=
    if i % 8 = 0 then
      List.zipWith (· ^^^ ·) ((last.drop 1 ++ last.take 1).map aesSub) [Nat.repeat fieldDouble (i / 8 - 1) 1, 0, 0, 0]
    else if i % 8 = 4 then last.map aesSub
    else last
  List.zipWith (· ^^^ ·) (ws.getD (i - 8) []) mixed

/-- The 15 round keys of a key of 32 bytes. -/
def aesRoundKeys (key : List Nat) : List (List Nat) :=
  let first := (List.range 8).map fun i => (key.drop (4 * i)).take 4
  let ws := (List.range 52).foldl (fun ws i => ws ++ [aesNextWord ws (i + 8)]) first
  (List.range 15).map fun r => ((ws.drop (4 * r)).take 4).flatMap fun w => w

/-- Substitute bytes and shift rows. -/
def aesShift (st : List Nat) : List Nat := (List.range 16).map fun i => aesSub (st.getD ((i + 4 * (i % 4)) % 16) 0)

/-- Mix columns. -/
def aesMix (st : List Nat) : List Nat :=
  (List.range 16).map fun i =>
    let at' := fun k => st.getD (i / 4 * 4 + (i + k) % 4) 0
    fieldMul 2 (at' 0) ^^^ fieldMul 3 (at' 1) ^^^ at' 2 ^^^ at' 3

/-- Encrypt a block of 16 bytes under round keys. -/
def aesBlock (keys : List (List Nat)) (block : List Nat) : List Nat :=
  let add := List.zipWith fun (x y : Nat) => x ^^^ y
  let st := (List.range 13).foldl (fun st r => add (aesMix (aesShift st)) (keys.getD (r + 1) [])) (add block (keys.getD 0 []))
  add (aesShift st) (keys.getD 14 [])

/-! ## XTS -/

/-- The next block's tweak, as a 128-bit number: times α. -/
def tweakNext (t : Nat) : Nat := if t < 2 ^ 127 then 2 * t else (2 * t % 2 ^ 128) ^^^ 0x87

/-- Encrypt `n` blocks of 16 bytes, from tweak `t` on. -/
def xtsBlocks (keys : List (List Nat)) : Nat → Nat → List Nat → List Nat
  | 0, _, _ => []
  | n + 1, t, bs =>
    let mask := (leBytes 16 t).map BitVec.toNat
    List.zipWith (· ^^^ ·) (aesBlock keys (List.zipWith (· ^^^ ·) (bs.take 16) mask)) mask ++ xtsBlocks keys n (tweakNext t) (bs.drop 16)

/-- AES-256-XTS of a data unit of whole blocks: a key pair of 64 bytes, the tweak as a number (R202). -/
def xtsEncrypt (pair : List Byte) (tweak : Nat) (data : List Byte) : List Byte :=
  let k := pair.map BitVec.toNat
  let first := aesBlock (aesRoundKeys (k.drop 32)) ((leBytes 16 tweak).map BitVec.toNat)
  (xtsBlocks (aesRoundKeys (k.take 32)) (data.length / 16) (leNat (first.map (BitVec.ofNat 8))) (data.map BitVec.toNat)).map (BitVec.ofNat 8)

/-! ## CMAC (R453), as SP 800-38B gives it -/

/-- Encrypt one block as a number. -/
def aesNumber (keys : List (List Nat)) (x : Nat) : Nat :=
  (aesBlock keys ((List.range 16).map fun i => x / 2 ^ (8 * (15 - i)) % 256)).foldl (fun a b => 256 * a + b) 0

/-- Double a block, as a number with the first byte highest. -/
def cmacDouble (x : Nat) : Nat := if x < 2 ^ 127 then 2 * x else (2 * x % 2 ^ 128) ^^^ 0x87

/-- AES-256-CMAC of a message under a key of 32 bytes. -/
def aesCmac (key msg : List Byte) : List Byte :=
  let keys := aesRoundKeys (key.map BitVec.toNat)
  let num := fun (bs : List Byte) => bs.foldl (fun a (b : Byte) => 256 * a + b.toNat) 0
  let k1 := cmacDouble (aesNumber keys 0)
  let n := if msg.isEmpty then 0 else (msg.length - 1) / 16
  let last := msg.drop (16 * n)
  let final := if last.length = 16 then num last ^^^ k1
    else num (last ++ [0x80] ++ List.replicate (15 - last.length) 0) ^^^ cmacDouble k1
  let c := (List.range n).foldl (fun c i => aesNumber keys (c ^^^ num ((msg.drop (16 * i)).take 16))) 0
  let t := aesNumber keys (c ^^^ final)
  (List.range 16).map fun i => BitVec.ofNat 8 (t / 2 ^ (8 * (15 - i)))

/-- A key of 256 bits that IEEE 802.1X derives from a CAK: the ICK or the KEK, by its label (R453, log 174). The CKN is the key
identifier of R337. -/
def macsecKey (cak : List Byte) (label : String) (ckn : BitVec 16) : List Byte :=
  let l := label.toList.map fun c => BitVec.ofNat 8 c.toNat
  let id := [BitVec.ofNat 8 (ckn.toNat / 256), BitVec.ofNat 8 ckn.toNat] ++ List.replicate 14 0
  (List.range 2).flatMap fun i => aesCmac cak ([BitVec.ofNat 8 (i + 1)] ++ l ++ [0] ++ id ++ [1, 0])

/-! ## Key slots -/

/-- The number of controller c's key slot for region n: four slots each (R202). -/
def keySlot (tier2 : Bool) (c n : Nat) : Nat := (c + 32 * b2n tier2) * 4 + n

/-- The key pair in a slot. -/
def State.slotKey (s : State) (k : Nat) : Option (List Byte) := (s.mc.keys.find? fun (x : Nat × List Byte) => decide (x.1 = k)).map (·.2)

/-- The controllers of a region, with their tiers. -/
def Region.controllers (r : Region) : List (Bool × Nat) := r.t1List.map (fun c => (false, c)) ++ r.t2List.map fun c => (true, c)

/-- Load a key pair into the slot of every controller of a region; a spare package that serves or is being filled holds the keys of
the one it stands for (R204, R494). -/
def State.loadKeys (s : State) (n : Nat) (r : Region) (pair : List Byte) : State :=
  let spare := if r.t1List.contains s.mc.serves.toNat then [(false, 24)] else []
  { s with mc := { s.mc with
      keys := (r.controllers ++ spare).foldl (fun k x => smPut k (keySlot x.1 x.2 n) pair) s.mc.keys } }

/-- Erase a region's slot in every controller (R204). -/
def State.eraseKeys (s : State) (n : Nat) : State :=
  { s with mc := { s.mc with keys := s.mc.keys.filter fun (x : Nat × List Byte) => decide (x.1 % 4 ≠ n) } }

/-- Controller 24 takes over the slots of the controller it stands for (R494). -/
def State.spareKeys (s : State) (c : Nat) : State :=
  { s with mc := { s.mc with
      keys := (List.range 4).foldl (fun k n => match s.slotKey (keySlot false c n) with
        | some p => smPut k (keySlot false 24 n) p
        | none => k) s.mc.keys } }

/-- What the granule that holds an address of a region's windows is in its package: its bytes under the slot of its controller
(R199, R202); none where the slot is empty or the address lies in no window. -/
def State.granuleStored (s : State) (a : Nat) : Option (List Byte) :=
  let enc := fun (tier2 : Bool) (n c g base : Nat) =>
    (s.slotKey (keySlot tier2 c n)).map fun k => xtsEncrypt k (base / g) (readBytes s.mem base g)
  match s.place a with
  | .tier1 n off =>
    let l := (s.region n).t1List
    enc false n (l.getD (off / 256 % l.length) 0) 256 (a / 256 * 256)
  | .tier2 n off =>
    let l := (s.region n).t2List
    enc true n (l.getD (off / 1024 % l.length) 0) 1024 (a / 1024 * 1024)
  | _ => none

/-- The key slots are erased while data stands under them: a read decrypts it without its key, so each byte is a free value of the
address and the byte (R462, log 165). -/
def State.scramble (s : State) : State :=
  { s with mem := s.mem.foldl (fun m (c : Host.Cell) =>
      match s.place c.1 with
      | .tier1 _ _ => memSet m c.1 (Config.erasedByte c.1 c.2)
      | .tier2 _ _ => memSet m c.1 (Config.erasedByte c.1 c.2)
      | _ => m) s.mem }

end Sys2Proof.Machine
end

