-- ==== Sys2Proof/Machine/Status.lean ====
section
/-! DEFINITION. The status codes (14: R436, Table 14-8; 15: Table 15-11). -/

namespace Sys2Proof.Machine.Status

def ok : Nat := 0x00
def leadinDone : Nat := 0x01
def stopToken : Nat := 0x02
def stopSequence : Nat := 0x03
def stopMaxtok : Nat := 0x04
def handedOff : Nat := 0x05
def handoffFailed : Nat := 0x06
def handoffUnconfirmed : Nat := 0x07
def cancelled : Nat := 0x08
def late : Nat := 0x09
def aborted : Nat := 0x0A
def pageLimit : Nat := 0x0B
def ptInvalid : Nat := 0x0C
def ptReadonly : Nat := 0x0D
def ptRace : Nat := 0x0E
def programFault : Nat := 0x0F
def sampleInvalid : Nat := 0x10
def pagesShort : Nat := 0x11
def tableShort : Nat := 0x12
def deadlineShort : Nat := 0x13
def disabled : Nat := 0x20
def noSetup : Nat := 0x21
def tableFull : Nat := 0x22
def promptRange : Nat := 0x23
def budgetRange : Nat := 0x24
def classFull : Nat := 0x25
def variantUnknown : Nat := 0x26
def ringPrefix : Nat := 0x27
def samplerMalformed : Nat := 0x28
def layoutUnknown : Nat := 0x29
def ptagRange : Nat := 0x2A
def malformed : Nat := 0x2B
def notCancelled : Nat := 0x40
def setupInfeasible : Nat := 0x41
def setupMalformed : Nat := 0x42
def noImage : Nat := 0x43
def geometryInvalid : Nat := 0x44
def geometryBusy : Nat := 0x45
def poolRange : Nat := 0x46
def poolOverlap : Nat := 0x47
def variantInvalid : Nat := 0x48
def variantSpace : Nat := 0x49
def handleUnknown : Nat := 0x4A
def ptCmdMalformed : Nat := 0x4B
def partnerPaired : Nat := 0x4C
def partnerMalformed : Nat := 0x4D
def partnerBusy : Nat := 0x4E
def layoutBusy : Nat := 0x4F
def layoutInvalid : Nat := 0x50
def groupMalformed : Nat := 0x51
def groupOutside : Nat := 0x52
def groupPorts : Nat := 0x53
def groupBusy : Nat := 0x54
def groupSize : Nat := 0x55
def regionShape : Nat := 0x56
def regionBusy : Nat := 0x57
def regionFrameLost : Nat := 0x58
def copyRange : Nat := 0x59
def noRegion : Nat := 0x5A
def gradeMismatch : Nat := 0x60
def codeTooLarge : Nat := 0x61
def chainInvalid : Nat := 0x62
def attInvalid : Nat := 0x63
def samplerInvalid : Nat := 0x64
def collInvalid : Nat := 0x65
def imageMalformed : Nat := 0x66
def imageBusy : Nat := 0x67
def notOwner : Nat := 0x70
def ownerSet : Nat := 0x71
def ownerKeyMismatch : Nat := 0x72
def roleDenied : Nat := 0x73
def domainDeny : Nat := 0x74
def sealedDeny : Nat := 0x75
def sealInvalid : Nat := 0x76
def streamInvalid : Nat := 0x77
def tokenInvalid : Nat := 0x78
def imageRejected : Nat := 0x79
def svnLow : Nat := 0x7A
def queueEnabled : Nat := 0x7B

end Sys2Proof.Machine.Status
end

