-- ==== Sys2Proof/Machine/AttPlan.lean ====
section
/-! DEFINITION. What an engine plans (07: R213, R217, R218, R220 to R223, R225, R231, R235 to R239): row groups, work items and
gangs, their frames, and the transfers and jobs it enters into each frame. -/

namespace Sys2Proof.Machine

/-! ## Work items (R217, R218, R221) -/

/-- Join a token work item of one row group with the next one (R221). -/
def joinItems : List (List RowGroup) → List (List RowGroup)
  | x :: y :: r => if x.length = 1 then (x ++ y) :: joinItems r else x :: joinItems (y :: r)
  | r => r

/-- Gangs of a forward run, each a list of work items, each a list of row groups: in prompt mode the items of one (e, u) whose
heads share a KV head, in token mode one item each (R217, R218, R221). `fed` tells which table entries take part. -/
def AttP.gangs (a : AttP) (rid desc : Nat) (t : List LtEntry) (fed : Nat → Bool) : List (List (List RowGroup)) :=
  let rg := fun e tile head => ({ rid := rid, desc := desc, entry := e, tile := tile, head := head } : RowGroup)
  let per := (t.zip (List.range t.length)).filter fun x => fed x.2
  if a.mode = 1 then
    (joinItems (per.flatMap fun x => (List.range a.kvh).map fun h => (List.range (a.ntile x.1.qcount)).map fun k => rg x.2 k h)).map
      fun i => [i]
  else
    per.flatMap fun x =>
      let n := ceilDiv x.1.qcount 64
      (List.range (ceilDiv n 2)).flatMap fun u => (List.range a.kvh).map fun kv => (List.range a.g).map fun i =>
        ([2 * u, 2 * u + 1].filter fun k => decide (k < n)).map fun k => rg x.2 k (kv * a.g + i)

/-- Work items of a backward run: table entry, KV head and key block (R221). -/
def AttP.backItems (a : AttP) (t : List LtEntry) (fed : Nat → Bool) : List (Nat × Nat × Nat) :=
  ((t.zip (List.range t.length)).filter fun x => fed x.2).flatMap fun x =>
    (List.range a.kvh).flatMap fun h => (List.range (ceilDiv x.1.klen 128)).map fun b => (x.2, h, 128 * b)

/-- Row groups of an entry and KV head in increasing tile, then head, the order in which a backward item visits them (R239). -/
def AttP.groupsOf (a : AttP) (rid desc : Nat) (t : List LtEntry) (e kv : Nat) : List RowGroup :=
  match t[e]? with
  | none => []
  | some x => (List.range (ceilDiv x.qcount 64)).flatMap fun k => (List.range a.g).map fun i =>
      { rid := rid, desc := desc, entry := e, tile := k, head := kv * a.g + i }

/-! ## Frames of the work (R222, log 34) -/

/-- The work that each engine of a descriptor takes: its frames, and its share of the units, dealt in turn. -/
def dealt {α : Type} (nv : NonVol) (w : List W64) (units : List α) : List (Nat × List Nat × List (Nat × α)) :=
  let es := (List.range 4).filterMap fun e => (attRect w e).map fun r => (e, rectFrames nv r.1 r.2)
  let us := units.mapIdx fun i u => (i, u)
  es.mapIdx fun k e => (e.1, e.2, us.filter fun x => decide (x.1 % es.length = k))

/-- Cut a list into pieces of at most n. -/
def chunksOf {α : Type} (n : Nat) : Nat → List α → List (List α)
  | 0, _ => []
  | k + 1, xs => if xs.isEmpty then [] else xs.take n :: chunksOf n k (xs.drop n)

/-! ## One pair of row groups (R220, R223, R225, R230) -/

/-- A key block that a row group sees: its number in position order among those that the work item sees, and where it is. -/
structure Blk where
  rank : Nat
  kbase : Nat
  ring : Option RingBlock := none
deriving DecidableEq, Repr

/-- What a frame needs to know to plan one part of a pair of row groups. -/
structure PairPlan where
  area : Nat
  vals : Nat                       -- value jobs of a block, one for each 128 dimensions
  home : Nat
  part : Nat
  ringStep : Nat
  gang : Nat
  member : Nat                     -- place in the gang
  copies : Nat                     -- other members
  lead : Nat                       -- frame of the gang's first member
  ends : RowGroup → Bool           -- no later ring step has a block of the row group

/-- The transfer that brings block `i` of a pair into a buffer: the gang's first member fetches, the others copy (R223). -/
def PairPlan.bring (p : PairPlan) (j : AttJob) (i : Nat) : AttTask :=
  let tag : StageTag := { rid := j.group.rid, desc := j.group.desc, gang := p.gang, part := p.part, step := p.ringStep,
                          block := 2 * i + j.buf }
  .move (if p.member = 0 then .fetch j tag p.copies else .copy j tag p.lead)

/-- The score job of a row group's block. -/
def PairPlan.score (p : PairPlan) (g : RowGroup) (slot buf : Nat) (b : Blk) : AttJob :=
  { group := { g with part := p.part }, step := .score, kbase := b.kbase, ring := b.ring, slot := slot, buf := buf, area := p.area,
    home := p.home }

/-- The value jobs of a row group's block. -/
def PairPlan.values (p : PairPlan) (g : RowGroup) (slot buf : Nat) (isLast : Bool) (b : Blk) : List AttTask :=
  (List.range p.vals).map fun k =>
    .job { p.score g slot buf b with step := .value k, last := isLast && decide (k + 1 = p.vals) && p.ends g }

/-- The tasks of row groups A and B of an item over their blocks (R225, R230): queries, then block by block score A, score B,
value A, value B. Where they read the same keys, both use one buffer and the buffers alternate; otherwise A has one and B the
other. -/
def PairPlan.tasks (p : PairPlan) (gs : List (RowGroup × List Blk)) (shared : Bool) : List AttTask :=
  let gs := gs.filter fun x => !x.2.isEmpty
  let sl := gs.mapIdx fun i x => (i, x.1, x.2)
  let queries := sl.map fun x => AttTask.move (.queries (p.score x.2.1 x.1 0 (x.2.2.headD { rank := 0, kbase := 0 })))
  let union := ((gs.map (·.2)).foldl (fun a b => if a.length < b.length then b else a) [])
  let n := union.length
  queries ++ (List.range n).flatMap fun i =>
    -- the block of each row group in round i, and the buffer it stands in
    let here := sl.filterMap fun x =>
      if shared then
        (x.2.2.find? fun b => decide (b = union.getD i { rank := 0, kbase := 0 })).map fun b => (x.1, x.2.1, x.2.2, i % 2, b)
      else (x.2.2[i]?).map fun b => (x.1, x.2.1, x.2.2, x.1, b)
    let bring := (if shared then here.take 1 else here).map fun h => p.bring (p.score h.2.1 h.1 h.2.2.2.1 h.2.2.2.2) i
    bring ++ (here.map fun h => .job (p.score h.2.1 h.1 h.2.2.2.1 h.2.2.2.2)) ++
    here.flatMap fun h => p.values h.2.1 h.1 h.2.2.2.1 (decide (h.2.2.1.getLast? = some h.2.2.2.2)) h.2.2.2.2

/-! ## Forward runs (R220 to R223, R231) -/

/-- An empty part (R231). -/
def emptyPart (a : AttP) (g : RowGroup) (home : Nat) : Part :=
  { group := g, home := home, m := List.replicate 64 negInf, l := List.replicate 64 0,
    acc := List.replicate 64 (List.replicate a.hd 0) }

/-- Offset, in part 0's attention area, of the place where part p arrives: its m and l of every row, then its accumulators; the
places that fit are used in turn (R232, log 157). -/
def AttP.zoneOf (a : AttP) (p : Nat) : Nat :=
  let size := 512 + 256 * a.hd
  zoneOff + (p - 1) % (0x20000 / size) * size

/-- Row groups taken two at a time. -/
def pairsOf : List RowGroup → List (List RowGroup)
  | x :: y :: r => [x, y] :: pairsOf r
  | [x] => [[x]]
  | [] => []

/-- What one run, or one step of a ring run, needs for its plan: the blocks of a row group in it, how many blocks its work item
sees in all, whether the row group is finished after it, and whether an empty part of it is noted here. -/
structure RunPlan where
  a : AttP
  blocks : RowGroup → List Blk
  total : RowGroup → Nat
  ends : RowGroup → Bool
  ringStep : Nat := 0
  whole : RowGroup → List Nat      -- ranks of every block of the row group in the whole run

/-- Whether a block number lies in part p (R231). -/
def AttP.inPart (a : AttP) (total p rank : Nat) : Bool :=
  decide (p * total / a.split ≤ rank) && decide (rank < (p + 1) * total / a.split)

/-- The tasks of one work item's part, on one frame: `p0` has what the item's pairs share. -/
def RunPlan.itemTasks (r : RunPlan) (p0 : PairPlan) (item : List RowGroup) : List AttTask :=
  let mine := fun g => (r.blocks g).filter fun b => r.a.inPart (r.total g) p0.part b.rank
  let empty := item.filter fun g => !((r.whole g).any fun k => r.a.inPart (r.total g) p0.part k)
  (if r.ringStep = 0 then
    empty.map fun g => AttTask.move (.part (emptyPart r.a { g with part := p0.part } p0.home) p0.area (r.a.zoneOf p0.part))
   else []) ++
  (pairsOf item).flatMap fun pr =>
    p0.tasks (pr.map fun g => (g, mine g))
      (match pr with | [x, y] => decide (x.entry = y.entry) && decide (r.a.kvOf x = r.a.kvOf y) | _ => true)

/-- The tasks of one gang: its items on frames of one engine from number `at'` on, part after part, at most as many at a time as
the engine has frames; the parts of an item are on frames of their own, where they are too many for every item's to be so (R221, R223,
R231). -/
def RunPlan.gangTasks (r : RunPlan) (frames : List Nat) (at' : Nat) (gang : Nat × List (List RowGroup)) : List (Nat × AttTask) :=
  let n := frames.length
  let fr := fun k => frames.getD (k % max 1 n) 0
  ((chunksOf (max 1 n) gang.2.length gang.2).mapIdx fun c items => (List.range r.a.split).flatMap fun p =>
    let stride := if items.length * r.a.split ≤ n then items.length else 1
    let from' := at' + c * n * r.a.split + p * stride
    (items.mapIdx fun i item =>
      let p0 : PairPlan := {
        area := r.a.attbase, vals := ceilDiv r.a.hd 128, home := fr (at' + c * n * r.a.split + i), part := p, ringStep := r.ringStep,
        gang := gang.1 * 16 + c, member := i, copies := items.length - 1, lead := fr from'
        ends := fun g => r.ends { g with part := p } }
      (r.itemTasks p0 item).map fun x => (fr (from' + i), x)).flatMap fun x => x).flatMap fun x => x

/-- Frames that a gang takes up. -/
def AttP.gangSize (a : AttP) (gang : List (List RowGroup)) : Nat := gang.length * a.split

/-- The tasks of an engine's gangs, each after the frames of the one before. -/
def RunPlan.engineTasks (r : RunPlan) (frames : List Nat) : Nat → List (Nat × List (List RowGroup)) → List (Nat × AttTask)
  | _, [] => []
  | at', g :: rest => r.gangTasks frames at' g ++ r.engineTasks frames (at' + r.a.gangSize g.2) rest

/-- Blocks that a row group sees, by number, without ring attention: the number counts within its KV head's work item. -/
def AttP.plainBlocks (a : AttP) (t : List LtEntry) (g : RowGroup) : List Blk :=
  let x := (t[g.entry]?).getD { ridx := 0, qcount := 1, qstart := 0 }
  (a.blocksOf x (fedRows a t g)).map fun k => { rank := k / 128, kbase := k }

/-- The row groups of the work item that a row group belongs to by itself: in prompt mode its tile pair, in token mode those of
its entry and KV head (R221, log 158). -/
def AttP.itemOf (a : AttP) (t : List LtEntry) (g : RowGroup) : List RowGroup :=
  let x := (t[g.entry]?).getD { ridx := 0, qcount := 1, qstart := 0 }
  if a.mode = 1 then (List.range (a.ntile x.qcount)).map fun k => { g with tile := k }
  else ([g.tile / 2 * 2, g.tile / 2 * 2 + 1].filter fun k => decide (k < ceilDiv x.qcount 64)).map fun k => { g with tile := k }

/-- The plan of a forward run without ring attention. -/
def plainPlan (a : AttP) (t : List LtEntry) : RunPlan :=
  { a := a, blocks := a.plainBlocks t, ends := fun _ => true
    total := fun g => (a.itemOf t g).foldl (fun n o => max n (a.plainBlocks t o).length) 0
    whole := fun g => (a.plainBlocks t g).map (·.rank) }

/-! ## Backward runs (R238, R239) -/

/-- The tasks of a backward work item: its keys and values, then for each row group that sees the block the queries and the seven
jobs of Table 7-5. -/
def AttP.backTasks (a : AttP) (rid desc : Nat) (t : List LtEntry) (i : Nat) (it : Nat × Nat × Nat) : List AttTask :=
  let x := (t[it.1]?).getD { ridx := 0, qcount := 1, qstart := 0 }
  let seen := (a.groupsOf rid desc t it.1 it.2.1).filter fun g => a.issues x.klen (qmaxOf (fedRows a t g)) it.2.2
  let n := seen.length
  let job := fun g k => ({ group := g, step := .backward k, kbase := it.2.2, area := a.attbase } : AttJob)
  match seen with
  | [] => []
  | g0 :: _ =>
    AttTask.move (.fetch (job g0 0)
      { rid := rid, desc := desc, gang := i, part := 0, step := 0, block := it.2.2 } 0) ::
    (seen.mapIdx fun k g => AttTask.move (.queries (job g 0)) :: (List.range 7).map fun s =>
      AttTask.job { job g s with first := decide (k = 0) && decide (s = 0), last := decide (k + 1 = n) && decide (s = 6) }).flatMap
      fun x => x

/-- The tasks of an engine's backward items, on its frames in turn. -/
def AttP.backEngine (a : AttP) (rid desc : Nat) (t : List LtEntry) (frames : List Nat) (its : List (Nat × Nat × Nat × Nat)) :
    List (Nat × AttTask) :=
  (its.mapIdx fun k it => (a.backTasks rid desc t it.1 it.2).map fun x => (frames.getD (k % max 1 frames.length) 0, x)).flatMap
    fun x => x

/-! ## Entering (R136, R206, R213) -/

/-- Enter what an engine has planned for a frame, in order: a transfer at once, a job while the deck queue has room. -/
def fillList (s : State) (f : Nat) : List AttTask → Frame → Nat → Frame × Nat
  | [], fr, k => ({ fr with attTodo := [] }, k)
  | .move m :: r, fr, k =>
    fillList s f r { fr with attQueue := fr.attQueue ++
      [{ seq := 0, stamp := k, who := engineThread f, pc := 0, words := [], att := some m }] } (k + 1)
  | .job j :: r, fr, k =>
    if 4 ≤ fr.deckQueue.length then ({ fr with attTodo := .job j :: r }, k)
    else
      let seq := fr.jobSeq + 1
      fillList s f r { fr with
        jobSeq := seq
        deckQueue := fr.deckQueue ++ [{ seq := seq, stamp := k, who := engineThread f, pc := 0, words := s.attWords j, params := [],
                                        rowmap := [], att := some j }] } (k + 1)

/-- Let an engine enter what it has planned for a frame. -/
def State.fillAtt (s : State) (f : Nat) : State :=
  let r := fillList s f (s.frame f).attTodo (s.frame f) s.stamp
  { (s.setFrame f r.1) with stamp := r.2 }

/-- Give frames what an engine has planned for them. -/
def State.enterTasks (s : State) (ts : List (Nat × AttTask)) : State :=
  ((ts.map (·.1)).eraseDups).foldl (fun (s : State) f =>
    (s.modFrame f fun fr => { fr with attTodo := fr.attTodo ++ (ts.filter fun x => decide (x.1 = f)).map (·.2) }).fillAtt f) s

end Sys2Proof.Machine
end

