-- ==== Sys2Proof/Machine/AttMove.lean ====
section
/-! DEFINITION. Transfers of the frame DMA engine in course (04: R140, R142, R146; 07: R206, R213, R223 to R225, R232, R238,
R241, R243): what an engine's transfer moves, and the start and completion of any transfer. -/

namespace Sys2Proof.Machine

/-! ## Keys and values (R223, R236, R241) -/

/-- What reading a key or value row, or all of a block, gives: where or what it is, a failed walk (R254), or a fault, of a lost granule
(R488) or a row that is not among the page's keys and values (R247, log 197). -/
inductive KvRead (α : Type) where
  | got (x : α) | fails | stops (code : FCode) (addr : Nat)
deriving DecidableEq, Repr

/-- Address of row i of a job's key (w = 0) or value block of KV head h, through the page table or in the ring buffer. -/
def State.kvPlace (s : State) (a : AttP) (j : AttJob) (f ridx w h i : Nat) : KvRead Nat × State :=
  let rid := j.group.rid
  let row := a.hd * (fmtBits a.kvfmt / 8)
  let check := fun (addr : Nat) (s : State) =>
    match (s.lostGranules rid).find? fun l => rangesMeet (addr, row) l with
    | some l => (KvRead.stops (.other 0x1B) l.1, s)
    | none => (.got addr, s)
  match j.ring with
  | some x => check (x.buf + ((h * x.per + x.idx) * 2 + w) * (128 * row) + i * row) s
  | none =>
    let x := s.walk (s.halfOfFrame f) rid ridx 0 (j.kbase + i) a.layer
    match x.1, (s.region rid).geom0 with
    | .page addr _ t, some g =>
      let off := g.rowOffset w h t
      if 2 * g.keyBytes < off + row then (.stops .badAddress (addr + off), x.2) else check (addr + off) x.2
    | y, _ => (.fails, x.2.modRegion rid fun r => r.noteFetch ridx y)

/-- Bytes of a key or value row as descriptor `desc` reads them: where the read races with a KVAPP of the step, the old or the
new bytes for each 16-byte granule (R241). -/
def State.kvLoad (s : State) (rid desc addr n : Nat) : List Byte × State :=
  let settled := fun (e : KvWrite) => e.settled.contains desc
  let ws := (s.region rid).kvWrites.filter fun e => rangesMeet (e.addr, e.new.length) (addr, n)
  if ws.all settled then (readBytes s.mem addr n, s)
  else
    let es := ws.reverse.map fun e =>
      ({ writer := if settled e then .unit rid else .copy rid, addr := e.addr, old := e.old } : Race)
    (racedBytes s.mem es (fun e => decide (e.writer ≠ .unit rid)) (fun _ _ => false) addr n s.freeCtr, { s with freeCtr := s.freeCtr + granules addr n })

/-- Codes of `n` rows of a key or value block, from row i on. -/
def kvVecs (a : AttP) (j : AttJob) (f ridx w h : Nat) : Nat → Nat → State → KvRead (List (List Nat)) × State
  | 0, _, s => (.got [], s)
  | n + 1, i, s =>
    match s.kvPlace a j f ridx w h i with
    | (.fails, s) => (.fails, s)
    | (.stops c l, s) => (.stops c l, s)
    | (.got addr, s) =>
      let x := s.kvLoad j.group.rid j.group.desc addr (a.hd * (fmtBits a.kvfmt / 8))
      match kvVecs a j f ridx w h n (i + 1) x.2 with
      | (.got r, s) => (.got (bytesCodes a.kvfmt a.hd x.1 :: r), s)
      | y => y

/-! ## What an engine's transfer moves -/

/-- A transfer as its start has read it: the bytes to write, the substitutions counted, or a fault. -/
structure Moved where
  s : State
  writes : List (Nat × List Byte) := []
  count : Nat := 0
  fault : Option (FCode × Nat) := none
deriving DecidableEq, Repr

/-- The staged blocks of keys and values (R223): forward, keys with key positions as columns and values with dimensions as columns;
backward, both with key positions as columns and the keys also with dimensions as columns (Table 7-5). -/
def AttP.kvBlocks (a : AttP) (base buf : Nat) (ks vs : List (List Nat)) : List (Nat × List Byte) :=
  let keys := statBlocks a.kvfmt a.hpass fun n => ks.getD n []
  if a.mode = 2 then
    [(base + bKey, keys), (base + bVal, statBlocks a.kvfmt a.hpass fun n => vs.getD n []),
     (base + bKeyDim, statBlocks a.kvfmt 2 (columnOf ks))]
  else
    [(base + kOff buf, keys),
     (base + vOff buf, (List.range (ceilDiv a.hd 128)).flatMap fun d => statBlocks a.kvfmt 2 fun n => columnOf vs (128 * d + n))]

/-- A fetch: the block's rows through the page table, the keys rotated at their positions (R223, R224). -/
def State.fetchBlock (s : State) (f : Nat) (j : AttJob) : Moved :=
  let c := s.attCtx j
  let a := c.a
  let rd := fun (w : Nat) (s : State) => kvVecs a j f c.x.ridx w (a.kvOf j.group) (c.ncol j) 0 s
  match rd 0 s with
  | (.fails, s) => { s := s }
  | (.stops c l, s) => { s := s, fault := some (c, l) }
  | (.got ks, s) =>
    match rd 1 s with
    | (.fails, s) => { s := s }
    | (.stops c l, s) => { s := s, fault := some (c, l) }
    | (.got vs, s) =>
      let st := ks.mapIdx fun i k => s.stage a a.kvfmt (c.keyPos j i) k
      { s := s, writes := a.kvBlocks (storeAddr f j.area) j.buf (st.map (·.1)) vs, count := (st.map (·.2)).foldl (· + ·) 0 }

/-- Ranges that staging a row group's queries reads (R210, R225, R238). -/
def AttCtx.queryReads (c : AttCtx) : List (Nat × Nat) :=
  let rows := fun (base fmt : Nat) => c.rows.map fun r => (c.a.rowAddr base fmt r, c.a.hd * (fmtBits fmt / 8))
  rows c.a.qaddr c.a.qfmt ++ (if c.a.rot then [(c.a.thaddr, c.a.hd * 4)] else []) ++
  (if c.a.mode = 2 then
    rows c.a.doaddr c.a.qfmt ++ rows c.a.oaddr c.a.ofmt ++
    c.rows.map fun r => (c.a.stataddr + (r.row * c.a.qh + r.head) * 4, 4)
   else [])

/-- D of a row: the pairwise sum of dO[i] × O[i] (R238). -/
def AttP.rowD (a : AttP) (m : List Host.Cell) (r : FedRow) : Nat :=
  let d := f32Row m a.qfmt (a.rowAddr a.doaddr a.qfmt r) a.hd
  let o := f32Row m a.ofmt (a.rowAddr a.oaddr a.ofmt r) a.hd
  colTree.treeSum' (if a.hd = 64 then 6 else 7) (List.zipWith (fun x y => (fmtFP32.mul .rne x y).1) d o)

/-- Staging a row group's queries as a feed stream; in the backward pass also dO, both with dimensions as columns, and D and L of
every row (R225, R238). -/
def State.stageQueries (s : State) (f : Nat) (j : AttJob) : Moved :=
  let c := s.attCtx j
  let a := c.a
  match s.readFault j.group.rid c.queryReads with
  | some x => { s := s, fault := some x }
  | none =>
    let st := c.rows.map fun r => s.stage a a.qfmt r.pos (rowCodes s.mem a.qfmt (a.rowAddr a.qaddr a.qfmt r) a.hd)
    let qs := placeRows c.rows (st.map (·.1))
    let dos := placeRows c.rows (c.rows.map fun r => rowCodes s.mem a.qfmt (a.rowAddr a.doaddr a.qfmt r) a.hd)
    let base := storeAddr f j.area
    let n := (st.map (·.2)).foldl (· + ·) 0
    let byRow := fun (g : FedRow → Nat) => (placeRows c.rows (c.rows.map fun r => [g r])).map fun x => x.headD 0
    let s := s.modFrame f fun fr => fr.setRg { fr.rg j.group with
      d := if a.mode = 2 then byRow (a.rowD s.mem) else []
      stat := if a.mode = 2 then byRow (fun r => readLe s.mem (a.stataddr + (r.row * a.qh + r.head) * 4) 4) else [] }
    { s := s.countRg f j.group n
      writes := (base + qOff j.slot, rowStream a.qfmt a.hpass qs) ::
        (if a.mode = 2 then
          [(base + bGrad, rowStream a.qfmt a.hpass dos), (base + bGradDim, statBlocks a.qfmt 1 (columnOf dos)),
           (base + bQueryDim, statBlocks a.qfmt 1 (columnOf qs))]
         else []) }

/-- The bytes of a part: m and l of every row, then its accumulators, FP32 (R232). -/
def Part.bytes (p : Part) : List Byte := (p.m ++ p.l ++ p.acc.flatMap fun r => r).flatMap fun x => leBytes 4 x

/-- A staged block after one of its copies has been taken. -/
def Staged.taken (tag : StageTag) (x : Staged) : Option Staged :=
  if decide (x.tag = tag) then (if x.left < 2 then none else some { x with left := x.left - 1 }) else some x

/-- The start of an engine's transfer: what it reads and will write. A request that is not fed any more has nothing read
(R242, R254). -/
def State.moveData (s : State) (f : Nat) (m : AttMove) : Moved :=
  let fed := fun (j : AttJob) => (s.region j.group.rid).feedsNow (s.attCtx j).x.ridx
  match m with
  | .queries j => if fed j then s.stageQueries f j else ({ s := s } : Moved)
  | .fetch j _ _ =>
    if !fed j then ({ s := s } : Moved)
    else
      let r := s.fetchBlock f j
      { r with s := r.s.countFrame f 0 r.count }
  | .copy j tag src =>
    let a := (s.attCtx j).a
    let size := a.statSize a.kvfmt
    let parts := [(j.area + kOff j.buf, a.hpass * size), (j.area + vOff j.buf, ceilDiv a.hd 128 * 2 * size)]
    let n := match (s.frame src).kvStaged.find? fun x => decide (x.tag = tag) with | some x => x.count | none => 0
    { s := s.modFrame src fun fr => { fr with kvStaged := fr.kvStaged.filterMap (Staged.taken tag) }
      writes := parts.map fun p => (storeAddr f p.1, readBytes s.mem (storeAddr src p.1) p.2), count := n }
  | .part p area zone => { s := s, writes := [(storeAddr p.home (area + zone), p.bytes)] }

/-- The descriptor that an engine's transfer belongs to. -/
def AttMove.owner : AttMove → Nat × Nat
  | .queries j => (j.group.rid, j.group.desc)
  | .fetch j _ _ => (j.group.rid, j.group.desc)
  | .copy j _ _ => (j.group.rid, j.group.desc)
  | .part p _ _ => (p.group.rid, p.group.desc)

/-- Whether the block that a copy takes is not staged yet (R223). -/
def State.copyWaits (s : State) : AttMove → Bool
  | .copy _ tag src => !(s.frame src).kvStaged.any fun x => decide (x.tag = tag)
  | _ => false

/-- Start the engine's transfer at the head of its channel. -/
def State.startMove (s : State) (f : Nat) (t : Xfer) (m : AttMove) : State :=
  if s.copyWaits m then s
  else
    let r := (s.modFrame f fun fr => { fr with attQueue := fr.attQueue.drop 1 }).moveData f m
    match r.fault with
    | some (code, a) => (r.s.engineFault m.owner.1 m.owner.2 f code a).wakeFrame f
    | none => r.s.modFrame f fun fr => { fr with dmaActive := fr.dmaActive ++ [{ t with count := r.count, writes := r.writes }] }

/-! ## The events of the DMA engine -/

/-- The write of a program transfer into an attention area that was held when the transfer was accepted (R243). -/
def State.attAreaHit (s : State) (t : Xfer) (ws : List (Nat × Nat)) : Option (Nat × Nat × Nat) :=
  t.attAt.find? fun o => anyMeet ws [(storeAddr o.1 (s.attArea o.2.1 o.2.2), s.attSize o.2.1 o.2.2)]

/-- Start the program's transfer at the head of its queue: every address is checked, then the source is read; a faulting transfer
writes nothing (R142, R243). -/
def State.startXfer (s : State) (f : Nat) (t : Xfer) : State :=
  let x := xferFields t.words
  let s0 := s.modFrame f fun fr => { fr with dmaQueue := fr.dmaQueue.drop 1 }
  let ws := s.xferWrites f x
  (match s.regionOfFrame f with
   | none => s0
   | some n =>
     match (s.rangeFault n (s.xferReads f x ++ ws)).or (s.readFault n (s.xferReads f x)) with
     | some (code, a) => s0.programFault t.who t.pc code a
     | none =>
       match s.attAreaHit t ws with
       | some o => s0.engineFault o.2.1 o.2.2 o.1 (.other 0x12) 0
       | none => s0.modFrame f fun fr => { fr with dmaActive := fr.dmaActive ++ [{ t with writes := s.xferData f t.words }] }).wakeFrame f

/-- Of the program's and the engine's next transfer of a frame, the one accepted first (R140, R213). -/
def Frame.nextXfer (fr : Frame) : Option Xfer :=
  match fr.dmaQueue.head?, fr.attQueue.head? with
  | some a, some b => some (if b.stamp < a.stamp then b else a)
  | a, b => a.or b

/-- DMA_TRANSFER_START: the engine of frame f starts its next transfer, reading its source (R140, R142), unless a started transfer
is held back under R112, or the block that it copies is not there (R223). -/
def execDmaTransferStart (f : Fin 384) (s : State) : Host.Outcome State Fault Refusal :=
  if s.nv.frames ≤ f.val then .fault .absentFrame else
  let fr := s.frame f.val
  .next (match fr.nextXfer with
    | none => s
    | some t =>
      if fr.dmaActive.any fun x => s.holdsBack f.val x then s
      else
        s.inStep ((s.regionOfFrame f.val).getD 0) fun s => match t.att with
          | some m => s.startMove f.val t m
          | none => s.startXfer f.val t)

/-- What the completion of an engine's transfer leaves: a staged block with its count, for the gang's copies where it has some, or
a part that has arrived (R223, R232). -/
def State.endMove (s : State) (f : Nat) (t : Xfer) : AttMove → State
  | .queries _ => s
  | .fetch j tag copies => s.modFrame f fun fr => { fr with
      kvCount := smSet 0 fr.kvCount j.buf t.count
      kvStaged := if copies = 0 then fr.kvStaged
        else fr.kvStaged ++ [{ tag := tag, buf := j.buf, left := copies, count := t.count }] }
  | .copy j _ _ => s.modFrame f fun fr => { fr with kvCount := smSet 0 fr.kvCount j.buf t.count }
  | .part p _ _ => s.modRegion p.group.rid fun r =>
      { r with att := r.att.map fun x => if x.desc = p.group.desc then { x with parts := x.parts ++ [p] } else x }

/-- DMA_TRANSFER_DONE: the oldest started transfer of frame f completes, unless it is held back: its writes land, then it signals
where SEN is set, and waiting contexts go on (R112, R140, R143, R146). -/
def execDmaTransferDone (f : Fin 384) (s : State) : Host.Outcome State Fault Refusal :=
  if s.nv.frames ≤ f.val then .fault .absentFrame else
  let fr := s.frame f.val
  .next (match fr.dmaActive with
    | [] => s
    | t :: rest =>
      if s.holdsBack f.val t then s
      else
        let s := s.writeMem ((s.regionOfFrame f.val).getD 0) t.writes
        let s := s.modFrame f.val fun fr => { fr with dmaActive := rest }
        let s := match t.att with
          | some m => s.endMove f.val t m
          | none =>
            let x := xferFields t.words
            if x.sen then (s.noteSignal f.val t.who t.seq x.sframe x.sctr).addSignal x.sframe x.sctr 1 else s
        (s.wakeFrame f.val).checkPart f.val)

end Sys2Proof.Machine
end

