-- ==== Sys2Proof/Machine/AttSeq.lean ====
section
/-! DEFINITION. The attention sequence and a descriptor's course (07: R206, R207, R212, R226 to R229, R231 to R233, R238 to R243):
what follows a tile, outputs, starting and completing a descriptor, and the merge of key-range parts. -/

namespace Sys2Proof.Machine

/-! ## Arithmetic -/

/-- The maximum of IEEE 754-2019 in FP32. -/
def fmax (a b : Nat) : Nat := (fmtFP32.minmax true a b).1

/-- FP32 operations by RNE. -/
def fadd (a b : Nat) : Nat := (fmtFP32.add .rne a b).1
def fsub (a b : Nat) : Nat := (fmtFP32.sub .rne a b).1
def fmul (a b : Nat) : Nat := (fmtFP32.mul .rne a b).1
def ffma (a b c : Nat) : Nat := (fmtFP32.fma .rne a b c).1
def fdiv (a b : Nat) : Nat := (fmtFP32.div .rne a b).1

/-- Record the first non-finite value (R229). -/
def noteExc (old : Option (Nat × Nat × Nat × Nat)) (stage ncol : Nat) (rows : List FedRow) (tile : List (List Nat)) :
    Option (Nat × Nat × Nat × Nat) :=
  match old with
  | some x => some x
  | none => rows.findSome? fun r => (List.range ncol).findSome? fun n =>
      let k := (fmtFP32.decode ((tile.getD r.m []).getD n 0)).kind
      if k = 0 then none else some (stage, r.m, n % 128, k)

/-- One row of the score sequence: new maximum and sum, alpha, PFMT codes, substitutions (R226). -/
def softmaxRow (c : AttCtx) (j : AttJob) (r : FedRow) (s : List Nat) (mold lold : Nat) :
    Nat × Nat × Nat × List Nat × Nat :=
  let a := c.a
  let z := (List.range 128).map fun n =>
    if n < c.ncol j ∧ a.visible (c.keyEnd j) r.pos (c.keyPos j n) then fmul (s.getD n 0) a.smscale else negInf
  let bmax := z.foldl fmax negInf
  let mnew := fmax mold bmax
  let dead := decide (mnew = negInf)
  let alpha := if dead then 0 else expRn (fsub mold mnew)
  let p := z.map fun x => if dead then 0 else expRn (fsub x mnew)
  let pq := satRow a.pfmt p
  let sum := colTree (pq.1.map (toF32 a.pfmt))
  (mnew, ffma lold alpha sum, alpha, pq.1, pq.2)

/-- Replace rows by number. -/
def putRows {α : Type} (old : List α) (rows : List FedRow) (new : List α) : List α :=
  (rows.zip new).foldl (fun acc x => setAt acc x.1.m x.2) old

/-- Write a row group's stream into the attention area of a frame (R226, R239). -/
def State.putStream (s : State) (f off : Nat) (bs : List Byte) : State :=
  s.writeMem ((s.regionOfFrame f).getD 0) [(storeAddr f off, bs)]

/-- The score sequence over a tile (R226): the registers of the row group's slot advance, and the probabilities become its feed
stream. -/
def State.scoreSeq (s : State) (f : Nat) (c : AttCtx) (j : AttJob) (tile : List (List Nat)) : State :=
  let s := s.modFrame f fun fr => fr.takeSlot j.slot j.group
  let fr := s.frame f
  let m := slotRows fr.attRegs.max j.slot
  let l := slotRows fr.attRegs.sum j.slot
  let rs := c.rows.map fun r => softmaxRow c j r (tile.getD r.m []) (m.getD r.m 0) (l.getD r.m 0)
  let codes := placeRows c.rows (rs.map fun x => x.2.2.2.1)
  let g := fr.rg j.group
  let exc := noteExc g.exc 0 (c.ncol j) c.rows tile
  let exc := noteExc exc 1 128 c.rows (codes.map fun r => r.map (toF32 c.a.pfmt))
  let s := s.modFrame f fun fr =>
    let r := fr.attRegs
    { (fr.setRg { g with exc := exc, ovf := g.ovf + smGet 0 fr.kvCount j.buf }) with attRegs := { r with
        max := setSlotRows r.max j.slot (putRows m c.rows (rs.map (·.1)))
        sum := setSlotRows r.sum j.slot (putRows l c.rows (rs.map fun x => x.2.1))
        alpha := setSlotRows r.alpha j.slot (putRows (slotRows r.alpha j.slot) c.rows (rs.map fun x => x.2.2.1)) } }
  (s.countRg f j.group ((rs.map fun x => x.2.2.2.2).foldl (· + ·) 0)).putStream f (j.area + pOff j.slot) (rowStream c.a.pfmt 2 codes)

/-- The value sequence over a tile of dimensions 128k on (R227). -/
def State.valueSeq (s : State) (f : Nat) (c : AttCtx) (j : AttJob) (k : Nat) (tile : List (List Nat)) : State :=
  s.modFrame f fun fr =>
    let r := fr.attRegs
    let al := slotRows r.alpha j.slot
    let acc := r.acc (2 * j.slot + k)
    let n := min 128 (c.a.hd - 128 * k)
    let new := (List.range 64).map fun m =>
      if c.rows.any fun r => decide (r.m = m) then
        (List.range 128).map fun i =>
          if i < n then ffma ((acc.getD m []).getD i 0) (al.getD m 0) ((tile.getD m []).getD i 0) else 0
      else acc.getD m []
    let g := fr.rg j.group
    { (fr.setRg { g with exc := noteExc g.exc 2 n c.rows tile }) with attRegs := r.setAcc (2 * j.slot + k) new }

/-- The state of a slot's row group as a part (R231). -/
def Frame.partOf (fr : Frame) (a : AttP) (j : AttJob) : Part :=
  let r := fr.attRegs
  let g := fr.rg j.group
  { group := j.group, home := j.home, m := slotRows r.max j.slot, l := slotRows r.sum j.slot
    acc := (List.range 64).map fun m => (List.range a.hd).map fun i => ((r.acc (2 * j.slot + i / 128)).getD m []).getD (i % 128) 0
    ovf := g.ovf, exc := g.exc }

/-- Tile index of a row group's output digest (R229). -/
def attTidx (c : AttCtx) (g : RowGroup) : Nat :=
  let tiles := ((c.t.take g.entry).map fun x => ceilDiv x.qcount 64).foldl (· + ·) 0
  (c.a.tbase + (if c.a.mode = 1 then (g.entry * c.a.kvh + g.head) * c.a.ntile c.x.qcount + g.tile
    else (tiles + g.tile) * c.a.qh + g.head)) % 2 ^ 24

/-- Finish one row group of a run. -/
def Region.attDone (r : Region) (desc : Nat) : Region :=
  { r with att := r.att.map fun x => if x.desc = desc then { x with todo := x.todo - 1 } else x }

/-- Write a finished row group's output, statistic and digest, from frame f (R228, R229); a request that is not fed any more has
none (R254). -/
def State.attOutput (s : State) (f : Nat) (p : Part) : State :=
  let g := { p.group with part := 0 }
  let c := s.attCtx { group := g, step := .score, kbase := 0 }
  if !(s.region g.rid).feedsNow c.x.ridx then s.modRegion g.rid fun r => r.attDone g.desc
  else
    let outs := c.rows.map fun r => satRow c.a.ofmt ((p.acc.getD r.m []).map fun x => fdiv x (p.l.getD r.m 0))
    let n := (outs.map (·.2)).foldl (· + ·) 0
    let es := fmtBits c.a.ofmt / 8
    let bytes := outs.map fun o => o.1.flatMap fun x => leBytes es x
    let ws := (c.rows.zip bytes).map fun x => (c.a.rowAddr c.a.oaddr c.a.ofmt x.1, x.2)
    let st := if c.a.savestat then c.rows.map fun r =>
        (c.a.stataddr + (r.row * c.a.qh + r.head) * 4, leBytes 4 (fadd (p.m.getD r.m 0) (lnRn (p.l.getD r.m 0)))) else []
    match s.rangeFault g.rid ((ws ++ st).map fun x => (x.1, x.2.length)) with
    | some (code, addr) => s.engineFault g.rid g.desc f code addr
    | none =>
      let exc := noteExc p.exc 3 c.a.hd c.rows (placeRows c.rows (outs.map fun o => o.1.map (toF32 c.a.ofmt)))
      let status := statusWord 0 (p.ovf + n) (exc.map fun x => { stage := x.1, row := x.2.1, col := x.2.2.1, kind := x.2.2.2 })
      let s := (s.writeMem g.rid (ws ++ st)).countFrame f 0 n
      s.modRegion g.rid fun r =>
        let r := if c.a.dig then r.addDigest { layer := c.a.layer, tidx := attTidx c g, crc := crc64 (bytes.flatMap fun x => x),
                                               status := status } else r
        r.attDone g.desc

/-- The end of a row group's part on frame f: the output is written, or, with SPLIT above 1, an engine's transfer takes the part
to part 0's frame (R228, R232). -/
def State.partDone (s : State) (f : Nat) (a : AttP) (j : AttJob) (p : Part) : State :=
  let s := s.modFrame f fun fr => fr.dropRg j.group
  if a.split = 1 then s.attOutput f p
  else
    let t : Xfer := { seq := 0, stamp := s.stamp, who := engineThread f, pc := 0, words := []
                      att := some (.part p j.area (a.zoneOf j.group.part)) }
    { (s.modFrame f fun fr => { fr with attQueue := fr.attQueue ++ [t] }) with stamp := s.stamp + 1 }

/-- Row group number for the order of dQ partials (R240): entry, tile and head. -/
def rgKey (a : AttP) (g : RowGroup) : Nat := (g.entry * 4096 + g.tile) * a.qh + g.head

/-- Key blocks of a row group whose dQ partial has been written. -/
def Region.dqWritten (r : Region) (a : AttP) (g : RowGroup) : Nat :=
  match r.att.find? fun x => decide (x.desc = g.desc) with
  | some x => smGet 0 x.dqNext (rgKey a g)
  | none => 0

/-- Whether key n of a job's block is visible to a row (R219, R220). -/
def AttCtx.sees (c : AttCtx) (j : AttJob) (r : FedRow) (n : Nat) : Bool :=
  decide (n < c.ncol j) && c.a.visible (c.keyEnd j) r.pos (c.keyPos j n)

/-- The score sequence of the backward pass (Table 7-5): PFMT codes of a row, and substitutions. -/
def backProb (c : AttCtx) (j : AttJob) (L : Nat) (r : FedRow) (z : List Nat) : List Nat × Nat :=
  satRow c.a.pfmt ((List.range 128).map fun n =>
    if c.sees j r n then expRn (fsub (fmul (z.getD n 0) c.a.smscale) L) else 0)

/-- dS of a row (Table 7-5). -/
def backDs (c : AttCtx) (j : AttJob) (D : Nat) (r : FedRow) (dp pq : List Nat) : List Nat × Nat :=
  satRow c.a.pfmt ((List.range 128).map fun n =>
    if c.sees j r n then fmul (fmul (toF32 c.a.pfmt (pq.getD n 0)) (fsub (dp.getD n 0) D)) c.a.smscale else 0)

/-- Write a row group's codes as rows and transposed, keys 0 to 63 and 64 to 127 apart (R239). -/
def State.putBoth (s : State) (f : Nat) (c : AttCtx) (rows : Nat) (half : Nat → Nat) (codes : List (List Nat)) : State :=
  let turned := fun h => rowStream c.a.pfmt 1 ((List.range 64).map fun k => columnOf codes (64 * h + k))
  ((s.putStream f rows (rowStream c.a.pfmt 2 codes)).putStream f (half 0) (turned 0)).putStream f (half 1) (turned 1)

/-- Add a tile to an accumulator, element by element (R239). -/
def addTile (acc tile : List (List Nat)) (hd : Nat) : List (List Nat) :=
  (List.range 64).map fun m => (List.range hd).map fun i => fadd ((acc.getD m []).getD i 0) ((tile.getD m []).getD i 0)

/-- The key positions before an entry's, in the order of the table (R238). -/
def keysBefore (t : List LtEntry) (e : Nat) : Nat := ((t.take e).map LtEntry.klen).foldl (· + ·) 0

/-- dK and dV of an item written to DKVADDR (R238, R239). -/
def dkvWrites (c : AttCtx) (j : AttJob) (dk dv : List (List Nat)) : List (Nat × List Byte) :=
  let kv := c.a.kvOf j.group
  let base := keysBefore c.t j.group.entry + j.kbase
  (List.range (c.ncol j)).flatMap fun i => (List.range 2).map fun w =>
    (c.a.dkvaddr + (((base + i) * c.a.kvh + kv) * 2 + w) * c.a.hd * 4,
     ((if w = 0 then dk else dv).getD i []).flatMap fun x => leBytes 4 x)

/-- The dQ partials of a row group (R240): the lowest block's is assigned, a later one added. -/
def dqWrites (c : AttCtx) (s : State) (j : AttJob) (tile : List (List Nat)) : List (Nat × List Byte) :=
  c.rows.map fun r =>
    let a := c.a.rowAddr c.a.dqaddr 0x00 r
    let new := tile.getD r.m []
    (a, (List.range c.a.hd).flatMap fun i =>
      leBytes 4 (if j.kbase = 0 then new.getD i 0 else fadd (readLe s.mem (a + 4 * i) 4) (new.getD i 0)))

/-- The last sequence of a row group in a backward item: dQ, and after the item's last row group dK and dV (R238 to R240). -/
def State.backEnd (s : State) (f : Nat) (c : AttCtx) (j : AttJob) (tile : List (List Nat)) : State :=
  let r := (s.frame f).attRegs
  let ws := dqWrites c s j tile ++ (if j.last then dkvWrites c j (r.acc2 ++ r.acc3) (r.acc0 ++ r.acc1) else [])
  match s.rangeFault j.group.rid (ws.map fun x => (x.1, x.2.length)) with
  | some (code, addr) => s.engineFault j.group.rid j.group.desc f code addr
  | none =>
    let s := (s.writeMem j.group.rid ws).modFrame f fun fr => fr.dropRg j.group
    s.modRegion j.group.rid fun r =>
      let r := { r with att := r.att.map fun x =>
        if x.desc = j.group.desc then { x with dqNext := smSet 0 x.dqNext (rgKey c.a j.group) (j.kbase / 128 + 1) } else x }
      if j.last then r.attDone j.group.desc else r

/-- The sequence that follows an engine's tile (R207, R226, R227, R239), on frame f. -/
def State.attSequence (s : State) (f : Nat) (j : AttJob) (tile : List (List Nat)) : State :=
  let c := s.attCtx j
  let sum := fun (rs : List (List Nat × Nat)) => (rs.map (·.2)).foldl (· + ·) 0
  match j.step with
  | .score => s.scoreSeq f c j tile
  | .value k =>
    let s := s.valueSeq f c j k tile
    if j.last then s.partDone f c.a j ((s.frame f).partOf c.a j) else s
  | .backward 0 =>
    let g := (s.frame f).rg j.group
    let rs := c.rows.map fun r => backProb c j (g.stat.getD r.m 0) r (tile.getD r.m [])
    let s := if j.first then s.modFrame f fun fr => { fr with attRegs := {}, attA := none, attB := none } else s
    (s.countFrame f 0 (sum rs)).putBoth f c (j.area + bProb) (fun h => j.area + bProbT h) (placeRows c.rows (rs.map (·.1)))
  | .backward 1 =>
    let g := (s.frame f).rg j.group
    let pq := fun (r : FedRow) => (List.range 128).map fun n => streamCode s.mem c.a.pfmt (storeAddr f (j.area + bProb)) r.m n
    let rs := c.rows.map fun r => backDs c j (g.d.getD r.m 0) r (tile.getD r.m []) (pq r)
    (s.countFrame f 0 (sum rs)).putBoth f c (j.area + bDs) (fun h => j.area + bDsT h) (placeRows c.rows (rs.map (·.1)))
  | .backward 6 => s.backEnd f c j tile
  | .backward k => s.modFrame f fun fr =>
      { fr with attRegs := fr.attRegs.setAcc (k - 2) (addTile (fr.attRegs.acc (k - 2)) tile c.a.hd) }

/-- Whether a tile job of an engine may start: the sequence that forms its operands has ended (R230, R239). -/
def Frame.attMayStart (fr : Frame) (j : AttJob) : Bool :=
  !(fr.inFlight.any fun e => match e.att with
    | some x => decide (x.group = j.group) && decide (x.step = .score ∨ x.step = .backward 0 ∨ x.step = .backward 1)
    | none => false)

/-! ## Start, completion and merge -/

/-- Whether every earlier descriptor whose rectangles share a frame with this one has completed (R212). -/
def State.attOrderOk (s : State) (rid n : Nat) (w : List W64) : Bool :=
  let mine := attFramesOf s.nv w
  (List.range n).all fun k =>
    match s.attDesc rid k with
    | none => true
    | some v =>
      ((attFramesOf s.nv v).all fun f => !mine.contains f) ||
      (s.region rid).att.any fun x => decide (x.desc = k) && decide (x.phase = .done)

/-- Mark the engines of a descriptor busy or idle. -/
def State.setEngines (s : State) (w : List W64) (busy : Bool) (desc : Nat) : State :=
  (List.range 4).foldl (fun (s : State) e =>
    if (attRect w e).isSome then s.modEngine e fun x => { x with busy := busy, desc := desc, sampler := false } else s) s

/-- Count issued and skipped blocks at an engine (Table 18-13). -/
def State.countBlocks (s : State) (e issued skipped : Nat) : State :=
  s.modEngine e fun x => { x with blocks := satAdd x.blocks issued, skipped := satAdd x.skipped skipped }

/-- Plan a forward run and enter its tasks, engine by engine (R206, R221, R222). -/
def State.enterForward (s : State) (w : List W64) (t : List LtEntry) (r : RunPlan) (gangs : List (List (List RowGroup))) : State :=
  (dealt s.nv w gangs).foldl (fun (s : State) d =>
    let gs := d.2.2.flatMap fun g => g.2.flatMap fun i => i
    let issued := (gs.map fun g => (r.blocks g).length).foldl (· + ·) 0
    let all := (gs.map fun g => match t[g.entry]? with | some x => ceilDiv x.klen 128 | none => 0).foldl (· + ·) 0
    (s.countBlocks d.1 issued (all - issued)).enterTasks (r.engineTasks d.2.1 0 d.2.2)) s

/-- Plan a backward run and enter its tasks, engine by engine (R239). -/
def State.enterBackward (s : State) (w : List W64) (rid desc : Nat) (a : AttP) (t : List LtEntry)
    (items : List (Nat × Nat × Nat)) : State :=
  (dealt s.nv w items).foldl (fun (s : State) d =>
    let ts := a.backEngine rid desc t d.2.1 d.2.2
    let issued := (ts.filter fun x => match x.2 with | .job j => decide (j.step = .backward 0) | _ => false).length
    let all := (d.2.2.map fun it => (a.groupsOf rid desc t it.2.1 it.2.2.1).length).foldl (· + ·) 0
    (s.countBlocks d.1 issued (all - issued)).enterTasks ts) s

/-- Frames on which a run places work: all that a ring run will use in any of its steps (R213). -/
def runFrames (nv : NonVol) (w : List W64) (a : AttP) (gangs : List (List (List RowGroup))) : List Nat :=
  (dealt nv w gangs).flatMap fun d =>
    let used := (d.2.2.map fun g => a.gangSize g.2).foldl (· + ·) 0
    d.2.1.take used

/-- Give a descriptor the deck queues of frames (R213). -/
def State.ownFrames (s : State) (fs : List Nat) (rid n : Nat) : State :=
  fs.foldl (fun (s : State) f => s.modFrame f fun fr => { fr with attOwner := some (rid, n) }) s

/-- A length table as the engine reads it: the address of a malformed entry, or of a lost granule in it, with the fault (R215,
R243, R488). -/
def State.tableFault (s : State) (rid : Nat) (a : AttP) : Option (FCode × Nat) :=
  let token := decide (a.mode = 1)
  match (s.lostGranules rid).find? fun g => rangesMeet (s.tableBase rid token, 16 * (s.region rid).tableLen token) g with
  | some g => some (.other 0x1B, g.1)
  | none => (s.badTable rid a).map fun x => (.other 0x11, x)

/-- Table entries whose rows a descriptor that starts now feeds (R242, R254); ring attention is for one request, the first
(R234). -/
def State.fedEntry (s : State) (rid : Nat) (a : AttP) (t : List LtEntry) (e : Nat) : Bool :=
  (match t[e]? with | some x => (s.region rid).feeds x.ridx | none => false) && (!a.ring || decide (e = 0))

/-- Start a descriptor: the length table is read, the work planned, the frames taken, and transfers and jobs entered (R206, R212,
R213, R220 to R222); a ring descriptor enters them ring step by ring step (R236). From here on its reads of rows that KVAPPs
have finished writing do not race (R241). -/
def State.attBegin (s : State) (rid n : Nat) (w : List W64) : State :=
  let a := attFields w
  let t := s.attTable rid a
  match s.tableFault rid a with
  | some (code, addr) => s.engineFault rid n ((attFramesOf s.nv w).headD 0) code addr
  | none =>
    let fed := s.fedEntry rid a t
    let gangs := a.gangs rid n t fed
    let items := a.backItems t fed
    let back := items.filter fun it => !(a.backTasks rid n t 0 it).isEmpty
    let run : AttRun := {
      desc := n, phase := .running, groups := gangs.flatMap fun g => g.flatMap fun i => i
      todo := if a.mode = 2 then back.length else (gangs.flatMap fun g => g.flatMap fun i => i).length }
    let s := s.modRegion rid fun r => { r with
      att := r.att ++ [run], kvWrites := r.kvWrites.map fun e => if e.ended then { e with settled := n :: e.settled } else e }
    let s := (s.setEngines w true n).ownFrames
      (if a.mode = 2 then (dealt s.nv w back).flatMap fun d => d.2.1.take d.2.2.length else runFrames s.nv w a gangs) rid n
    if a.mode = 2 then s.enterBackward w rid n a t back
    else if a.ring then s
    else s.enterForward w t (plainPlan a t) gangs

/-- The run of a descriptor in the step. -/
def Region.attRun (r : Region) (n : Nat) : Option AttRun := r.att.find? fun x => decide (x.desc = n)

/-- A sampler run holds the frame (R213, R325). -/
def Frame.samplerHeld (fr : Frame) : Bool := match fr.attOwner with | some o => decide (1024 ≤ o.2) | none => false

/-- ATTENTION_DESCRIPTOR_START: descriptor n of a region's list starts when its signal condition holds and earlier
descriptors that share frames have completed (R212), and no sampler run holds one of its frames (R213, R325, log 159);
otherwise nothing happens. -/
def execAttentionDescriptorStart (rid : Fin 4) (n : Fin 1024) (s : State) : Host.Outcome State Fault Refusal :=
  .next (
    match s.attDesc rid.val n.val with
    | none => s
    | some w =>
      let a := attFields w
      let r := s.region rid.val
      if r.run = .stepping ∧ r.attRun n.val = none ∧ a.wval ≤ ((s.frame a.wframe).counter a.wctr).toNat ∧
          s.attOrderOk rid.val n.val w ∧ ((attFramesOf s.nv w).all fun f => !(s.frame f).samplerHeld) then
        s.inStep rid.val fun s => s.attBegin rid.val n.val w
      else s)

/-- ATTENTION_DESCRIPTOR_DONE: every engine has finished: the completion counters are incremented (R212). -/
def execAttentionDescriptorDone (rid : Fin 4) (n : Fin 1024) (s : State) : Host.Outcome State Fault Refusal :=
  .next (
    match s.attDesc rid.val n.val, (s.region rid.val).attRun n.val with
    | some w, some run =>
      let a := attFields w
      if run.phase = .running ∧ run.todo = 0 ∧ (a.ring → 0 < run.ringN ∧ run.ringStep = run.ringN) then
        let s := s.modRegion rid.val fun r =>
          { r with att := r.att.map fun x => if x.desc = n.val then { x with phase := .done, parts := [] } else x }
        let s := s.setEngines w false n.val
        let s := (attFramesOf s.nv w).foldl (fun (s : State) f => s.modFrame f fun fr =>
          { fr with
            attOwner := if fr.attOwner = some (rid.val, n.val) then none else fr.attOwner
            rgs := fr.rgs.filter fun x => !(decide (x.group.rid = rid.val) && decide (x.group.desc = n.val))
            kvStaged := fr.kvStaged.filter fun x => !(decide (x.tag.rid = rid.val) && decide (x.tag.desc = n.val)) }) s
        (rectFrames s.nv a.dfirst a.dlast).foldl (fun (s : State) f => s.addSignal f a.dctr 1) s
      else s
    | _, _ => s)

/-- Merge one part into another, row by row (R232). -/
def mergeParts (p q : Part) : Part :=
  let rows := (List.range 64).map fun i =>
    let m := p.m.getD i negInf
    let mi := q.m.getD i negInf
    let mn := fmax m mi
    let dead := decide (mn = negInf)
    let a := if dead then 0 else expRn (fsub m mn)
    let b := if dead then 0 else expRn (fsub mi mn)
    (mn, ffma (p.l.getD i 0) a (fmul (q.l.getD i 0) b),
     List.zipWith (fun x y => ffma x a (fmul y b)) (p.acc.getD i []) (q.acc.getD i []))
  { p with m := rows.map (·.1), l := rows.map fun x => x.2.1, acc := rows.map fun x => x.2.2, ovf := p.ovf + q.ovf,
           exc := match p.exc with | some x => some x | none => q.exc }

/-- SPLIT_MERGE: the parts of the run's `group`-th row group have all arrived: part 0's frame merges them in part order and the
output follows (R232, R233). -/
def execSplitMerge (rid : Fin 4) (n : Fin 1024) (group : Nat) (s : State) : Host.Outcome State Fault Refusal :=
  .next (
    match s.attDesc rid.val n.val, (s.region rid.val).attRun n.val with
    | some w, some run =>
      let a := attFields w
      match run.groups[group]? with
      | none => s
      | some g =>
        let parts := (List.range a.split).filterMap fun i => run.parts.find? fun p => decide (p.group = { g with part := i })
        match parts with
        | [] => s
        | p0 :: rest =>
          if a.split = 1 ∨ parts.length ≠ a.split then s
          else
            let s := s.modRegion rid.val fun r =>
              { r with att := r.att.map fun x =>
                if x.desc = n.val then { x with parts := x.parts.filter fun p => decide ({ p.group with part := 0 } ≠ g) } else x }
            s.attOutput p0.home (rest.foldl mergeParts p0)
    | _, _ => s)

end Sys2Proof.Machine
end

