-- ==== Sys2Proof/Machine/Tile.lean ====
section
/-! DEFINITION. The deck, chain-unit and tally events (03: R86, R98 to R104; 05: R151, R166 to R168, R173, R176, R177; 07:
R207, R213, R226 to R230, R239, R240). -/

namespace Sys2Proof.Machine

/-! ## Starting the head job -/

/-- The region of a frame; 0 where none holds it. -/
def State.regionOr (s : State) (f : Nat) : Nat := (s.regionOfFrame f).getD 0

/-- An engine's job starts; a request that is not fed any more gives no tile (R242, R254). -/
def State.startAtt (s : State) (f : Nat) (j : Job) (a : AttJob) : State :=
  s.startJob f j (if (s.region a.group.rid).feedsNow (s.attCtx a).x.ridx then (jobFields j.words).accTile f s.mem else [])

/-- Whether a job of a slot that is to be executed again goes first (R177: ahead of jobs not yet started). -/
def Frame.redoFirst (fr : Frame) : Bool := fr.redo.any fun k => decide (fr.vslot k ≠ .bad)

/-- TILE_JOB_START: the job at the head of frame f's deck queue starts, when nothing that it reads is still to be written
(R86, R111, R166), and an engine that has work here enters its next into the free entry (R136, R213); otherwise nothing
happens. -/
def execTileJobStart (f : Fin 384) (s : State) : Host.Outcome State Fault Refusal :=
  if s.nv.frames ≤ f.val then .fault .absentFrame else
  let fr := s.frame f.val
  .next (match fr.deckQueue with
    | [] => s
    | j :: _ =>
      if !s.jobReady f.val j || fr.redoFirst then s
      else
        match j.att with
        | none => s.inStep (s.regionOr f.val) fun s =>
            (s.startJob f.val j ((jobFields j.words).accTile f.val s.mem)).fillAtt f.val
        | some a => if fr.attMayStart a then s.inStep a.group.rid fun s => (s.startAtt f.val j a).fillAtt f.val else s)

/-! ## Delivery -/

/-- The sequence of an engine's tile has ended: the frame's deck queue is free again when the descriptor has no job left for it,
in a ring run in no later ring step (R213). -/
def State.attLeave (s : State) (f : Nat) : State :=
  let fr := s.frame f
  match fr.attOwner with
  | none => s
  | some o =>
    let left := (fr.deckQueue ++ fr.inFlight).any fun j => j.att.isSome
    let ringOn := (attFields ((s.attDesc o.1 o.2).getD [])).ring &&
      (match (s.region o.1).attRun o.2 with | some r => decide (r.ringN = 0 ∨ r.ringStep < r.ringN) | none => false)
    if left || !fr.attTodo.isEmpty || ringOn then s else s.modFrame f fun fr => { fr with attOwner := none }

/-- A row group that gave no tile takes no sequence; its last job still finishes it, with nothing to write. -/
def State.attSkip (s : State) (f : Nat) (j : AttJob) : State :=
  let a := (s.attCtx j).a
  if !j.last then s
  else if a.mode = 2 then (s.modFrame f fun fr => fr.dropRg j.group).modRegion j.group.rid fun r => r.attDone j.group.desc
  else s.partDone f a j (emptyPart a j.group j.home)

/-- Whether the addition of a dQ partial is held back for an earlier block's (R240); a run that has stopped holds nothing back
(R149). -/
def State.dqHeld (s : State) (a : AttJob) : Bool :=
  decide (a.step = .backward 6) && decide ((s.region a.group.rid).run = .stepping) &&
  decide ((s.region a.group.rid).dqWritten (s.attCtx a).a a.group < a.kbase / 128)

/-- An engine's tile has its sequence: it was formed, and its request is still fed (R242, R254). -/
def State.attLive (s : State) (j : Job) (a : AttJob) : Bool :=
  !j.acc.isEmpty && (s.region a.group.rid).feedsNow (s.attCtx a).x.ridx

/-- A chain program has run to its end or to a wait: what R176 does not withhold takes effect, and the job is delivered or waits
(R168, R171). -/
def State.afterRun (s : State) (f : Nat) (j : Job) (w : Option Course) : State :=
  let keep := (s.frame f).withholds j
  let j' := if keep then j else { j with held := {} }
  let s := s.modFrame f fun fr => match w with
    | some x => { fr with course := some { x with job := j' } }
    | none => { fr with delivered := fr.delivered ++ [j'], course := none }
  if keep then s else s.release (s.regionOr f) j.held

/-- Deliver a program's tile: its chain program runs over it as far as its waits let it (R151). -/
def State.deliverChain (s : State) (f : Nat) (j : Job) : State :=
  s.inStep (s.regionOr f) fun s =>
    let r := s.runTile f (s.regionOr f) j
    r.1.afterRun f r.2.1 r.2.2

/-- A chain program that waited goes on where its wait is over (R168, R171). -/
def State.goOnChain (s : State) (f : Nat) : State :=
  match (s.frame f).course with
  | none => s
  | some x => s.inStep (s.regionOr f) fun s =>
    let r := (Chn.resume s x).goOn (chnEnv f (s.regionOr f) x.job)
    r.1.afterRun f r.2.1 r.2.2

/-- The wait of a chain program has timed out: the program faults there, and its job is delivered as that of any program that faults
(R149, R175, R179; log 188). -/
def State.timeOutChain (s : State) (f : Nat) (x : Course) : State :=
  let env := chnEnv f (s.regionOr f) x.job
  let r := ((Chn.resume s x).fail .waitTimeout).finish env
  r.1.afterRun f r.2 none

/-- TILE_DELIVERED: the drain delivers the oldest started tile of frame f, and the chain unit runs the job's chain program
or the fixed attention sequence (R101, R151, R207). A tile behind a program that waits, and a dQ partial that comes before its
turn, are not delivered yet. -/
def execTileDelivered (f : Fin 384) (s : State) : Host.Outcome State Fault Refusal :=
  if s.nv.frames ≤ f.val then .fault .absentFrame else
  let fr := s.frame f.val
  .next (match fr.inFlight with
    | [] => s
    | j :: rest =>
      let s1 := s.modFrame f.val fun fr => { fr with inFlight := rest }
      match j.att with
      | none => if fr.course.isSome then s else (s1.deliverChain f.val j).wakeFrame f.val
      | some a =>
        if (s.attLive j a && s.dqHeld a) || fr.course.isSome then s
        else
          let s2 := if s.attLive j a then s1.inStep a.group.rid fun s => s.attSequence f.val a j.acc else s1.attSkip f.val a
          ((s2.attLeave f.val).wakeFrame f.val).checkPart f.val)

/-! ## The end of a chain program (R173, R176) -/

/-- The completion record of a job (R173). -/
def Job.record (j : Job) : List Byte :=
  leBytes 8 ((jobFields j.words).tag + 2 ^ 16 * j.seq.toNat) ++ leBytes 8 j.status.toNat

/-- A job ends: what was withheld takes effect, its completion record is written, and waiting contexts go on. -/
def State.finishJob (s : State) (f : Nat) (j : Job) : State :=
  let q := paramFields j.params
  let s := s.modRegion (s.regionOr f) fun r => { r with kvWrites := r.kvWrites.map fun e =>
    if e.frame = f ∧ e.seq = j.seq then { e with ended := true } else e }
  let s := s.release (s.regionOr f) j.held
  let s := if q.cren then s.writeMem (s.regionOr f) [(storeAddr f q.crec, j.record)] else s
  (s.wakeFrame f).checkPart f

/-- The oldest delivered job of a frame ends; a provisional one whose slot is not GOOD or IDLE is kept back (R176). -/
def State.endOldest (s : State) (f : Nat) : State :=
  match (s.frame f).delivered with
  | [] => s
  | j :: rest =>
    if (s.frame f).withholds j then
      s.modFrame f fun fr => { fr with delivered := rest, heldJobs := fr.heldJobs ++ [j] }
    else (s.modFrame f fun fr => { fr with delivered := rest }).finishJob f j

/-- CHAIN_PROGRAM_END: the oldest delivered job of frame f has finished its chain program. Where none is delivered, the program
that waits goes on, if its wait is over, and ends when nothing makes it wait again (R168, R171, R173, R176; log 32). -/
def execChainProgramEnd (f : Fin 384) (s : State) : Host.Outcome State Fault Refusal :=
  if s.nv.frames ≤ f.val then .fault .absentFrame else
  .next (if (s.frame f.val).delivered.isEmpty then (s.goOnChain f.val).endOldest f.val else s.endOldest f.val)

/-- End every kept-back job of a frame that nothing withholds any more, in order (R176, R383). -/
def State.releaseHeld (s : State) (f : Nat) : State :=
  let fr := s.frame f
  let go := fr.heldJobs.filter fun j => !fr.withholds j
  go.foldl (fun (s : State) j => s.finishJob f j)
    (s.modFrame f fun fr => { fr with heldJobs := fr.heldJobs.filter fun j => fr.withholds j })

/-! ## Tallies (R167) -/

/-- Put a contribution among those present, by rising contributor index. -/
def insertBy : List (Nat × List Nat) → Nat → List Nat → List (Nat × List Nat)
  | [], i, x => [(i, x)]
  | (k, v) :: r, i, x => if k < i then (k, v) :: insertBy r i x else (i, x) :: (k, v) :: r

/-- TALLY_CONTRIBUTION: the n-th contribution on its way to frame f arrives (R167); one whose index is present already
faults with TALLY_DUP on the receiving frame, in a record that names the contributing job's context, pc, chain store index and
number (R179, log 35). A buffer with contributions of both kinds counts as one of the largest magnitude (log 185). -/
def execTallyContribution (f : Fin 384) (n : Nat) (s : State) : Host.Outcome State Fault Refusal :=
  if s.nv.frames ≤ f.val then .fault .absentFrame else
  let fr := s.frame f.val
  .next (match fr.tallyIn[n]? with
    | none => s
    | some m =>
      let s := s.modFrame f.val fun fr => { fr with tallyIn := fr.tallyIn.eraseIdx n }
      let buf := smGet {} fr.rstat m.buf
      if (buf.present.any fun p => decide (p.1 = m.index)) then
        s.regionFault (s.regionOr f.val)
          (faultRecord .tallyDup { m.who with frame := f } m.pc (chainFaultAddr m.idx m.seq))
      else
        s.modFrame f.val fun fr => { fr with
          rstat := smSet {} fr.rstat m.buf { present := insertBy buf.present m.index m.rows, largest := buf.largest || m.largest } })

/-! ## Executing provisional jobs again (R177, R410) -/

/-- Whether a job carries a verify slot. -/
def Job.carries (j : Job) (k : Nat) : Bool :=
  let p := jobFields j.words
  j.att.isNone && p.prov && decide (p.vslot = k)

/-- Whether a job is executed again for a slot: it carries the slot, and was accepted since the slot's chunk first arrived (R177). -/
def Frame.redoes (fr : Frame) (k : Nat) (j : Job) : Bool := j.carries k && decide (smGet 0 fr.slotSince k ≤ j.stamp)

/-- Execute a job again from freshly read operands: its tile is formed and its chain program runs, and the withheld effects of the first
run are replaced (R177, R410). A buffer that an RC = 1 instruction has read is read again as it was (log 209). -/
def State.runAgain (s : State) (f : Nat) (j : Job) : State × Job × Option Course :=
  let x := s.formAgain f j
  x.1.runTile f (s.regionOr f) { x.2 with held := {} }

/-- Execute every job of a list again that a slot's new delivery asks for, in order (R177). -/
def State.runAllAgain (s : State) (f k : Nat) : List Job → State × List Job
  | [] => (s, [])
  | j :: r =>
    let x := if (s.frame f).redoes k j then (let y := s.runAgain f j; (y.1, y.2.1)) else (s, j)
    let y := x.1.runAllAgain f k r
    (y.1, x.2 :: y.2)

/-- Execute the job of a waiting program again: it runs to its end or to its wait, and what its first run has counted stays
counted (R75, R177). -/
def State.courseAgain (s : State) (f k : Nat) : State :=
  match (s.frame f).course with
  | none => s
  | some x =>
    if !(s.frame f).redoes k x.job then s
    else
      let r := (s.countFrame f x.crush x.ovf).runAgain f { x.job with stats := x.stats }
      r.1.modFrame f fun fr => match r.2.2 with
        | some y => { fr with course := some y }
        | none => { fr with course := none, delivered := fr.delivered ++ [r.2.1] }

/-- Form the tiles of started jobs again that a slot's new delivery asks for, in order (R177). -/
def State.formAllAgain (s : State) (f k : Nat) : List Job → State × List Job
  | [] => (s, [])
  | j :: r =>
    let x := if (s.frame f).redoes k j then s.formAgain f j else (s, j)
    let y := x.1.formAllAgain f k r
    (y.1, x.2 :: y.2)

/-- PROVISIONAL_REEXECUTE: the chunk of a BAD slot has been delivered again: chain buffer slots that jobs of the slot have
filled are emptied; every such job accepted since the chunk first arrived is executed again in its original order, each reading what
those before it have written; and withheld effects are released once the slot is good (R177). Tiles of the slot that are formed and
not delivered are formed again. DESIGN CHOICE: an assembly buffer that a job of the slot has opened is emptied too; a slot or assembly
buffer that another job has filled is not filled again, so that a GATE or STORE that emptied it in its first run faults (log 209). -/
def execProvisionalReexecute (f : Fin 384) (slot : Fin 128) (s : State) : Host.Outcome State Fault Refusal :=
  if s.nv.frames ≤ f.val then .fault .absentFrame else
  let fr := s.frame f.val
  let k := slot.val
  let seqs := ((fr.heldJobs ++ fr.delivered ++ fr.waiting ++ fr.inFlight).filter (fr.redoes k)).map (·.seq)
  .next (
    if !fr.redo.contains k || decide (fr.vslot k = .bad) then s
    else s.inStep (s.regionOr f.val) fun s =>
      let s := s.modFrame f.val fun fr => { fr with
        slots := fr.slots.filter fun (x : Nat × Slot) => decide (x.2.verify ≠ some k)
        assembly := fr.assembly.filter fun a => !seqs.contains a.seq
        redo := fr.redo.filter fun x => decide (x ≠ k) }
      let (s, held) := s.runAllAgain f.val k fr.heldJobs
      let (s, del) := s.runAllAgain f.val k fr.delivered
      let s := (s.modFrame f.val fun fr => { fr with heldJobs := held, delivered := del }).courseAgain f.val k
      let x := s.formAllAgain f.val k (s.frame f.val).inFlight
      (x.1.modFrame f.val fun fr => { fr with inFlight := x.2 }).releaseHeld f.val)

end Sys2Proof.Machine
end

