-- ==== Sys2Proof/Machine/Sampler.lean ====
section
/-! DEFINITION. Lead-in sampling (10: R315 to R317, R320 to R332): the sampler block and record, the choice of a token,
speculative verification, the ends of lead-in, and the two sampler runs of a step. -/

namespace Sys2Proof.Machine

/-! ## The sampler block (Table 10-1) -/

/-- The fields of words 16 to 25 of a request entry. -/
structure SampB where
  temp : Nat
  topk : Nat
  greedy : Bool
  pcount : Bool
  topp : Nat
  minp : Nat
  pres : Nat
  freq : Nat
  seed : Nat
  maxtok : Nat
  nstoptok : Nat
  nstopseq : Nat
  slen : List Nat
  stoptok : List W32
deriving DecidableEq, Repr

/-- Read a sampler block. -/
def sampBlock (w : List W64) : SampB :=
  let g := fun k hi lo => fld (wordAt w k) hi lo
  { temp := g 0 31 0, topk := g 0 42 32, greedy := bitAt (wordAt w 0) 43, pcount := bitAt (wordAt w 0) 44, topp := g 1 31 0,
    minp := g 1 63 32, pres := g 2 31 0, freq := g 2 63 32, seed := g 3 63 0, maxtok := g 4 19 0, nstoptok := g 4 23 20,
    nstopseq := g 4 26 24, slen := (List.range 4).map fun j => g 5 (6 * j + 5) (6 * j),
    stoptok := (List.range 8).map fun j => BitVec.ofNat 32 (g (6 + j / 2) (32 * (j % 2) + 31) (32 * (j % 2))) }

/-- Whether an FP32 pattern is finite. -/
def isFinite (x : Nat) : Bool := match fmtFP32.decode x with | .fin _ _ _ => true | _ => false

/-- x < y as FP32 values. -/
def f32Lt (x y : Nat) : Bool := (fmtFP32.decode x).lt false (fmtFP32.decode y)

/-- A sampler block is malformed (R319); its reserved bits are bits [63:45] of word 16, [63:27] of word 20 and [63:24] of
word 21. -/
def badSampler (w : List W64) : Bool :=
  let b := sampBlock w
  decide (fld (wordAt w 0) 63 45 ≠ 0) || decide (fld (wordAt w 4) 63 27 ≠ 0) || decide (fld (wordAt w 5) 63 24 ≠ 0) ||
  (!b.greedy && (!isFinite b.temp || !f32Lt 0 b.temp || decide (1024 < b.topk) ||
    !f32Lt 0 b.topp || f32Lt fp32One b.topp || (fmtFP32.decode b.topp).isNan ||
    f32Lt b.minp 0 || !f32Lt b.minp fp32One)) ||
  !isFinite b.pres || !isFinite b.freq || decide (8 < b.nstoptok) || decide (4 < b.nstopseq) ||
  (List.range 4).any fun j =>
    let n := b.slen.getD j 0
    if j < b.nstopseq then decide (n = 0) || decide (32 < n) else decide (n ≠ 0)

/-! ## The sampler record (R320 to R322) -/

/-- Address of a request's sampler record. -/
def State.recordAddr (s : State) (rid ridx : Nat) : Nat := (s.region rid).sampBase rid + ridx * 36864

/-- Bytes of a sampler record. -/
def recordSize : Nat := 36864

/-- A count table: its entries (token, first position, count) from the oldest, and evictions. -/
structure CTab where
  entries : List (Nat × Nat × Nat)
  evicted : Nat := 0
deriving DecidableEq, Repr

/-- HEAD of a record. -/
def recHead (m : List Host.Cell) (a : Nat) : Nat := readLe m (a + 33408) 8 % 2 ^ 12

/-- FILL of a record; above 4,096 it is read as 4,096 (R322). -/
def recFill (m : List Host.Cell) (a : Nat) : Nat := min 4096 (bitsOf (readLe m (a + 33408) 8) 24 12)

/-- The count table of a record, in order of first occurrence. -/
def readTab (m : List Host.Cell) (a : Nat) : CTab :=
  { entries := (List.range (recFill m a)).map fun k =>
      let e := readLe m (a + 8 * ((recHead m a + k) % 4096)) 8
      (bitsOf e 31 0, bitsOf e 50 32, bitsOf e 63 51) }

/-- Add 1 to the first entry of a token. -/
def bumpEntry (tok : Nat) : List (Nat × Nat × Nat) → List (Nat × Nat × Nat)
  | [] => []
  | (t, f, c) :: r => if t = tok then (t, f, min 8191 (c + 1)) :: r else (t, f, c) :: bumpEntry tok r

/-- Count a token (R322). -/
def CTab.count (t : CTab) (tok pos : Nat) : CTab :=
  if t.entries.any fun e => decide (e.1 = tok) then { t with entries := bumpEntry tok t.entries }
  else if 4096 ≤ t.entries.length then { entries := t.entries.drop 1 ++ [(tok, pos, 1)], evicted := t.evicted + 1 }
  else { t with entries := t.entries ++ [(tok, pos, 1)] }

/-- A count-table entry as its 8 bytes. -/
def entryBytes (tok pos count : Nat) : List Byte := leBytes 8 (tok + 2 ^ 32 * (pos % 2 ^ 19) + 2 ^ 51 * count)

/-- HEAD and FILL as their 8 bytes. -/
def headFill (head fill : Nat) : List Byte := leBytes 8 (head % 4096 + 2 ^ 12 * fill)

/-- Count a token in a record in memory (R322): the memory, and the evictions. -/
def countInRecord (m : List Host.Cell) (a tok pos : Nat) : List Host.Cell × Nat :=
  let head := recHead m a
  let fill := recFill m a
  let es := (readTab m a).entries
  match es.findIdx? fun e => decide (e.1 = tok) with
  | some k =>
    let e := es.getD k (0, 0, 0)
    (writeBytes m (a + 8 * ((head + k) % 4096)) (entryBytes tok e.2.1 (min 8191 (e.2.2 + 1))), 0)
  | none =>
    if fill = 4096 then
      (writeBytes (writeBytes m (a + 8 * head) (entryBytes tok pos 1)) (a + 33408) (headFill (head + 1) 4096), 1)
    else
      (writeBytes (writeBytes m (a + 8 * ((head + fill) % 4096)) (entryBytes tok pos 1)) (a + 33408) (headFill head (fill + 1)), 0)

/-- Stop sequence j of a record. -/
def stopSeq (m : List Host.Cell) (a j n : Nat) : List W32 :=
  (List.range n).map fun k => BitVec.ofNat 32 (readLe m (a + 32768 + 128 * j + 4 * k) 4)

/-- The posted token of an ordinal in the recent ring. -/
def recentTok (m : List Host.Cell) (a t : Nat) : W32 := BitVec.ofNat 32 (readLe m (a + 33280 + 4 * ((t - 1) % 32)) 4)

/-! ## Random draws (R327) -/

/-- ln of m × 2^e in fixed point. -/
def lnFixed (m : Nat) (e : Int) : Int :=
  ((Nat.log2 m : Int) + e) * (ln2Fix : Int) + (ln1pFix ((m <<< fxP) / 2 ^ Nat.log2 m - fxOne) : Int)

/-- Word i mod 4 of the generator's output. -/
def drawWord (seed t i purpose : Nat) : Nat := (philox seed (i / 4) t purpose 0).getD (i % 4) 0

/-- −ln(−ln u), correctly rounded, for u = (r + 0.5) × 2^−32. -/
def gumbelOf (r : Nat) : Nat :=
  let v := lnFixed (-(lnFixed (2 * r + 1) (-33))).toNat (-(fxP : Int))
  ratRound (decide (0 < v)) v.natAbs fxOne 0

/-- gumbel(t, i, purpose). -/
def gumbel (seed t i purpose : Nat) : Nat := gumbelOf (drawWord seed t i purpose)

/-! ## Choosing a token (R326) -/

/-- Penalise logits by a count table; NaN becomes −∞. -/
def penalised (b : SampB) (tab : CTab) (l : List Nat) : List Nat :=
  let one := fun (l : List Nat) (e : Nat × Nat × Nat) =>
    if e.1 < l.length then
      let x := l.getD e.1 0
      setAt l e.1 (fsub (fsub x (fmul (fmtFP32.ieee .rne false e.2.2 0).1 b.freq)) b.pres)
    else l
  (tab.entries.foldl one l).map fun x => if (fmtFP32.decode x).isNan then negInf else x

/-- The number of the first largest entry of a list of FP32 keys with their tokens, ties to the lower token. -/
def argmaxBy : List (Nat × Nat) → Option (Nat × Nat)
  | [] => none
  | (i, k) :: r =>
    match argmaxBy r with
    | none => some (i, k)
    | some (j, q) => if f32Lt k q || (!f32Lt q k && decide (j < i)) then some (j, q) else some (i, k)

/-- Insert a scaled logit into a list in decreasing order, ties in increasing index, keeping at most `n`. -/
def insertTop (n : Nat) (x : Nat × Nat) : List (Nat × Nat) → List (Nat × Nat)
  | [] => [x].take n
  | y :: r => if f32Lt y.2 x.2 then (x :: y :: r).take n else (y :: insertTop (n - 1) x r).take n

/-- Probabilities over a list in its order: e[j] over the sum of all, in list order. -/
def probsOf (zs : List (Nat × Nat)) : List (Nat × Nat) :=
  let top := zs.foldl (fun a x => fmax a x.2) negInf
  let es := zs.map fun x => (x.1, expRn (fsub x.2 top))
  match es with
  | [] => []
  | e :: r =>
    let s := r.foldl (fun a x => fadd a x.2) e.2
    es.map fun x => (x.1, fdiv x.2 s)

/-- How many entries top-p keeps: the smallest prefix whose running sum reaches TOPP, or all. -/
def topCount (topp : Nat) : Nat → List (Nat × Nat) → Nat
  | _, [] => 0
  | acc, x :: r => if !f32Lt (fadd acc x.2) topp then 1 else 1 + topCount topp (fadd acc x.2) r

/-- As `topCount`, the first entry being the start of the sum. -/
def topKeep (topp : Nat) : List (Nat × Nat) → Nat
  | [] => 0
  | x :: r => if !f32Lt x.2 topp then 1 else 1 + topCount topp x.2 r

/-- The kept list of scaled logits, with probabilities (R326, R328; the renormalisation of log 36). -/
def keptList (b : SampB) (z : List Nat) : List (Nat × Nat) :=
  match z.findIdx? fun x => decide (x = fmtFP32.infCode) with
  | some i => [(i, fp32One)]
  | none =>
    let fin := (z.mapIdx fun i x => (i, x)).filter fun x => isFinite x.2
    if b.topk = 0 ∧ b.topp = fp32One ∧ (fmtFP32.decode b.minp).isZero then probsOf fin
    else
      let kk := if b.topk = 0 then 1024 else b.topk
      let list := fin.foldl (fun acc x => insertTop kk x acc) []
      let p := probsOf list
      let m := topKeep b.topp p
      let low := fmul b.minp ((p.headD (0, 0)).2)
      let keep := ((list.zip p).take m).filter fun x => !f32Lt x.2.2 low
      probsOf (keep.map (·.1))

/-- Probability of a token in a kept list; +0 where it is not kept. -/
def probIn (ps : List (Nat × Nat)) (i : Nat) : Nat :=
  match ps.find? fun x => decide (x.1 = i) with
  | some x => x.2
  | none => 0

/-- Scaled logits. -/
def scaled (b : SampB) (l : List Nat) : List Nat := l.map fun x => fdiv x b.temp

/-- Draw from a kept list (R326). -/
def drawFrom (b : SampB) (z : List Nat) (ps : List (Nat × Nat)) (t purpose : Nat) : Option Nat :=
  (argmaxBy (ps.map fun x => (x.1, fadd (z.getD x.1 0) (gumbel b.seed t x.1 purpose)))).map (·.1)

/-- Every penalised logit is −∞. -/
def allNegInf (l : List Nat) : Bool := l.all fun x => decide (x = negInf)

/-- The greedy choice. -/
def greedyOf (l : List Nat) : Option Nat :=
  if allNegInf l then none else (argmaxBy (l.mapIdx fun i x => (i, x))).map (·.1)

/-- choose(l, t, purpose) on penalised logits: the token, and the kept list. -/
def chooseTok (b : SampB) (l : List Nat) (t purpose : Nat) : Option Nat × List (Nat × Nat) :=
  if b.greedy then (greedyOf l, [])
  else if allNegInf l then (none, [])
  else
    let z := scaled b l
    let ps := keptList b z
    (drawFrom b z ps t purpose, ps)

/-- u × q < p, exactly, for u = (r + 0.5) × 2^−32 (R332). -/
def acceptTest (r q p : Nat) : Bool :=
  match fmtFP32.decode q, fmtFP32.decode p with
  | .fin _ mq eq, .fin _ mp ep => magLt ((2 * r + 1) * mq) (eq - 33) mp ep
  | _, _ => false

/-- The residual choice after a rejection (R332). -/
def residual (b : SampB) (z : List Nat) (p q : List (Nat × Nat)) (t : Nat) : Option Nat :=
  let more := p.filter fun x => f32Lt (probIn q x.1) x.2
  if more.isEmpty then drawFrom b z p t 3
  else (argmaxBy (more.map fun x =>
    (x.1, fadd (lnRn (fsub x.2 (probIn q x.1))) (gumbel b.seed t x.1 3)))).map (·.1)

/-- Verify the drafts from row j on (R332): the accepted drafts that follow, and the token after them. `rows` gives a row's
logits penalised by the record's counts and the drafts before it. -/
def verifyFrom (b : SampB) (g : Nat) (rows : Nat → List Nat) :
    Nat → List (Nat × List (Nat × Nat)) → List Nat × Option Nat
  | j, [] => ([], (chooseTok b (rows j) (g + 1 + j) 1).1)
  | j, (d, q) :: rest =>
    let l := rows j
    if b.greedy then
      if greedyOf l = some d then
        let r := verifyFrom b g rows (j + 1) rest
        (d :: r.1, r.2)
      else ([], greedyOf l)
    else
      let z := scaled b l
      let p := if allNegInf l then [] else keptList b z
      if acceptTest (drawWord b.seed (g + 1 + j) d 2) (probIn q d) (probIn p d) then
        let r := verifyFrom b g rows (j + 1) rest
        (d :: r.1, r.2)
      else ([], residual b z p q (g + 1 + j))

/-! ## Ends of lead-in (R316, R329) -/

/-- Largest number of tokens posted for a request (R316). -/
def Req.npost (r : Req) : Nat := max 1 r.budget

/-- What Table 10-4 makes of a request. -/
inductive LeadEnd where
  | goOn | ends (status : Nat) | handover
deriving DecidableEq, Repr

/-- The condition of orders 2 to 6 that a posted token meets, `recent` being the posted tokens from the latest back. -/
def tokenEnd (b : SampB) (r : Req) (seqs : List (List W32)) (recent : List W32) (generated : Nat) : LeadEnd :=
  if (b.stoptok.take b.nstoptok).any fun x => decide (some x = recent.head?) then .ends Status.stopToken
  else if seqs.any fun q => decide (recent.take q.length = q.reverse) then .ends Status.stopSequence
  else if b.maxtok ≠ 0 ∧ generated = b.maxtok then .ends Status.stopMaxtok
  else if generated = r.npost then (if r.handoff then .handover else .ends Status.leadinDone)
  else .goOn

/-- The tokens posted of a step's choices, and how the request goes on (R329). -/
def leadEnds (b : SampB) (r : Req) (seqs : List (List W32)) : List W32 → Nat → List (Option W32) → List W32 × LeadEnd
  | _, _, [] => ([], .goOn)
  | _, _, none :: _ => ([], .ends Status.sampleInvalid)
  | recent, n, some x :: rest =>
    match tokenEnd b r seqs (x :: recent) (n + 1) with
    | .goOn =>
      let y := leadEnds b r seqs (x :: recent) (n + 1) rest
      (x :: y.1, y.2)
    | e => ([x], e)

/-- The tokens a step posts for a request, and its end under Table 10-4. -/
def State.leadResult (s : State) (rid ridx : Nat) (tokens : List (Option W32)) : List W32 × LeadEnd :=
  let r := s.req ridx
  let b := sampBlock r.sampler
  let a := s.recordAddr rid ridx
  let seqs := (List.range b.nstopseq).map fun j => stopSeq s.mem a j (b.slen.getD j 0)
  let recent := (List.range (min 32 r.generated)).map fun k => recentTok s.mem a (r.generated - k)
  leadEnds b r seqs recent r.generated tokens

/-! ## Sampler runs (R323 to R325) -/

/-- The fields of a sampler descriptor (Table 10-3). -/
structure SampP where
  vocab : Nat
  logaddr : Nat
  tokaddr : Nat
  wframe : Nat
  wctr : Nat
  wval : Nat
  dfirst : Nat
  dlast : Nat
  dctr : Nat
deriving DecidableEq, Repr

/-- Read a sampler descriptor. -/
def sampFields (w : List W64) : SampP :=
  let g := fun k hi lo => fld (wordAt w k) hi lo
  { vocab := g 0 16 0 + 1, logaddr := g 1 47 0, tokaddr := g 2 47 0, wframe := g 5 8 0, wctr := g 5 13 9, wval := g 5 45 14,
    dfirst := g 6 8 0, dlast := g 6 17 9, dctr := g 6 22 18 }

/-- A region's sampler descriptor for a slot; none where it is absent. -/
def State.sampDesc (s : State) (rid slot : Nat) : Option (List W64) :=
  match (s.region rid).image with
  | some im =>
    let w := im.sampler.getD slot []
    if w.all fun x => decide (x = 0) then none else some w
  | none => none

/-- Change a slot's sampler run. -/
def Region.modSamp (r : Region) (slot : Nat) (f : SampRun → SampRun) : Region :=
  if slot = 0 then { r with samp0 := f r.samp0 } else { r with samp1 := f r.samp1 }

/-- The step's record of a request. -/
def Region.stepOf (r : Region) (ridx : Nat) : StepReq := (r.stepReqs.find? fun x => decide (x.ridx = ridx)).getD { ridx := ridx }

/-- One request's share of a run: its index, its first row and how many rows it has. -/
structure SampItem where
  ridx : Nat
  row : Nat
  n : Nat
deriving DecidableEq, Repr

/-- Rows of descriptor 0 (R324). -/
def rowsFrom : Nat → List (Nat × Nat) → List SampItem
  | _, [] => []
  | k, (ridx, n) :: r => { ridx := ridx, row := k, n := n } :: rowsFrom (k + n) r

/-- The items of descriptor 0: prompts that end in the step, then token-table entries. -/
def State.mainItems (s : State) (rid : Nat) : List SampItem :=
  let r := s.region rid
  let ends := (s.lengthTable rid false).filter fun x =>
    decide ((s.req x.ridx).promptDone + (r.stepOf x.ridx).grant = (s.req x.ridx).promptLen)
  rowsFrom 0 (ends.map (fun x => (x.ridx, 1)) ++ (s.lengthTable rid true).map fun x => (x.ridx, x.qcount))

/-- The items of draft pass i: entries whose KCUR is at least i and that have every earlier draft (R324, R331). -/
def State.draftItems (s : State) (rid i : Nat) : List SampItem :=
  let r := s.region rid
  ((s.lengthTable rid true).mapIdx fun e x => ({ ridx := x.ridx, row := e * 8 + i - 1, n := 1 } : SampItem)).filter fun x =>
    decide (i ≤ (s.req x.ridx).kcur) && decide ((r.stepOf x.ridx).drafts.length = i - 1)

/-- Where a row's logits lie (R324). -/
def SampP.logitRange (p : SampP) (row : Nat) : Nat × Nat := (p.logaddr + row * p.vocab * 4, p.vocab * 4)

/-- What a run reads of a request's record: the count table, and in the main model's run the stop sequences and the recent ring
(R320 to R322, R326, R329). -/
def State.recordReads (s : State) (rid slot ridx : Nat) : List (Nat × Nat) :=
  let b := sampBlock (s.req ridx).sampler
  let a := s.recordAddr rid ridx
  (a + 33408, 8) :: ((List.range (recFill s.mem a)).map fun k => (a + 8 * ((recHead s.mem a + k) % 4096), 8)) ++
  if slot = 0 then
    ((List.range b.nstopseq).map fun j => (a + 32768 + 128 * j, 4 * b.slen.getD j 0)) ++
    (List.range (min 32 (s.req ridx).generated)).map fun k => (a + 33280 + 4 * (((s.req ridx).generated - k - 1) % 32), 4)
  else []

/-- Rows of a run's items. -/
def sampRows (items : List SampItem) : List Nat := items.flatMap fun x => (List.range x.n).map fun j => x.row + j

/-- The fault of a run over items: a row does not lie in the region's windows with its logits and its token word (R197, R324), or the
logits or what the run reads of a record hold a lost granule (R488); the token words are only written. -/
def State.rowFault (s : State) (rid slot : Nat) (p : SampP) (items : List SampItem) : Option (FCode × Nat) :=
  let rows := sampRows items
  (s.rangeFault rid (rows.flatMap fun r => [p.logitRange r, (p.tokaddr + 4 * r, 4)])).or
    (s.lostRead rid (rows.map p.logitRange ++ items.flatMap fun x => s.recordReads rid slot x.ridx))

/-! ## Staging (R213, R325) -/

/-- The frame that samples a row, and the address in its attention area where the row's logits are staged (R325, log 38). -/
def stagePlace (nv : NonVol) (w : List W64) (row : Nat) : Nat :=
  let fs := attFramesOf nv (sampRects w)
  storeAddr (fs.getD (Config.samplerFrame w row % fs.length) 0)
    (samplerBase w + 4 * (Config.samplerOffset w row % (0x20000 - (sampFields w).vocab + 1)))

/-- What a run stages: the logits of each row. -/
def State.stageWrites (s : State) (w : List W64) (rows : List Nat) : List (Nat × List Byte) :=
  rows.map fun k => (stagePlace s.nv w k, readBytes s.mem ((sampFields w).logitRange k).1 ((sampFields w).logitRange k).2)

/-- Whether a run may stage its rows: no transfer that its frames' DMA engines have accepted writes, or may yet write, into the
attention area, and no job that a frame has accepted still reads what the rows replace (R111, R112, R213). -/
def State.stageReady (s : State) (w : List W64) (rows : List Nat) : Bool :=
  (attFramesOf s.nv (sampRects w)).all (fun f =>
    let fr := s.frame f
    !(fr.dmaQueue ++ fr.attQueue ++ fr.dmaActive).any fun t => t.unplaced ||
      anyMeet [(samplerBase w, 0x80000)] ((s.destRanges f t).flatMap fun x => storeRange f x.1 x.2)) &&
  !s.writeHeld s.stamp (s.stageWrites w rows)

/-- Logits of a row. -/
def SampP.logits (p : SampP) (m : List Host.Cell) (row : Nat) : List Nat :=
  (List.range p.vocab).map fun i => readLe m (p.logaddr + row * p.vocab * 4 + 4 * i) 4

/-- The count table with drafts counted in (R331). -/
def State.tabWith (s : State) (rid ridx : Nat) (ds : List W32) : CTab :=
  let r := s.req ridx
  let base := r.vlen + r.promptLen + r.generated
  (ds.mapIdx fun k d => (d.toNat, base + k)).foldl (fun t x => t.count x.1 x.2) (readTab s.mem (s.recordAddr rid ridx))

/-- The choices of one request on descriptor 0 (R315, R326, R332): in ordinal order, with the drafts accepted. -/
def State.mainChoice (s : State) (rid : Nat) (p : SampP) (x : SampItem) : List (Option W32) × Nat :=
  let r := s.req x.ridx
  let b := sampBlock r.sampler
  let st := (s.region rid).stepOf x.ridx
  let ds := st.drafts
  let rows := fun j => penalised b (s.tabWith rid x.ridx (ds.take j)) (p.logits s.mem (x.row + j))
  let v := verifyFrom b r.generated rows 0 (ds.mapIdx fun j d => (d.toNat, st.dq.getD j []))
  (v.1.map (fun d => some (BitVec.ofNat 32 d)) ++ [v.2.map (BitVec.ofNat 32)], v.1.length)

/-- The token written for a row: none is 0xFFFF_FFFF (R325). -/
def tokWord (t : Option W32) : W32 := t.getD 0xFFFFFFFF

/-- Run descriptor 0 for one request: its choices are kept for the boundary, its rows' tokens for the write. -/
def State.runMain (rid : Nat) (p : SampP) (s : State) (x : SampItem) : State :=
  let c := s.mainChoice rid p x
  let posted := (s.leadResult rid x.ridx c.1).1
  let ws := (List.range x.n).map fun j => (x.row + j, tokWord posted[j]?)
  s.modRegion rid fun r =>
    { (r.modStep x.ridx fun y => { y with tokens := c.1, accepted := c.2, present := y.drafts.length }) with
      samp0 := { r.samp0 with writes := r.samp0.writes ++ ws } }

/-- Run one draft pass for one request (R331). -/
def State.runDraft (rid : Nat) (p : SampP) (s : State) (x : SampItem) : State :=
  let rq := s.req x.ridx
  let b := sampBlock rq.sampler
  let st := (s.region rid).stepOf x.ridx
  let i := st.drafts.length + 1
  let c := chooseTok b (penalised b (s.tabWith rid x.ridx st.drafts) (p.logits s.mem x.row)) (rq.generated + i) 4
  s.modRegion rid fun r =>
    { (match c.1 with
       | some t => r.modStep x.ridx fun y => { y with drafts := y.drafts ++ [BitVec.ofNat 32 t], dq := y.dq ++ [c.2] }
       | none => r) with
      samp1 := { r.samp1 with writes := r.samp1.writes ++ [(x.row, tokWord (c.1.map (BitVec.ofNat 32)))] } }

/-- A run's frames, engines and state once it has started, for the `n`-th time in the step (R212, R213, R325). -/
def State.sampStart (s : State) (rid slot n : Nat) (w : List W64) : State :=
  let s := s.modRegion rid fun r => r.modSamp slot fun x => { x with phase := .running, starts := n, writes := [] }
  let s := (attFramesOf s.nv (sampRects w)).foldl (fun (s : State) f =>
    s.modFrame f fun fr => { fr with attOwner := some (rid, sampOwner slot) }) s
  (List.range 4).foldl (fun (s : State) e =>
    if (attRect (sampRects w) e).isSome then
      s.modEngine e fun x => { x with busy := true, desc := slot, sampler := true } else s) s

/-- SAMPLER_RUN_START: descriptor `slot` starts when its signal condition holds, its frames are free and nothing earlier is still to be
written or read in their attention areas (R111, R112, R212, R213, R324, R325): the rows are checked, chosen and staged; otherwise
nothing happens. -/
def execSamplerRunStart (rid : Fin 4) (slot : Fin 2) (s : State) : Host.Outcome State Fault Refusal :=
  .next (
    match s.sampDesc rid.val slot.val with
    | none => s
    | some w =>
      let p := sampFields w
      let r := s.region rid.val
      let run := r.samp slot.val
      let frames := attFramesOf s.nv (sampRects w)
      let items := if slot = 0 then s.mainItems rid.val else s.draftItems rid.val (run.starts + 1)
      if r.run ≠ .stepping ∨ run.phase = .running ∨ (slot = 0 ∧ run.phase = .done) ∨
          ((s.frame p.wframe).counter p.wctr).toNat < p.wval ∨ frames.any (fun f => (s.frame f).attOwner.isSome) ∨
          s.stageReady w (sampRows items) = false then s
      else
        match s.rowFault rid.val slot.val p items with
        | some (code, addr) => s.engineFault rid.val (sampOwner slot.val) (frames.headD 0) code addr
        | none =>
          (s.sampStart rid.val slot.val (run.starts + 1) w).inStep rid.val fun s =>
            let t := items.foldl (if slot = 0 then State.runMain rid.val p else State.runDraft rid.val p) s
            t.writeMem rid.val (s.stageWrites w (sampRows items)))

/-- SAMPLER_RUN_DONE: the chosen tokens are written and the completion counters are incremented (R212, R325). -/
def execSamplerRunDone (rid : Fin 4) (slot : Fin 2) (s : State) : Host.Outcome State Fault Refusal :=
  .next (
    match s.sampDesc rid.val slot.val with
    | none => s
    | some w =>
      let p := sampFields w
      let run := (s.region rid.val).samp slot.val
      if run.phase ≠ .running then s
      else
        let ws := run.writes.map fun x => (p.tokaddr + 4 * x.1, leBytes 4 x.2.toNat)
        let s := s.writeMem rid.val ws
        let s := s.modRegion rid.val fun r => r.modSamp slot.val fun x => { x with phase := .done, writes := [] }
        let s := (List.range 4).foldl (fun (s : State) e =>
          if (attRect (sampRects w) e).isSome then s.modEngine e fun x => { x with busy := false } else s) s
        let s := (attFramesOf s.nv (sampRects w)).foldl (fun (s : State) f => s.modFrame f fun fr =>
          { fr with attOwner := if fr.attOwner = some (rid.val, sampOwner slot.val) then none else fr.attOwner }) s
        let s := (attFramesOf s.nv (sampRects w)).foldl (fun (s : State) f => s.wakeFrame f) s
        (rectFrames s.nv p.dfirst p.dlast).foldl (fun (s : State) f => s.addSignal f p.dctr 1) s)

end Sys2Proof.Machine
end

