-- ==== Sys2Proof/Machine/Serving.lean ====
section
/-! DEFINITION. Serving (09: R291, R294, R296, R300, R305 to R308; 14: R431, R432; 17: R496): bound tables, the set-up
check, the split of columns, demotion, and the completions of requests. -/

namespace Sys2Proof.Machine

/-! ## Completions of a request (R431) -/

/-- The flags of a request's completions. -/
def Req.flags (r : Req) : CFlags := { late := r.late, demoted := r.demoted, hmiss := r.hmiss }

/-- Post a completion of request i. -/
def State.postReq (s : State) (i : Nat) (kind : CKind) (status : Nat) (payload : List W64) (reserved : Bool) : State :=
  let r := s.req i
  if r.noPost then s else s.complete r.queue kind status r.flags r.hosttag i payload reserved

/-- The END payload (R299, R431). -/
def Req.endPayload (r : Req) : List W64 :=
  [BitVec.ofNat 64 (r.generated + 2 ^ 10 * r.seqlen),
   if r.firsttok = 0 then 0 else r.firsttok - r.arrival,
   BitVec.ofNat 64 (r.maxgap + 2 ^ 32 * r.gapmiss), BitVec.ofNat 64 (r.drafted + 2 ^ 32 * r.accepted)]

/-- End request i with a status: its earmark returns, its END completion is posted in the entry reserved for it, and it
awaits release (R287, R432). -/
def State.endReq (s : State) (i status : Nat) : State :=
  let s := s.modReq i fun r => { r with
    state := .ended, endstat := BitVec.ofNat 8 status, earmark := false, earPages0 := 0, earPages1 := 0, earBlocks := 0,
    abort := false }
  let s := s.postReq i .finish status (s.req i).endPayload true
  s.modReq i fun r => { r with endPosted := true }

/-- Post a DEMOTED completion, or hold it until an entry of the queue frees (R432). -/
def State.postDemoted (s : State) (i : Nat) : State :=
  let r := s.req i
  let q := s.queue r.queue
  if r.noPost then s
  else if q.reserved < q.freeCq then
    (s.postReq i .demoted 0 [BitVec.ofNat 64 r.cls] false).modReq i fun r => { r with heldDemoted := false }
  else s.modReq i fun r => { r with heldDemoted := true }

/-- Post held DEMOTED completions of a queue's requests, as far as entries are free (R432). -/
def State.postHeld (s : State) (q : Nat) : State :=
  ((s.reqs.filter fun (x : Nat × Req) => decide (x.2.queue = q) && x.2.heldDemoted).map (·.1)).foldl State.postDemoted s

/-! ## Bound tables (R294, Table 14-9) -/

/-- The region widths: 0, the listed lead widths below C, and C (R291). -/
def Image.widths (im : Image) (c : Nat) : List Nat := 0 :: im.leadw ++ [c]

/-- The pair of clock steps in force, West major. -/
def State.stepPair (s : State) : Nat := 3 * s.pwr.west.step.toNat + s.pwr.east.step.toNat

/-- Entries of the bound tables before those of the width at an index. -/
def boundBase : Nat → Nat
  | 0 => 0
  | i + 1 => 4096 + i * (4096 + 32768)

/-- One value of the bound tables. -/
def Image.bound (im : Image) (pair entry : Nat) : Nat := leNat ((im.bounds.drop ((9 * entry + pair) * 4)).take 4)

/-- cb_prompt(n, C − v) for the region width v at index i. -/
def Image.cbPrompt (im : Image) (pair i n : Nat) : Nat := im.bound pair (boundBase i + n / 64 - 1)

/-- cb_lead(l, v) for the region width v at index i of widths whose last is C. -/
def Image.cbLead (im : Image) (pair c i l : Nat) : Nat :=
  im.bound pair (boundBase i + (if (im.widths c).getD i 0 = c then 0 else 4096) + l - 1)

/-- The largest multiple of 64 positions whose prompt bound beside the width at index i is within a limit; 0 where none
is. -/
def Image.capacity (im : Image) (pair i limit : Nat) : Nat :=
  (List.range 4096).foldl (fun n k => if im.cbPrompt pair i (64 * (k + 1)) ≤ limit then 64 * (k + 1) else n) 0

/-- BND in ticks (R289, R496). -/
def State.bnd (s : State) : Nat :=
  let n := (s.sys.cores.filter fun c => decide (c = .service)).length
  if 4 ≤ n then 50000 else ceilDiv 200000 (max 1 n)

/-! ## The set-up check (R296) -/

/-- What the check finds: accept with a chunk capacity, or refuse naming the class and the shortfall. -/
inductive SetupCheck where
  | accept (n : Nat)
  | refuse (cls shortfall : Nat)
deriving DecidableEq, Repr

/-- Ticks of the wake that a LOWSTATE charges. -/
def wakeTicks (low : Nat) : Nat := if low = 0 then 0 else if low = 1 then 2000 else 400000

/-- The per-class part of the check. -/
def checkClasses (cs : List ClassRec) (guar : Nat → Bool) (wake t n : Nat) : Nat → Nat → List Nat → SetupCheck
  | _, _, [] => .accept n
  | k, ahead, x :: rest =>
    let c := cs.getD x {}
    if !guar x then checkClasses cs guar wake t n (k + 1) ahead rest
    else
      let ahead := ahead + c.maxreq * c.maxprompt
      let b := wake + t + ceilDiv ahead n * t
      if c.ttft < b then .refuse x (b - c.ttft)
      else if c.tbt ≠ 0 ∧ c.tbt < t then .refuse x (t - c.tbt)
      else checkClasses cs guar wake t n (k + 1) ahead rest

/-- lmax of the check: guaranteed requests that can be in LEAD at once. -/
def Setup.lmax (su : Setup) (guar : Nat → Bool) : Nat :=
  min 32768 ((((List.range 8).filter guar).map fun k => (su.classes.getD k {}).maxreq).foldl (· + ·) 0)

/-- Index of w in the check: the smallest listed width whose lead bound for lmax requests is within STEP_MAX. -/
def State.checkWidth (s : State) (im : Image) (su : Setup) (guar : Nat → Bool) (c : Nat) : Option Nat :=
  ((List.range im.leadw.length).map (· + 1)).find? fun i => decide (im.cbLead s.stepPair c i (su.lmax guar) ≤ su.stepMax)

/-- n of the check: the chunk capacity beside that width; none where the check ends before it is computed. -/
def State.checkChunk (s : State) (im : Image) (su : Setup) (guar : Nat → Bool) (c : Nat) : Option Nat :=
  if su.lmax guar = 0 then none else (s.checkWidth im su guar c).map fun i => im.capacity s.stepPair i su.stepMax

/-- Check a set-up for a region of c columns with an image, taking as guaranteed the classes that `guar` names. -/
def State.checkSetup (s : State) (im : Image) (su : Setup) (guar : Nat → Bool) (c : Nat) : SetupCheck :=
  let t := su.stepMax + s.bnd
  let pair := s.stepPair
  match (List.range 8).filter guar with
  | [] => .accept 0
  | g :: _ =>
    if su.lmax guar = 0 then .accept 0
    else if im.leadw.isEmpty then .refuse g t
    else
      match s.checkWidth im su guar c with
      | none => .refuse g (im.cbLead pair c im.leadw.length (su.lmax guar) - su.stepMax)
      | some i =>
        let n := im.capacity pair i su.stepMax
        if n = 0 then .refuse g (im.cbPrompt pair i 64 - su.stepMax)
        else checkClasses su.classes guar (wakeTicks su.lowstate) t n 0 0 (List.range 8)

/-- A class is guaranteed: marked so in the set-up and not demoted (R306). -/
def Region.guaranteed (r : Region) (k : Nat) : Bool :=
  match r.setup with
  | some su => (su.classes.getD k {}).guar && !r.demoted.getLsbD k
  | none => false

/-- The chunk capacity that the check computes for the set-up in force at the clock steps in force, whether or not the check goes on to
pass; DESIGN CHOICE: 1 where it computes none, or 0 (R288; log 192). -/
def State.setupCapacity (s : State) (n : Nat) : Nat :=
  let r := s.region n
  match r.setup, r.image with
  | some su, some im => max 1 ((s.checkChunk im su (fun k => (su.classes.getD k {}).guar) (r.cols s.nv)).getD 1)
  | _, _ => 1

/-! ## Deadlines and demotion (R300, R305 to R308) -/

/-- The deadline of a request, if it has one (R300). -/
def Req.deadline (r : Req) : Option Nat :=
  match r.state with
  | .queued | .prompt => some r.ttftdl.toNat
  | .lead => if r.tbt = 0 then none else some (r.lasttok.toNat + r.tbt)
  | _ => none

/-- Requests of a region that are not FREE or ENDED, in increasing index. -/
def State.live (s : State) (n : Nat) : List Nat :=
  (s.reqs.filter fun (x : Nat × Req) => decide (x.2.region = n) && decide (x.2.state ≠ .free) && decide (x.2.state ≠ .ended)).map (·.1)

/-- Withdraw guarantees from the lowest priority up until the check passes (R306): the classes still guaranteed. -/
def State.withdraw (s : State) (im : Image) (su : Setup) (c : Nat) : Nat → List Nat → List Nat
  | 0, gs => gs
  | k + 1, gs =>
    match s.checkSetup im su (fun x => gs.contains x) c with
    | .accept _ => gs
    | .refuse _ _ => s.withdraw im su c k gs.dropLast

/-- Tell the requests of demoted classes that still hold a promise and a deadline ahead (R308); a QUERY shows it at once (log 208). -/
def State.demoteReqs (s : State) (n : Nat) (gone : List Nat) : State :=
  ((s.live n).filter fun i =>
    let r := s.req i
    gone.contains r.cls && !r.besteff && (match r.deadline with | some d => decide (s.gc.toNat < d) | none => false)).foldl
    (fun (s : State) i => (s.modReq i fun r => { r with demoted := true, besteff := true }).postDemoted i) s

/-- Re-run the check of one region and demote what no longer holds (R305, R306); where it fails, every demoted class is looked at
(R308). DESIGN CHOICE: R296 has no input for the retry state, so a re-run after a second retry sees the clock steps and columns only (log
218). -/
def State.recheckRegion (s : State) (n : Nat) : State :=
  let r := s.region n
  match r.setup, r.image with
  | some su, some im =>
    let gs := (List.range 8).filter r.guaranteed
    let keep := s.withdraw im su (r.cols s.nv) 8 gs
    let gone := gs.filter fun k => !keep.contains k
    if gone.isEmpty then s
    else
      let s := s.modRegion n fun r => { r with demoted := gone.foldl (fun (d : BitVec 8) k => d ||| (1#8 <<< k)) r.demoted }
      s.demoteReqs n ((List.range 8).filter fun k => (s.region n).demoted.getLsbD k)
  | _, _ => s

/-- Re-run the check of every region (R305). -/
def State.recheckAll (s : State) : State := (List.range 4).foldl State.recheckRegion s

/-- Restore demoted classes from class 0 upward as long as the check passes (R307). -/
def State.restore (s : State) (im : Image) (su : Setup) (c : Nat) : List Nat → List Nat → List Nat
  | gs, [] => gs
  | gs, k :: rest =>
    match s.checkSetup im su (fun x => gs.contains x || decide (x = k)) c with
    | .accept _ => s.restore im su c (k :: gs) rest
    | .refuse _ _ => gs

/-- The check at a boundary of a region with demoted classes (R307). -/
def State.restoreRegion (s : State) (n : Nat) : State :=
  let r := s.region n
  match r.setup, r.image with
  | some su, some im =>
    if r.demoted = 0 then s
    else
      let gs := (List.range 8).filter r.guaranteed
      let out := (List.range 8).filter fun k => r.demoted.getLsbD k && (su.classes.getD k {}).guar
      let now := s.restore im su (r.cols s.nv) gs out
      s.modRegion n fun r => { r with
        demoted := (out.filter fun k => !now.contains k).foldl (fun (d : BitVec 8) k => d ||| (1#8 <<< k)) 0 }
  | _, _ => s

/-- SETUP_RECHECK: after a clock, frame-map or retry event, R296 is run again for every region; classes are demoted or
restored (R305 to R308). -/
def execSetupRecheck (s : State) : Host.Outcome State Fault Refusal :=
  .next (if s.isReady then (List.range 4).foldl State.restoreRegion s.recheckAll else s)

end Sys2Proof.Machine
end

