-- ==== Sys2Proof/Machine/Pages.lean ====
section
/-! DEFINITION. The page pool, page tables and reservation (08: R249 to R252, R256, R257, R260 to R263, R277, R278, R526; 09:
R286, R287; 10: R321). -/

namespace Sys2Proof.Machine

/-! ## The control area (Table 8-3) -/

/-- Base of the table zone. -/
def State.tableZone (s : State) (rid : Nat) : Nat := (s.region rid).ctlBase rid + 0x400000

/-- Address of table-zone block n. -/
def State.blockAddr (s : State) (rid n : Nat) : Nat := s.tableZone rid + 4096 * n

/-- Blocks of the table zone. -/
def tableBlocks : Nat := 49152

/-- Base of the prefix zone. -/
def State.prefixZone (s : State) (rid : Nat) : Nat := (s.region rid).ctlBase rid + 0xC400000

/-- A 64-bit entry of firmware's own. -/
def State.word (s : State) (a : Nat) : W64 := BitVec.ofNat 64 (readLe s.mem a 8)

/-- Write a 64-bit entry of firmware's own. -/
def State.putWord (s : State) (a v : Nat) : State := s.writeOwn [(a, leBytes 8 v)]

/-- A table alters: its live generation advances (R257). -/
def State.bumpGen (s : State) (rid ridx slot : Nat) : State :=
  s.modRegion rid fun r => { r with gens := smSet 0 r.gens (ridx * 2 + slot) (r.gen ridx slot + 1) }

/-! ## The pool (R260) -/

/-- Scrubbed free pages of a slot. -/
def Region.freePages (r : Region) (slot : Nat) : List Nat :=
  ((r.pool slot).filter fun p => decide (p.st = .free)).map (·.addr)

/-- Change the state of the pages of a slot that a predicate names. -/
def Region.markPages (r : Region) (slot : Nat) (st : PageState) (f : Nat → Bool) : Region :=
  r.setPool slot ((r.pool slot).map fun p => if f p.addr then { p with st := st } else p)

/-- Pages go to be scrubbed (R263). -/
def State.scrubPages (s : State) (rid slot : Nat) (ps : List Nat) : State :=
  s.modRegion rid fun r => r.markPages slot .scrubbing fun a => ps.contains a

/-- Complete the POOL_REMOVEs whose pages have all left (R260). -/
def State.finishRemovals (s : State) (rid : Nat) : State :=
  let r := s.region rid
  let left := fun (x : BCmd × Nat × List Nat) => x.2.2.all fun a => !(r.pool x.2.1).any fun p => decide (p.addr = a)
  (r.removals.filter left).foldl (fun (s : State) x => s.cmdDone x.1.queue x.1.hosttag Status.ok [])
    (s.modRegion rid fun r => { r with removals := r.removals.filter fun x => !left x })

/-- A page has been zeroed: it returns to its free list, or leaves the pool where a POOL_REMOVE named it (R260, R263). -/
def State.pageScrubbed (s : State) (rid slot addr : Nat) : State :=
  let r := s.region rid
  match (r.pool slot).find? fun p => decide (p.addr = addr) with
  | none => s
  | some p =>
    if p.st ≠ .scrubbing then s
    else
      let size := match r.geom slot with | some g => g.pageSize | none => 4096
      let s := ({ s with mem := zeroBytes s.mem addr size }).settleLost [(addr, size)]
      let s := s.modRegion rid fun r =>
        if p.leaving then r.setPool slot ((r.pool slot).filter fun q => decide (q.addr ≠ addr))
        else r.markPages slot .free fun a => decide (a = addr)
      s.finishRemovals rid

/-- A table-zone block has been zeroed and is free again (R263). -/
def State.blockScrubbed (s : State) (rid n : Nat) : State :=
  if (s.region rid).tblocks.any fun b => decide (b.n = n) && b.scrubbing then
    (({ s with mem := zeroBytes s.mem (s.blockAddr rid n) 4096 }).settleLost [(s.blockAddr rid n, 4096)]).modRegion rid fun r =>
      { r with tblocks := r.tblocks.filter fun b => decide (b.n ≠ n) }
  else s

/-- SCRUB_DONE: the zeroing of a page or a table block has completed (R260, R263). In Warm and Lull the memory controllers only refresh
(Table 16-2). -/
def execScrubDone (rid : Fin 4) (item : ScrubItem) (s : State) : Host.Outcome State Fault Refusal :=
  .next (
    if !s.awake then s
    else
      match item with
      | .page slot addr => s.pageScrubbed rid.val slot.val addr
      | .block n => s.blockScrubbed rid.val n)

/-! ## Counts of a reservation (R261) -/

/-- Positions that a request declares (R286). -/
def Req.total (r : Req) : Nat := r.vlen + r.promptLen + r.budget + r.kmax

/-- What R261 counts: own pages by slot, lists by slot, directory blocks by slot. -/
structure Need where
  own0 : Nat
  own1 : Nat
  lists0 : Nat
  lists1 : Nat
deriving DecidableEq, Repr

/-- Directory blocks of a slot. -/
def dirsOf (lists : Nat) : Nat := ceilDiv lists 512

/-- Table blocks of a count. -/
def Need.blocks (n : Need) : Nat := n.lists0 + n.lists1 + dirsOf n.lists0 + dirsOf n.lists1

/-- A number rounded down to a multiple of PPOS. -/
def downTo (ppos x : Nat) : Nat := x / ppos * ppos

/-- Where a request's positions of slot 0 lie in the sequence (R235, R249): base and count of both extents. `ring` gives ring
position, members and SHARD of a ring-attention request. Bases, and COUNT0 where extent 1 is in use, are multiples of PPOS: an
extent whose shard begins or ends inside a page takes the page whole (log 166). -/
def extentsOf (q : Req) (ppos : Nat) (ring : Option (Nat × Nat × Bool)) : Nat × Nat × Nat × Nat :=
  match ring with
  | none => (0, q.total, 0, 0)
  | some (r, n, shard) =>
    let p := q.promptLen
    if shard then
      let a := r * (p / 2)
      let b := (2 * n - 1 - r) * (p / 2)
      let base0 := downTo ppos a
      let end0 := base0 + ceilDiv (a + p / 2 - base0) ppos * ppos
      let base1 := max (downTo ppos b) end0
      (base0, end0 - base0, base1, b + (q.total - p / 2) - base1)
    else (downTo ppos (r * p), r * p + q.total - downTo ppos (r * p), 0, 0)

/-- The first position of slot 1's extent: VLEN, as a multiple of that slot's PPOS (R249, R261, log 166). -/
def draftBase (q : Req) (g1 : Geom) : Nat := downTo g1.ppos q.vlen

/-- The count of R261 for a request with `hit` token positions linked; `ring` as for `extentsOf`. -/
def Region.need (r : Region) (q : Req) (hit : Nat) (ring : Option (Nat × Nat × Bool)) : Need :=
  let g0 := r.geom0.getD { ppos := 16, nl := 1, kvh := 1, hpass := 1, kvfmt := 0 }
  let x := extentsOf q g0.ppos ring
  let b0 := ceilDiv (x.2.1 + x.2.2.2) g0.ppos
  let n0 : Need := {
    own0 := (b0 - (q.vlen + hit) / g0.ppos) * g0.nl, own1 := 0, lists0 := ceilDiv (b0 * g0.nl) 512, lists1 := 0 }
  match r.geom1 with
  | some g1 =>
    if q.kmax = 0 then n0
    else
      let b1 := ceilDiv (q.total - draftBase q g1) g1.ppos
      { n0 with own1 := b1 * g1.nl, lists1 := ceilDiv (b1 * g1.nl) 512 }
  | none => n0

/-- Sum over the earmarks of a region's requests but one (R287). -/
def State.earmarked (s : State) (rid but : Nat) (f : Req → Nat) : Nat :=
  ((s.reqs.filter fun (x : Nat × Req) => decide (x.2.region = rid) && x.2.earmark && decide (x.1 ≠ but)).map fun x => f x.2).foldl
    (· + ·) 0

/-- Pages of a slot free for request `i`: scrubbed and not earmarked for another (R287). -/
def State.freeFor (s : State) (rid i slot : Nat) : Nat :=
  ((s.region rid).freePages slot).length - s.earmarked rid i fun r => if slot = 0 then r.earPages0 else r.earPages1

/-- Table blocks free for request `i`. -/
def State.blocksFor (s : State) (rid i : Nat) : Nat :=
  tableBlocks - (s.region rid).tblocks.length - s.earmarked rid i fun r => r.earBlocks

/-- Earmark what a request needs with no prefix hit, where it is free (R287). -/
def State.tryEarmark (s : State) (i : Nat) : State :=
  let q := s.req i
  let n := (s.region q.region).need q 0 none
  if q.earmark then s
  else if n.own0 ≤ s.freeFor q.region i 0 ∧ n.own1 ≤ s.freeFor q.region i 1 ∧ n.blocks ≤ s.blocksFor q.region i then
    s.modReq i fun r => { r with earmark := true, earPages0 := n.own0, earPages1 := n.own1, earBlocks := n.blocks }
  else s

/-! ## Table blocks -/

/-- The numbers not used, from 0 up, the first k of them. -/
def firstFree (used : List Nat) (k : Nat) : List Nat :=
  ((List.range (used.length + k)).filter fun n => !used.contains n).take k

/-- The lowest start of a run of `len` free blocks. -/
def freeRun (used : List Nat) (limit len : Nat) : Option Nat :=
  let ok := fun a => decide (a + len ≤ limit) && !(used.any fun u => decide (a ≤ u) && decide (u < a + len))
  ((0 :: used.map (· + 1)).filter ok).foldl (fun m a => match m with | some x => some (min x a) | none => some a) none

/-! ## Allocation (R251, R252, R261) -/

/-- Write a page-table header (Table 8-4). -/
def State.writeHeader (s : State) (rid ridx slot : Nat) (h : Header) : State :=
  let a := s.headerAddr rid ridx slot
  s.writeOwn [(a,
      leBytes 8 (h.diraddr + 2 ^ 48 * (h.dirblk - 1)) ++ leBytes 8 (h.sbase0 + 2 ^ 38 * h.count0) ++
      leBytes 8 (h.sbase1 + 2 ^ 38 * h.count1) ++ leBytes 8 (h.plen + 2 ^ 19 * h.variant) ++ leBytes 32 0)]

/-- Address of a request's page-list entry j, through its directory. -/
def State.entryAddr (s : State) (rid ridx slot j : Nat) : Nat :=
  let h := s.header rid ridx slot
  fld (s.word (h.diraddr + j / 512 * 8)) 47 12 * 4096 + j % 512 * 8

/-- Set up one slot's tables: `linked` entries first, then own pages; the blocks given are a run of directory blocks and
the page lists. -/
def State.buildTable (s : State) (rid ridx slot dir : Nat) (lists : List Nat) (linked : List W64) (own : List Nat) (h : Header) :
    State :=
  let nd := dirsOf lists.length
  let dirs := (List.range nd).map (dir + ·)
  let s := s.modRegion rid fun r => { r with
    tblocks := r.tblocks ++ (dirs ++ lists).map fun n => { n := n, ridx := ridx, slot := slot } }
  let s := s.modRegion rid fun r => r.markPages slot .used fun a => own.contains a
  let base := s.tableZone rid
  let dw := lists.mapIdx fun i n => (base + 4096 * dir + 8 * i, leBytes 8 (base + 4096 * n + 1))
  let es := linked.map (·.toNat) ++ own.map (· + 1)
  let ew := es.mapIdx fun j e => (base + 4096 * (lists.getD (j / 512) 0) + j % 512 * 8, leBytes 8 e)
  let s := s.writeOwn (dw ++ ew)
  (s.writeHeader rid ridx slot { h with diraddr := base + 4096 * dir, dirblk := nd }).bumpGen rid ridx slot

/-- Whether a reservation of table blocks fits, and where its runs of directory blocks go (R261). -/
def State.findDirs (s : State) (rid i : Nat) (n : Need) : Option (Nat × Nat) :=
  let used := (s.region rid).tblocks.map (·.n)
  if s.blocksFor rid i < n.blocks then none
  else
    match freeRun used tableBlocks (dirsOf n.lists0) with
    | none => none
    | some d0 =>
      if n.lists1 = 0 then some (d0, 0)
      else (freeRun (used ++ (List.range (dirsOf n.lists0)).map (d0 + ·)) tableBlocks (dirsOf n.lists1)).map fun d1 => (d0, d1)

/-- Allocate a request's pages and tables, which fit (R261): `linked` are the read-only entries in page-index order. -/
def State.allocate (s : State) (rid i : Nat) (n : Need) (dirs : Nat × Nat) (linked : List W64) (plen : Nat)
    (ring : Option (Nat × Nat × Bool)) : State :=
  let q := s.req i
  let r := s.region rid
  let used := r.tblocks.map (·.n) ++ (List.range (dirsOf n.lists0)).map (dirs.1 + ·) ++
    (List.range (dirsOf n.lists1)).map (dirs.2 + ·)
  let ls := firstFree used (n.lists0 + n.lists1)
  let x := extentsOf q (match r.geom0 with | some g => g.ppos | none => 16) ring
  let s := s.buildTable rid i 0 dirs.1 (ls.take n.lists0) linked ((r.freePages 0).take n.own0)
    { diraddr := 0, dirblk := 1, sbase0 := x.1, count0 := x.2.1, sbase1 := x.2.2.1, count1 := x.2.2.2, plen := plen,
      variant := q.variant }
  let s := if n.lists1 = 0 then s
    else s.buildTable rid i 1 dirs.2 (ls.drop n.lists0) [] ((r.freePages 1).take n.own1)
      (let b := match r.geom1 with | some g => draftBase q g | none => q.vlen
       { diraddr := 0, dirblk := 1, sbase0 := b, count0 := q.total - b, sbase1 := 0, count1 := 0, plen := 0, variant := 0 })
  s.modReq i fun r => { r with
    pthdr := s.headerAddr rid i 0, earmark := false, earPages0 := 0, earPages1 := 0, earBlocks := 0 }

/-! ## Variants (R277, R278) -/

/-- The copy of a variant that admissions use now. -/
def Region.variant? (r : Region) (num : Nat) : Option Variant :=
  r.variants.find? fun v => decide (v.num = num) && v.ready && !v.unloading

/-- Free the pages of copies that nothing references any more (R278). -/
def State.dropVariants (s : State) (rid : Nat) : State :=
  let gone := (s.region rid).variants.filter fun v => v.unloading && decide (v.refs = 0)
  let s := s.scrubPages rid 0 (gone.flatMap (·.pages))
  s.modRegion rid fun r => { r with variants := r.variants.filter fun v => !(v.unloading && decide (v.refs = 0)) }

/-- Change the references of a copy. -/
def Region.modVariant (r : Region) (uid : Nat) (f : Variant → Variant) : Region :=
  { r with variants := r.variants.map fun v => if v.uid = uid then f v else v }

/-- Copies finished at earlier boundaries become available, each in place of every earlier copy of its number (R277, R278). -/
def State.readyVariants (s : State) (rid : Nat) : State :=
  let fresh := (s.region rid).variants.filter fun v => !v.ready
  let s := s.modRegion rid fun r => { r with
    variants := r.variants.map fun v =>
      { v with ready := true, unloading := v.unloading || fresh.any fun f => decide (f.num = v.num) && decide (v.uid < f.uid) } }
  s.dropVariants rid

/-- Entries of a variant's pages, read-only. -/
def Variant.entries (v : Variant) : List W64 := v.pages.map fun a => BitVec.ofNat 64 (a + 3)

end Sys2Proof.Machine
end

