-- ==== Sys2Proof/Machine/Groups.lean ====
section
/-! DEFINITION. Collective groups at work (12: R358, R361, R368, R369, R396): serving groups, cells, and forwarding. -/

namespace Sys2Proof.Machine

/-! ## Serving groups (R290, R369) -/

/-- The region's serving group (R369). -/
def Region.servingGroup (r : Region) : Option (Nat × Group) := r.groups.find? fun (x : Nat × Group) => x.2.d.serving

/-- The serving group has more than one module: its steps launch together (R290). -/
def State.sharedLaunch (s : State) (n : Nat) : Option (Nat × Group) :=
  (s.region n).servingGroup.filter fun x => decide (1 < (s.modules x.2.d).length)

/-- Group prefix sharing is in force (R274, R276). -/
def State.sharesPrefixes (s : State) (n : Nat) : Option (Nat × Group) :=
  (s.region n).servingGroup.filter fun x => x.2.d.pshare && decide ((s.modules x.2.d).length ≤ 64)

/-- Hash lookups are made: the serving group has at most 64 modules (R276). -/
def State.hashLookups (s : State) (n : Nat) : Bool :=
  match (s.region n).servingGroup with
  | some x => decide ((s.modules x.2.d).length ≤ 64)
  | none => true

/-! ## Cells (R396) -/

/-- Cell kinds (Table 12-8). -/
def kindData : Nat := 1
def kindRequest : Nat := 2
def kindGrant : Nat := 3
def kindRerun : Nat := 4
def kindHalt : Nat := 5
def kindReady : Nat := 6
def kindNotice : Nat := 7

/-- A cell of the module for a group of a region. -/
def State.cellOf (s : State) (n gid : Nat) (g : Group) (sender : BitVec 14) (ordinal : W32) (attempt : Nat) (payload : List Byte) :
    Cell :=
  { gid := BitVec.ofNat 12 gid, rid := BitVec.ofNat 2 n, attempt := BitVec.ofNat 2 attempt,
    epoch := BitVec.ofNat 16 (s.region n).stepNo.toNat, sender := sender, len := BitVec.ofNat 6 payload.length,
    ordinal := ordinal, gcrc := g.crc, payload := payload }

/-- The first word of a cell (Table 12-7). -/
def cellWord (kind : Nat) (c : Cell) : Nat :=
  kind + 2 ^ 4 * c.gid.toNat + 2 ^ 16 * c.rid.toNat + 2 ^ 18 * c.attempt.toNat + 2 ^ 20 * c.epoch.toNat + 2 ^ 36 * c.sender.toNat +
  2 ^ 50 * c.len.toNat

/-- The 64 bytes of a cell of a kind (Table 12-7). -/
def cellBytes (kind : Nat) (c : Cell) : List Byte :=
  leBytes 8 (cellWord kind c) ++ leBytes 4 c.ordinal.toNat ++ leBytes 4 c.gcrc.toNat ++ (c.payload ++ List.replicate 48 0).take 48

/-- KIND and fields of 64 bytes (Tables 12-7 and 12-8); none where KIND or a reserved bit is none of the tables', or LEN is above 48. -/
def cellOf? (bs : List Byte) : Option (Nat × Cell) :=
  let w : W64 := BitVec.ofNat 64 (leNat (bs.take 8))
  let kind := fld w 3 0
  let len := fld w 55 50
  if kind = 0 ∨ 7 < kind ∨ fld w 63 56 ≠ 0 ∨ 48 < len then none
  else some (kind, {
    gid := BitVec.ofNat 12 (fld w 15 4), rid := BitVec.ofNat 2 (fld w 17 16), attempt := BitVec.ofNat 2 (fld w 19 18),
    epoch := BitVec.ofNat 16 (fld w 35 20), sender := BitVec.ofNat 14 (fld w 49 36), len := BitVec.ofNat 6 len,
    ordinal := BitVec.ofNat 32 (leNat ((bs.drop 8).take 4)), gcrc := BitVec.ofNat 32 (leNat ((bs.drop 12).take 4)),
    payload := (bs.drop 16).take len })

/-! ## Ports (Table 12-1) -/

/-- The L2 port of distance d. -/
def trayPort (d : Nat) : Nat := [0, 0, 1, 2, 3, 8, 9, 10].getD d 0

/-! ## Whom a port serves (Table 12-1, R361) -/

/-- The peer module and its port that a port requires; none where the arrangement does not use the port. -/
def State.portPeer (s : State) (k : Nat) : Option (BitVec 14 × Nat) :=
  let p := s.rackPos
  let n := s.nrack
  let rack := fun (q port : Nat) => some (coordOf q s.tray s.slotNo 0, port)
  match k with
  | 4 => some (coordOf p s.tray ((s.slotNo + 7) % 8) 0, 6)
  | 6 => some (coordOf p s.tray ((s.slotNo + 1) % 8) 0, 4)
  | 5 =>
    (match s.l3mode with
     | 1 => if 0 < p then rack (p - 1) 7 else none
     | 2 => if 1 < n then rack ((p + n - 1) % n) 7 else none
     | 3 => if 2 * p + 1 < n then rack (2 * p + 1) 11 else none
     | _ => none)
  | 7 =>
    (match s.l3mode with
     | 1 => if p + 1 < n then rack (p + 1) 5 else none
     | 2 => if 1 < n then rack ((p + 1) % n) 5 else none
     | 3 => if 2 * p + 2 < n then rack (2 * p + 2) 11 else none
     | _ => none)
  | 11 => if s.l3mode = 3 ∧ 0 < p then rack ((p - 1) / 2) (if p % 2 = 1 then 5 else 7) else none
  | _ =>
    ((List.range 8).find? fun d => decide (0 < d) && decide (trayPort d = k)).map fun d =>
      (coordOf p ((s.tray + d) % 8) s.slotNo 0, trayPort (8 - d))

/-! ## Forwarding (R368) -/

/-- Whether tree position x lies in the subtree of c: the parents of x pass c (R361). -/
def inSubtree (c : Nat) : Nat → Nat → Bool
  | 0, x => decide (x = c)
  | fuel + 1, x => decide (x = c) || (decide (0 < x) && inSubtree c fuel ((x - 1) / 2))

/-- The L3 port towards rack position `dst` (R361, R368). On a ring a group of every rack goes the shorter way, ties upward (log
45); another group stays within its range of racks, so that every module on the path is a member. -/
def State.rackPort (s : State) (whole : Bool) (dst : Nat) : Nat :=
  let p := s.rackPos
  if s.l3mode = 3 then (if inSubtree (2 * p + 1) 8 dst then 5 else if inSubtree (2 * p + 2) 8 dst then 7 else 11)
  else if s.l3mode = 2 ∧ whole then (if (dst + s.nrack - p) % s.nrack ≤ s.nrack / 2 then 7 else 5)
  else if p < dst then 7 else 5

/-- The port on which a message for a module leaves: first along rack, then tray, then slot (R368). `ways` tells that the group's
slot range is the whole tray, and its rack range every rack. -/
def State.nextHop (s : State) (ways : Bool × Bool) (dest : BitVec 14) : Nat :=
  let rack := fld dest 13 7
  let tray := fld dest 6 4
  let slot := fld dest 3 1
  if rack ≠ s.rackPos then s.rackPort ways.2 rack
  else if tray ≠ s.tray then trayPort ((tray + 8 - s.tray) % 8)
  else if ways.1 then (if (slot + 8 - s.slotNo) % 8 ≤ 4 then 6 else 4)
  else if s.slotNo < slot then 6 else 4

/-- The port and the neighbour by which a message goes; none where the arrangement does not name the port (R361). -/
def State.hop (s : State) (ways : Bool × Bool) (dest : BitVec 14) : Option (Nat × BitVec 14) :=
  (s.portPeer (s.nextHop ways dest)).map fun x => (s.nextHop ways dest, x.1)

/-- A module at the other end of one of the ports. -/
def State.isNeighbour (s : State) (m : BitVec 14) : Bool := (List.range 12).any fun k => decide ((s.portPeer k).map (·.1) = some m)

/-- The group's slot range is the whole tray, and its rack range every rack (R368). -/
def State.ways (s : State) (g : GroupD) : Bool × Bool :=
  (g.slot && decide (g.slots = (0, 7)), g.rack && decide (g.racks = (0, s.nrack - 1)))

/-- The ways of a group of a region. -/
def State.waysOf (s : State) (n gid : Nat) : Bool × Bool :=
  match (s.region n).group? gid with
  | some g => s.ways g.d
  | none => (false, false)

/-- Send something towards a module over the port that leads there. -/
def State.sendVia (s : State) (ways : Bool × Bool) (dest : BitVec 14) (o : Nat → Out) : State :=
  match s.hop ways dest with
  | some x => s.emit (o x.1)
  | none => s

/-- Send a cell to a module. -/
def State.sendCell (s : State) (kind : Nat) (dest : BitVec 14) (c : Cell) : State :=
  s.sendVia (s.waysOf c.rid.toNat c.gid.toNat) dest fun k => .cell k dest (cellBytes kind c)

/-- Send a cell to every other member module of a group, in position order. -/
def State.toMembers (s : State) (kind n gid : Nat) (g : Group) (ordinal : W32) (attempt : Nat) (payload : List Byte) : State :=
  ((s.modules g.d).filter fun m => decide (m ≠ s.self)).foldl
    (fun (s : State) m => s.sendCell kind m (s.cellOf n gid g s.self ordinal attempt payload)) s

/-! ## Launch agreement (R290, R399) -/

/-- Send READY to every member of a region's serving group, and note the module's own ready tick. -/
def State.sendReady (s : State) (n : Nat) : State :=
  match s.sharedLaunch n with
  | none => s
  | some (gid, g) =>
    (s.toMembers kindReady n gid g 0 0 (leBytes 8 s.gc.toNat)).modRegion n fun r => { r with
      readies := (r.readies.filter fun x => decide (x.1 ≠ s.self)) ++ [(s.self, s.gc)] }

/-- Regions whose planned step still waits for the module's own READY send it (R419). -/
def State.sendReadies (s : State) : State :=
  (List.range 4).foldl (fun (s : State) n =>
    if (s.region n).planned && !((s.region n).readies.any fun x => decide (x.1 = s.self)) then s.sendReady n else s) s

end Sys2Proof.Machine
end

