-- ==== Sys2Proof/Machine/Collective.lean ====
section
/-! DEFINITION. What a collective computes (12: R371 to R381, R392 to R395, R397): its descriptor, the order of addition of
each level, the pieces a member forms, sends and receives, and the bytes of its destination. Nothing here changes the
state. -/

namespace Sys2Proof.Machine

/-! ## The descriptor (Table 12-5) -/

/-- The fields of a collective descriptor. A ring-attention step is a SHIFT along the ring order (R392), axis 4 here. -/
structure CollP where
  op : Nat
  gid : Nat
  red : Bool
  efmt : Nat
  afmt : Nat
  chunk : Nat
  ordinal : W32
  src : List Nat
  srow : Nat
  snrows : Nat
  sstride : Int
  dstride : Int
  dst : List Nat
  drow : Nat
  dnrows : Nat
  wframe : Nat
  wctr : Nat
  wval : Nat
  dfirst : Nat
  dlast : Nat
  dctr : Nat
  sctr : Nat
  sen : Bool
  vbase : Nat
  ven : Bool
  mapaddr : Nat
  rcvaddr : Nat
  axis : Nat
  dist : Int
  wrap : Bool
  root : Nat
deriving DecidableEq, Repr

/-- Read the fields out of the 16 words. -/
def collFields (w : List W64) : CollP :=
  let g := fun k hi lo => fld (wordAt w k) hi lo
  { op := g 0 3 0, gid := g 0 15 4, red := bitAt (wordAt w 0) 16, efmt := g 0 21 17, afmt := g 0 26 22,
    chunk := 4096 * 2 ^ g 0 30 27, ordinal := BitVec.ofNat 32 (g 0 63 32), src := [g 1 47 0, g 2 47 0],
    srow := g 3 23 0 + 1, snrows := g 3 43 24 + 1, sstride := signedOf 32 (g 4 31 0), dstride := signedOf 32 (g 4 63 32),
    dst := [g 5 47 0, g 6 47 0], drow := g 7 23 0 + 1, dnrows := g 7 43 24 + 1, wframe := g 8 8 0, wctr := g 8 13 9,
    wval := g 8 45 14, dfirst := g 9 8 0, dlast := g 9 17 9, dctr := g 9 22 18, sctr := g 10 4 0,
    sen := bitAt (wordAt w 10) 5, vbase := g 10 12 6, ven := bitAt (wordAt w 10) 13, mapaddr := g 11 47 0,
    rcvaddr := g 12 47 0, axis := g 13 1 0, dist := signedOf 14 (g 13 15 2), wrap := bitAt (wordAt w 13) 16,
    root := g 13 30 17 }

/-- ALLREDUCE or REDUCE_SCATTER. -/
def CollP.reduces (p : CollP) : Bool := decide (p.op ≤ 1)

/-- Bytes of a contribution: none for a BARRIER (Table 12-6). -/
def CollP.length (p : CollP) : Nat := if p.op = 4 then 0 else p.srow * p.snrows

/-- The pairings of R377. -/
def redFormats (e a : Nat) : Bool :=
  [(0x00, 0x00), (0x03, 0x03), (0x03, 0x00), (0x04, 0x00), (0x05, 0x00)].contains (e, a)

/-! ## Reduction (R377, R378) -/

/-- The adder's format. -/
def accFmt (afmt : Nat) : FFmt := if afmt = 0x03 then fmtBF16 else fmtFP32

/-- One addition, or one maximum, in AFMT (R377): a NaN entering a sum gives the canonical NaN. -/
def combine (red : Bool) (afmt a b : Nat) : Nat :=
  let f := accFmt afmt
  if red then (f.minmax true a b).1
  else if (f.decode a).isNan || (f.decode b).isNan then f.defaultNan
  else (f.add .rne a b).1

/-- A contribution's element converted exactly to AFMT (R377). -/
def toAcc (efmt afmt code : Nat) : Nat :=
  match etypeOf efmt with
  | some t => (convert t (.flt (accFmt afmt)) .rne true code).bits
  | none => 0

/-- The codes of a byte string of elements of `w` bytes. -/
def codesIn (w : Nat) (bs : List Byte) : List Nat := (List.range (bs.length / w)).map fun i => leNat ((bs.drop (i * w)).take w)

/-- How a level combines (R378). -/
inductive LevKind where
  | ring | direct | chain | tree
deriving DecidableEq, Repr

/-- Direction, up or down, and piece of element e among n, on a ring of m (R378). -/
def ringPiece (e n m : Nat) : Bool × Nat :=
  let h := n / 2
  if e < h then (true, e * m / h) else (false, (e - h) * m / (n - h))

/-- The next position on a ring of m in a direction. -/
def ringNext (up : Bool) (m q : Nat) : Nat := if up then (q + 1) % m else (q + m - 1) % m

/-- Positions in the order in which a tree subtree's elements stand, by depth (R378). -/
def treeFold (red : Bool) (afmt m : Nat) (x : Nat → Nat) : Nat → Nat → Nat
  | 0, p => x p
  | d + 1, p =>
    let s := x p
    let s := if 2 * p + 1 < m then combine red afmt s (treeFold red afmt m x d (2 * p + 1)) else s
    if 2 * p + 2 < m then combine red afmt s (treeFold red afmt m x d (2 * p + 2)) else s

/-- Positions of a level in the order of addition (R378); a tree's is `treeFold`'s. -/
def levelOrder (kind : LevKind) (e n m : Nat) : List Nat :=
  match kind with
  | .ring =>
    let (up, j) := ringPiece e n m
    (List.range m).map fun i => if up then (j + (i + 1)) % m else (j + (i + 1) * (m - 1)) % m
  | _ => List.range m

/-- The value of a level from its members' values (R378). -/
def levelValue (red : Bool) (afmt : Nat) (kind : LevKind) (e n m : Nat) (x : Nat → Nat) : Nat :=
  if m ≤ 1 then x 0
  else match kind with
    | .tree => treeFold red afmt m x 8 0
    | _ =>
      match levelOrder kind e n m with
      | [] => 0
      | q :: r => r.foldl (fun s i => combine red afmt s (x i)) (x q)

/-- A level of the group as a member sees it: the axis' member modules in position order, and its own position. -/
structure Lev where
  kind : LevKind
  mods : List (BitVec 14)
  pos : Nat
deriving DecidableEq, Repr

/-- Number of members along the axis. -/
def Lev.m (l : Lev) : Nat := l.mods.length

/-- Module at a position of the axis. -/
def Lev.at (l : Lev) (q : Nat) : BitVec 14 := l.mods.getD q 0

/-- The position that holds a level's value of element e after its reduce stage (R379; which tray or rack position forms a
piece of L2 or of a chain is free under R376). -/
def Lev.owner (l : Lev) (e n : Nat) : Nat :=
  match l.kind with
  | .ring => (ringPiece e n l.m).2
  | .direct => e * l.m / n
  | .chain | .tree => 0

/-- What a member knows of a collective's surroundings. -/
structure CollEnv where
  p : CollP
  g : GroupD
  self : BitVec 14
  mods : List (BitVec 14)
  mems : List (BitVec 14)
  levs : List (Nat × Lev)     -- levels 1 to 3 with more than one member
deriving DecidableEq, Repr

/-- The surroundings of a collective of a group at this module. -/
def State.collEnv (s : State) (p : CollP) (g : Group) : CollEnv :=
  let d := g.d
  let slots := if d.slot then span d.slots else [s.slotNo]
  let trays := if d.tray then span d.trays else [s.tray]
  let racks := if d.rack then span d.racks else [s.rackPos]
  let l1 : Lev := { kind := .ring, mods := slots.map fun x => coordOf s.rackPos s.tray x 0, pos := slots.idxOf s.slotNo }
  let l2 : Lev := { kind := .direct, mods := trays.map fun x => coordOf s.rackPos x s.slotNo 0, pos := trays.idxOf s.tray }
  let l3 : Lev := { kind := match s.l3mode with | 2 => .ring | 3 => .tree | _ => .chain,
                    mods := racks.map fun x => coordOf x s.tray s.slotNo 0, pos := racks.idxOf s.rackPos }
  { p := p, g := d, self := s.self, mods := s.modules d, mems := s.members d,
    levs := [(1, l1), (2, l2), (3, l3)].filter fun (x : Nat × Lev) => decide (1 < x.2.m) }

/-- The module's own members: its halves when half is masked (R365). -/
def CollEnv.halves (v : CollEnv) : List Nat := if v.g.half then [0, 1] else [0]

/-- Position of the module's member of a half. -/
def CollEnv.posOf (v : CollEnv) (h : Nat) : Nat := v.mems.idxOf (v.self ||| BitVec.ofNat 14 h)

/-- Number of members. -/
def CollEnv.n (v : CollEnv) : Nat := v.mems.length

/-- Number of elements of a reduction (R373). -/
def CollEnv.elems (v : CollEnv) (len : Nat) : Nat := len / (fmtBits v.p.efmt / 8)

/-- Bytes of an AFMT element. -/
def CollEnv.asize (v : CollEnv) : Nat := fmtBits v.p.afmt / 8

/-- Elements of a range in AFMT from a module's contributions, halves combined West then East (R378). -/
def CollEnv.local (v : CollEnv) (own : List (List Byte)) (lo hi : Nat) : List Nat :=
  let es := fmtBits v.p.efmt / 8
  let vals := own.map fun b => (codesIn es ((b.drop (lo * es)).take ((hi - lo) * es))).map (toAcc v.p.efmt v.p.afmt)
  match vals with
  | [] => []
  | x :: r => r.foldl (List.zipWith (combine v.p.red v.p.afmt)) x

/-- The whole result of a reduction from every member's contribution, in ring order (R378, R397). -/
def CollEnv.reduceAll (v : CollEnv) (contribution : BitVec 14 → List Byte) (n : Nat) : List Nat :=
  let es := fmtBits v.p.efmt / 8
  let val := fun (c : BitVec 14) (e : Nat) => toAcc v.p.efmt v.p.afmt (leNat (((contribution c).drop (e * es)).take es))
  let axis := fun (k : Nat) => v.levs.find? fun (x : Nat × Lev) => decide (x.1 = k)
  let red := fun (k e : Nat) (x : BitVec 14 → Nat) (base : BitVec 14) (mask : BitVec 14) =>
    match axis k with
    | none => x base
    | some l => levelValue v.p.red v.p.afmt l.2.kind e n l.2.m fun q => x ((base &&& ~~~mask) ||| (l.2.at q &&& mask))
  (List.range n).map fun e =>
    let halves := fun c => if v.g.half then combine v.p.red v.p.afmt (val c e) (val (c ||| 1) e) else val c e
    red 3 e (fun c3 => red 2 e (fun c2 => red 1 e halves c2 0xE) c3 0x70) v.self 0x3F80

/-! ## Pieces of a reduction (R376, R379) -/

/-- Insert a number in a rising list without repeats. -/
def insertNat (x : Nat) : List Nat → List Nat
  | [] => [x]
  | y :: r => if x < y then x :: y :: r else if x = y then y :: r else y :: insertNat x r

/-- Where the owner of a piece may change along a level. -/
def Lev.cuts (l : Lev) (n : Nat) : List Nat :=
  let h := n / 2
  match l.kind with
  | .ring => (List.range l.m).flatMap fun j => [ceilDiv (j * h) l.m, h + ceilDiv (j * (n - h)) l.m]
  | .direct => (List.range l.m).map fun j => ceilDiv (j * n) l.m
  | _ => []

/-- The pieces of a reduction: element ranges with one owner at every level, of at most a chunk (R381). -/
def CollEnv.units (v : CollEnv) (n : Nat) : List (Nat × Nat) :=
  let per := v.p.chunk / v.asize
  let cuts := (v.levs.flatMap fun (x : Nat × Lev) => x.2.cuts n) ++ (List.range (ceilDiv n per)).map (· * per)
  let cs := (cuts.filter (· < n)).foldl (fun acc x => insertNat x acc) []
  cs.zip (cs.drop 1 ++ [n])

/-- A message a member can form. -/
structure Send where
  dest : BitVec 14
  role : ChunkRole
  bytes : List Byte
  deps : List (BitVec 14 × Nat)
deriving DecidableEq, Repr

/-- The number of a chunk among its sender's, which its token names. -/
def roleCode : ChunkRole → Nat
  | .result off => off
  | .partialSum l first => (l.val + 1) * 2 ^ 48 + first
  | .block src half off => (8 + src * 2 + half.val) * 2 ^ 48 + off

/-- Bytes of AFMT values. -/
def CollEnv.pack (v : CollEnv) (xs : List Nat) : List Byte := xs.flatMap fun x => leBytes v.asize x

/-- A received chunk with a role, from a sender. -/
def Coll.got (c : Coll) (sender : BitVec 14) (role : ChunkRole) : Option Recv :=
  c.recv.find? fun r => decide (r.sender = sender) && decide (r.role = role)

/-- The reduce stage of a piece, level by level: the partials a member can send, and the piece's result where this member
owns it at every level (R378, R379). -/
def climb (v : CollEnv) (c : Coll) (n lo : Nat) : List (Nat × Lev) → List Nat → List (BitVec 14 × Nat) → List Send ×
    Option (List Nat × List (BitVec 14 × Nat))
  | [], x, d => ([], some (x, d))
  | (k, l) :: rest, x, d =>
    let role : ChunkRole := .partialSum (Fin.ofNat 4 k) lo
    let send := fun (q : Nat) (x : List Nat) (d : List (BitVec 14 × Nat)) =>
      ({ dest := l.at q, role := role, bytes := v.pack x, deps := d } : Send)
    let take := fun (q : Nat) => (c.got (l.at q) role).map fun r => (codesIn v.asize r.bytes, (r.sender, r.code))
    let add := List.zipWith (combine v.p.red v.p.afmt)
    match l.kind with
    | .ring =>
      let (up, j) := ringPiece lo n l.m
      let nxt := ringNext up l.m l.pos
      if l.pos = ringNext up l.m j then ([send nxt x d], none)
      else
        (match take (ringNext (!up) l.m l.pos) with
         | none => ([], none)
         | some (y, key) =>
           if l.pos = j then climb v c n lo rest (add y x) (key :: d) else ([send nxt (add y x) (key :: d)], none))
    | .direct | .chain =>
      let o := l.owner lo n
      if l.pos ≠ o then ([send o x d], none)
      else
        let ys := (List.range l.m).map fun q => if q = o then some (x, none) else (take q).map fun y => (y.1, some y.2)
        if ys.any Option.isNone then ([], none)
        else
          let ys := ys.filterMap fun y => y
          (match ys with
           | [] => ([], none)
           | y :: r => climb v c n lo rest (r.foldl (fun s z => add s z.1) y.1) (ys.filterMap (·.2) ++ d))
    | .tree =>
      let kids := [2 * l.pos + 1, 2 * l.pos + 2].filter (· < l.m)
      let ys := kids.map take
      if ys.any Option.isNone then ([], none)
      else
        let ys := ys.filterMap fun y => y
        let t := ys.foldl (fun s y => add s y.1) x
        let d := ys.map (·.2) ++ d
        if l.pos = 0 then climb v c n lo rest t d else ([send ((l.pos - 1) / 2) t d], none)

/-- The gather stage of a piece from the level at which its result came (4: formed here): whom the member passes it to
(R379). -/
def spread (v : CollEnv) (n lo : Nat) (level : Nat) (bytes : List Byte) (deps : List (BitVec 14 × Nat)) : List Send :=
  (v.levs.reverse.filter fun (x : Nat × Lev) => decide (x.1 ≤ level)).flatMap fun (x : Nat × Lev) =>
    let l := x.2
    let goals : List Nat :=
      match l.kind with
      | .ring =>
        let (up, j) := ringPiece lo n l.m
        if ringNext up l.m l.pos = j then [] else [ringNext up l.m l.pos]
      | .direct => if x.1 = level then [] else (List.range l.m).filter (· ≠ l.pos)
      | .chain => if l.pos + 1 < l.m then [l.pos + 1] else []
      | .tree => [2 * l.pos + 1, 2 * l.pos + 2].filter (· < l.m)
    goals.map fun q => { dest := l.at q, role := .result (lo * v.asize), bytes := bytes, deps := deps }

/-- The level along which a module lies from this one. -/
def CollEnv.levelOf (v : CollEnv) (c : BitVec 14) : Nat :=
  if fld c 13 7 ≠ fld v.self 13 7 then 3 else if fld c 6 4 ≠ fld v.self 6 4 then 2 else 1

/-- One piece of a reduction: what the member can send of it, and its result where it is known. -/
def CollEnv.unit (v : CollEnv) (c : Coll) (n : Nat) (u : Nat × Nat) : List Send ×
    Option (List Byte × List (BitVec 14 × Nat)) :=
  let x := climb v c n u.1 v.levs (v.local c.own u.1 u.2) []
  match x.2 with
  | some (r, d) => (x.1 ++ spread v n u.1 4 (v.pack r) d, some (v.pack r, d))
  | none =>
    match c.recv.find? fun r => decide (r.role = .result (u.1 * v.asize)) with
    | some r =>
      let d := [(r.sender, r.code)]
      (x.1 ++ spread v n u.1 (v.levelOf r.sender) r.bytes d, some (r.bytes, d))
    | none => (x.1, none)

/-! ## Operations without reduction (R392 to R395) -/

/-- Index of a coordinate along an axis range, moved by a distance; none where it leaves the range (R392). -/
def moveBy (len i : Nat) (dist : Int) (wrap : Bool) : Option Nat :=
  let j : Int := (i : Int) + dist
  if wrap then some ((j % (len : Int)).toNat) else if 0 ≤ j ∧ j < (len : Int) then some j.toNat else none

/-- The member to which a SHIFT moves a member's contribution (R392). -/
def CollEnv.shiftTo (v : CollEnv) (c : BitVec 14) : Option (BitVec 14) :=
  let range := fun (masked : Bool) (own : Nat) (r : Nat × Nat) => if masked then span r else [own]
  let go := fun (xs : List Nat) (x sh : Nat) (clear : BitVec 14) =>
    (moveBy xs.length (xs.idxOf x) v.p.dist v.p.wrap).map fun j => (c &&& ~~~clear) ||| BitVec.ofNat 14 (xs.getD j 0 * 2 ^ sh)
  match v.p.axis with
  | 0 => go (if v.g.half then [0, 1] else [0]) (fld c 0 0) 0 0x1
  | 1 => go (range v.g.slot (fld c 3 1) v.g.slots) (fld c 3 1) 1 0xE
  | 2 => go (range v.g.tray (fld c 6 4) v.g.trays) (fld c 6 4) 4 0x70
  | 3 => go (range v.g.rack (fld c 13 7) v.g.racks) (fld c 13 7) 7 0x3F80
  | _ => (moveBy v.mems.length (v.mems.idxOf c) v.p.dist v.p.wrap).map fun j => v.mems.getD j 0

/-- The bytes that the member of a half contributes to the member at a position. -/
def CollEnv.blockFor (v : CollEnv) (c : Coll) (h dpos : Nat) : List Byte :=
  let own := c.own.getD h []
  let p := v.posOf h
  match v.p.op with
  | 2 => own
  | 3 => if p = v.p.root then own else []
  | 5 => if v.shiftTo (v.self ||| BitVec.ofNat 14 h) = v.mems[dpos]? then own else []
  | 6 => if c.map.getD p 0 = dpos then own else []
  | 7 => (own.drop (dpos * (c.length / v.n))).take (c.length / v.n)
  | 8 => (own.drop ((c.map.take dpos).foldl (· + ·) 0)).take (c.map.getD dpos 0)
  | _ => []

/-- A byte string cut in chunks, with their offsets. -/
def cutChunks (size : Nat) (bs : List Byte) : List (Nat × List Byte) :=
  (List.range (ceilDiv bs.length size)).map fun i => (i * size, (bs.drop (i * size)).take size)

/-- Rounds of messages to the other modules: in round r each member of the module sends to the position r above its own (R394). -/
def CollEnv.rounds (v : CollEnv) (f : Nat → Nat → List Send) : List Send :=
  (List.range (v.n - 1)).flatMap fun r => v.halves.flatMap fun h =>
    let d := (v.posOf h + (r + 1)) % v.n
    if moduleOf (v.mems.getD d 0) = v.self then [] else f h d

/-- The send counts of an ALLTOALLV, as an ALLTOALL of 4-byte blocks (R395). -/
def CollEnv.countSends (v : CollEnv) (c : Coll) : List Send :=
  v.rounds fun h d =>
    let dm := v.mems.getD d 0
    [{ dest := moduleOf dm, role := .partialSum 0 (v.posOf h * 2 + fld dm 0 0), bytes := leBytes 4 (c.map.getD d 0), deps := [] }]

/-- The blocks that a member sends to other modules, in rounds (R392 to R395). -/
def CollEnv.blockSends (v : CollEnv) (c : Coll) : List Send :=
  v.rounds fun h d =>
    let dm := v.mems.getD d 0
    (cutChunks v.p.chunk (v.blockFor c h d)).map fun b =>
      { dest := moduleOf dm, role := .block (v.posOf h) (Fin.ofNat 2 (fld dm 0 0)) b.1, bytes := b.2, deps := [] }

/-- Everything that the member can send on the bulk lane now; the blocks of an ALLTOALLV once its counts are exchanged (R395). -/
def CollEnv.sends (v : CollEnv) (c : Coll) : List Send :=
  if v.p.op = 4 then []
  else if v.p.op = 8 then v.countSends c ++ (if c.counted && !c.drizzle then v.blockSends c else [])
  else if c.drizzle then []
  else if v.p.reduces then (v.units (v.elems c.length)).flatMap fun u => (v.unit c (v.elems c.length) u).1
  else v.blockSends c

/-- The messages go strictly in their order: the rounds of R394. -/
def CollEnv.inRounds (v : CollEnv) : Bool := decide (v.p.op = 7) || decide (v.p.op = 8)

/-- The payload of the DATA cell of the member of a half for another member: its contribution; of an ALLTOALLV the block for that
member (R397, log 169). -/
def CollEnv.cellFor (v : CollEnv) (c : Coll) (h : Nat) (m : BitVec 14) : List Byte :=
  if v.p.op = 8 then v.blockFor c h (v.mems.idxOf m) else c.own.getD h []

/-- Every member of another module has sent its DATA cell for the member of a half. -/
def CollEnv.cellsHere (v : CollEnv) (c : Coll) (h : Nat) : Bool :=
  v.mems.all fun m => decide (moduleOf m = v.self) || c.cells.any fun x => decide (x.1 = m) && decide (x.2.1 = h)

/-- The count of bytes that the member at position src sends to this module's member of a half, once known (R395). -/
def CollEnv.countFrom (v : CollEnv) (c : Coll) (h src : Nat) : Option (Nat × List (BitVec 14 × Nat)) :=
  let m := v.mems.getD src 0
  if moduleOf m = v.self then some (c.map.getD (v.posOf h) 0, [])
  else (c.recv.find? fun r => decide (r.role = .partialSum 0 (src * 2 + h))).map fun r => (leNat r.bytes, [(r.sender, r.code)])

/-- The count chunks that the member of a half has received. -/
def CollEnv.countDeps (v : CollEnv) (c : Coll) (h : Nat) : List (BitVec 14 × Nat) :=
  if v.p.op = 8 then (List.range v.n).flatMap fun src => match v.countFrom c h src with | some x => x.2 | none => [] else []

/-- All counts that the member of a half receives. -/
def CollEnv.counts (v : CollEnv) (c : Coll) (h : Nat) : Option (List Nat) :=
  (List.range v.n).mapM fun src => (v.countFrom c h src).map (·.1)

/-! ## The destination -/

/-- Bytes of the result that have come: offset in the result, bytes, chunks they came in. -/
abbrev Piece := Nat × List Byte × List (BitVec 14 × Nat)

/-- Where a source position's block lies in the result of a half. -/
def CollEnv.blockBase (v : CollEnv) (c : Coll) (h src : Nat) : Nat :=
  match v.p.op with
  | 2 => src * c.length
  | 7 => src * (c.length / v.n)
  | 8 => (((v.counts c h).getD []).take src).foldl (· + ·) 0
  | _ => 0

/-- The pieces of the result for a half that are known (R373). -/
def CollEnv.pieces (v : CollEnv) (c : Coll) (h : Nat) : List Piece :=
  if v.p.op = 4 then []
  else if v.p.reduces then
    if c.drizzle then
      if v.cellsHere c h then
        let contribution := fun (m : BitVec 14) =>
          if moduleOf m = v.self then c.own.getD (fld m 0 0) []
          else ((c.cells.find? fun x => decide (x.1 = m) && decide (x.2.1 = h)).map (·.2.2)).getD []
        [(0, v.pack (v.reduceAll contribution (v.elems c.length)), [])]
      else []
    else (v.units (v.elems c.length)).filterMap fun u =>
      (v.unit c (v.elems c.length) u).2.map fun r => (u.1 * v.asize, r.1, r.2)
  else if v.p.op = 8 ∧ v.counts c h = none then []
  else
    (v.halves.flatMap fun hs =>
      let b := v.blockFor c hs (v.posOf h)
      if b.isEmpty then [] else [(v.blockBase c h (v.posOf hs), b, v.countDeps c h)]) ++
    (if c.drizzle then
      c.cells.filterMap fun x =>
        let src := v.mems.idxOf x.1
        if x.2.1 ≠ h ∨ (v.p.op = 3 ∧ src ≠ v.p.root) then none
        else some (v.blockBase c h src, x.2.2, v.countDeps c h)
     else c.recv.filterMap fun r =>
      match r.role with
      | .block src half off => if half.val = h then some (v.blockBase c h src + off, r.bytes, (r.sender, r.code) :: v.countDeps c h) else none
      | _ => none)

/-- Where the destination of a half begins in the result, and its length, once known (Table 12-6). -/
def CollEnv.extent (v : CollEnv) (c : Coll) (h : Nat) : Option (Nat × Nat) :=
  let p := v.posOf h
  let n := v.elems c.length
  match v.p.op with
  | 0 => some (0, n * v.asize)
  | 1 => some (p * n / v.n * v.asize, ((p + 1) * n / v.n - p * n / v.n) * v.asize)
  | 2 => some (0, v.n * c.length)
  | 3 => some (0, c.length)
  | 5 => some (0, if v.mems.any fun m => decide (v.shiftTo m = some (v.self ||| BitVec.ofNat 14 h)) then c.length else 0)
  | 6 => some (0, c.length)
  | 7 => some (0, c.length)
  | 8 => (v.counts c h).map fun xs => (0, xs.foldl (· + ·) 0)
  | _ => some (0, 0)

/-- One byte of the result. -/
def byteIn (ps : List Piece) (o : Nat) : Option Byte :=
  ps.findSome? fun x => if x.1 ≤ o then x.2.1[o - x.1]? else none

/-- Chunk k of a half's destination: its offset and length there, and, once all of it is known, its bytes and the chunks
they came in (R382). -/
def CollEnv.chunkOf (v : CollEnv) (c : Coll) (h k : Nat) : Option (List Byte × List (BitVec 14 × Nat)) :=
  (v.extent c h).bind fun x =>
    let lo := k * v.p.chunk
    let len := min v.p.chunk (x.2 - lo)
    let ps := v.pieces c h
    ((List.range len).mapM fun i => byteIn ps (x.1 + lo + i)).map fun bs =>
      (bs, (ps.filter fun y => decide (y.1 < x.1 + lo + len) && decide (x.1 + lo < y.1 + y.2.1.length)).flatMap fun y => y.2.2)

/-- Chunks of a half's destination, once its length is known. -/
def CollEnv.chunkCount (v : CollEnv) (c : Coll) (h : Nat) : Option Nat := (v.extent c h).map fun x => ceilDiv x.2 v.p.chunk

/-- What the tokens of a set of chunks have said so far: none for a chunk whose token has not come. -/
def Coll.checks (c : Coll) (deps : List (BitVec 14 × Nat)) : List (Option Bool) :=
  deps.map fun d => ((c.recv.find? fun r => decide (r.sender = d.1) && decide (r.code = d.2)).bind fun r => r.verdict)

/-- The verdict on a set of chunks that a token passes on: none while one has no token; else whether all were good (R381). -/
def Coll.verdict (c : Coll) (deps : List (BitVec 14 × Nat)) : Option Bool :=
  let vs := c.checks deps
  if vs.any Option.isNone then none else some (vs.all fun x => decide (x = some true))

/-- The verdict on a destination chunk formed from a set of chunks: bad as soon as one is bad, good once all are good (R383). -/
def Coll.judged (c : Coll) (deps : List (BitVec 14 × Nat)) : Option Bool :=
  if (c.checks deps).contains (some false) then some false else c.verdict deps

/-- Byte strings of a destination from an offset on, row by row (R371). -/
def destWrites (base : Nat) (row : Nat) (stride : Int) : Nat → Nat → List Byte → List (Nat × List Byte)
  | 0, _, _ => []
  | fuel + 1, off, bs =>
    match bs with
    | [] => []
    | _ =>
      let room := row - off % row
      (strided base stride (off / row) + off % row, bs.take room) ::
        destWrites base row stride fuel (off + room) (bs.drop room)

/-- Rows of a contribution or destination: address and length (R371). -/
def rowRanges (base row rows : Nat) (stride : Int) : List (Nat × Nat) :=
  (List.range rows).map fun i => (strided base stride i, row)

end Sys2Proof.Machine
end

