-- ==== Sys2Proof/Machine/FrameMap.lean ====
section
/-! DEFINITION. The frame map and the spares (01: R21 to R27, R31, R32, R35; 06: R193, R205; 17: R489 to R492, R494, R495,
R498; 18: R506): which position a logical frame holds, and what order 1 of a boundary does. -/

namespace Sys2Proof.Machine

/-! ## Positions (R21) -/

/-- 0 for West, 1 for East. -/
def halfNo (h : Half) : Nat := match h with | .west => 0 | .east => 1

/-- Index of a position in SYS_FRAME_MAP; also its code in event details (log 37). -/
def posIndex (p : Pos) : Nat := halfNo p.half * 208 + p.prow.val * 13 + p.pcol.val

/-- The position of an index. -/
def posOf (i : Nat) : Pos :=
  { half := if i < 208 then .west else .east, prow := Fin.ofNat 16 (i % 208 / 13), pcol := Fin.ofNat 13 (i % 13) }

/-- The positions of a row-half, from the seam outward. -/
def rowPositions (h : Half) (row : Nat) : List Pos := (List.range 13).map fun c => posOf (halfNo h * 208 + row * 13 + c)

/-- Fused off under R3: on an FP2-352, one position of each row-half. -/
def NonVol.isFused (nv : NonVol) (p : Pos) : Bool :=
  nv.grade352 && decide (smGet 12 nv.fused (halfNo p.half * 16 + p.prow.val) = p.pcol.val)

/-- Usable: neither fused off nor retired (R24). -/
def State.usable (s : State) (p : Pos) : Bool := !s.nv.isFused p && !s.map.retired.contains p

/-- Logical columns of a half from the seam outward (R4, R24). -/
def outward (nv : NonVol) (h : Half) : List Nat :=
  match h with
  | .west => (List.range nv.workCols).reverse
  | .east => (List.range nv.workCols).map (· + nv.workCols)

/-- Logical columns of a row-half that are in service, from the seam outward. -/
def State.inService (s : State) (h : Half) (row : Nat) : List Nat :=
  (outward s.nv h).filter fun c => !s.map.lostCols.contains (c, row)

/-- The assignment of a row-half: logical column and position, from the seam outward (R24). -/
def State.assigned (s : State) (h : Half) (row : Nat) : List (Nat × Pos) :=
  (s.inService h row).zip ((rowPositions h row).filter s.usable)

/-- The logical frame at a position. -/
def State.logicalAt (s : State) (p : Pos) : Option Nat :=
  ((s.assigned p.half p.prow.val).find? fun x => decide (x.2 = p)).map fun x => frameAt s.nv x.1 p.prow.val

/-- The position of a logical frame; none when it is out of service (R32). -/
def State.positionOf (s : State) (f : Nat) : Option Pos :=
  let c := colOf s.nv f
  let r := rowOf s.nv f
  ((s.assigned (halfOfCol s.nv c) r).find? fun x => decide (x.1 = c)).map (·.2)

/-- The selector of a stop: the physical position that holds its logical frame, to which firmware connects the block (R190). -/
def State.stopPos (s : State) (x : Stop) : Option Pos := s.positionOf (x.frame s.nv)

/-- The spare of a row-half (R25). -/
def State.spareOf (s : State) (h : Half) (row : Nat) : Option Pos :=
  ((rowPositions h row).filter s.usable)[(s.inService h row).length]?

/-- Unused spare frames of the module (SYS_SPARE.FRAMESP). -/
def State.frameSpares (s : State) : Nat :=
  ([Half.west, .east].flatMap fun h => (List.range 16).map fun r => b2n (s.spareOf h r).isSome).foldl (· + ·) 0

/-- The logical frame with which a position's router belongs to a region: its own, or the nearest one seamward (R26, R35). Where none lies
seamward in its half, as of the router at pcol 0, it is the model's choice that it goes with the nearest one outward (log 202). -/
def State.routerFrame (s : State) (p : Pos) : Option Nat :=
  let row := s.assigned p.half p.prow.val
  let near := row.filter fun x => decide (x.2.pcol.val ≤ p.pcol.val)
  (near.getLast?.or row.head?).map fun x => frameAt s.nv x.1 p.prow.val

/-- The region whose identifier a position's router carries (R26, R35, R193). -/
def State.regionAt (s : State) (p : Pos) : Option Nat := (s.routerFrame p).bind s.regionOfFrame

/-! ## DEGRADED (R498) -/

/-- Lanes that work at a number of bad ones: four of five, or three, or none (R493). -/
def lanesLeft (bad : List Nat) : Nat := if bad.length ≤ 1 then 4 else if bad.length = 2 then 3 else 0

/-- Lane 4 is the spare; it is in use when another lane is out of use and it works. -/
def spareUsed (bad : List Nat) : Bool := (bad.any (· < 4)) && !bad.contains 4 && decide (0 < lanesLeft bad)

/-- The handoff ports use a lane in the mode that HOMODE selects: 800GAUI-4 leaves lanes 4 to 7 unused (R517, Table 19-4). -/
def State.usesLane (s : State) (lane : Nat) : Bool := !s.sys.homodeGround || decide (lane < 4)

/-- A lane is lost, or a port with it: a failed lane that no spare replaces (log 91). -/
def State.laneLost (s : State) : Bool :=
  ((List.range 12).any fun k => decide (lanesLeft (s.port k).bad < 4)) || s.ho.port0.lanesLost.any s.usesLane || s.ho.port1.lanesLost.any s.usesLane

/-- A package is lost (R495). -/
def State.packageLost (s : State) : Bool :=
  ((List.range 25).any fun c => decide ((s.t1 c).state = 3)) || (List.range 12).any fun c => decide ((s.t2 c).state = 3)

/-- The frame that an SRAM unit belongs to. -/
def unitFrame : SramUnit → Option Nat
  | .frameStore f _ | .instrStore f | .chainStore f => some f.val
  | _ => none

/-- The unit exists on the part's grade. -/
def unitExists (nv : NonVol) (u : SramUnit) : Bool := match unitFrame u with | some f => decide (f < nv.frames) | none => true

/-- SYS_STATUS.DEGRADED (R498). -/
def State.isDegraded (s : State) : Bool :=
  decide (s.frameSpares < 32) || !s.map.lostCols.isEmpty || s.packageLost || s.laneLost ||
  !s.sys.cores.contains .spare || s.sys.extraDegraded ||
  s.map.rows.any fun x => (unitFrame x.1).isNone && decide (2 ≤ (s.map.rows.filter fun y => decide (y.1 = x.1)).length)

/-! ## Forced disables -/

/-- A region is to be forcibly disabled at its next boundary. -/
def State.dueDisable (s : State) (n : Option Nat) : State :=
  match n with
  | some n => s.modRegion n fun r => { r with disableDue := true }
  | none => s

/-- The forced disable that was due takes effect: the region is disabled and its requests in flight end ABORTED. -/
def State.applyDue (s : State) (n : Nat) : State :=
  if (s.region n).disableDue then
    s.modRegion n fun r => { r with disableDue := false, disabled := true, abortAll := true }
  else s

/-! ## Retiring a position (R24, R32, R490) -/

/-- The frame from which a frame that moves loads its instruction and chain stores: another of its region. DESIGN CHOICE: the one in
service with the lowest number (R490, log 213). -/
def State.segmentFrame (s : State) (f : Nat) : Nat :=
  (((s.region ((s.regionOfFrame f).getD 4)).frameList s.nv).find? fun g => decide (g ≠ f) && (s.positionOf g).isSome).getD f

/-- What a frame that moves holds afterwards: its store stays at its logical address; SRSEED and SRSEQ and the counters of R75 are
copied, and the code and chain segments are loaded from another frame of the region (R490). -/
def Frame.moved (fr other : Frame) : Frame :=
  { ctxs := (fr.ctxs.map fun (x : Nat × Ctx) => (x.1, ({ srseed := x.2.srseed, srseq := x.2.srseq } : Ctx))).filter
      fun (x : Nat × Ctx) => decide (x.2 ≠ {})
    istore := other.istore, cstore := other.cstore, crush := fr.crush, ovf := fr.ovf }

/-- The same unit of another frame. -/
def unitAtFrame (u : SramUnit) (f : Nat) : SramUnit :=
  match u with
  | .frameStore _ b => .frameStore (Fin.ofNat 384 f) b
  | .instrStore _ => .instrStore (Fin.ofNat 384 f)
  | .chainStore _ => .chainStore (Fin.ofNat 384 f)
  | u => u

/-- What the fault history names of a unit: its physical place, and the unit without its frame's number (R498). -/
def State.unitPlace (s : State) (u : SramUnit) : Option Pos × SramUnit := ((unitFrame u).bind s.positionOf, unitAtFrame u 0)

/-- Spare rows stay with the position: after a map change they belong to the logical frame now there; those of the retired
position are gone. -/
def remapRows (before after : State) (rows : List (SramUnit × Nat)) : List (SramUnit × Nat) :=
  rows.filterMap fun x =>
    match unitFrame x.1 with
    | none => some x
    | some f =>
      match before.positionOf f with
      | none => none
      | some p => (after.logicalAt p).map fun g => (unitAtFrame x.1 g, x.2)

/-- The logical frames of a row-half. -/
def State.rowFrames (s : State) (p : Pos) : List Nat := (s.assigned p.half p.prow.val).map fun x => frameAt s.nv x.1 p.prow.val

/-- The map after a position is retired: the spare of its row-half is brought in, or, with none left, its logical frame goes
out of service; the frames that move are refilled (R24, R32, R490). -/
def State.retireMap (s : State) (p : Pos) : State :=
  let t := { s with map := { s.map with
    retired := s.map.retired ++ [p], tests := s.map.tests.filter fun q => decide (q ≠ p)
    lostCols := match s.logicalAt p with
      | some f => if (s.spareOf p.half p.prow.val).isSome then s.map.lostCols
        else s.map.lostCols ++ [(colOf s.nv f, p.prow.val)]
      | none => s.map.lostCols } }
  let t := { t with map := { t.map with rows := remapRows s t s.map.rows, rowsDue := remapRows s t s.map.rowsDue } }
  let moved := (s.rowFrames p).filter fun f => decide (s.positionOf f ≠ t.positionOf f) && (t.positionOf f).isSome
  moved.foldl (fun (t : State) f => t.modFrame f fun fr => fr.moved (s.frame (t.segmentFrame f))) t

/-- Retire a position for a lasting fault: the fault is recorded, FRAME_RETIRED is posted, and a frame that goes out of
service is posted as FRAME_LOST and disables its region (R31, R32, R490, R498). -/
def State.retire1 (s : State) (p : Pos) : State :=
  if !s.usable p then s
  else
    let old := s.logicalAt p
    let rid := old.bind s.regionOfFrame
    let t := ((s.retireMap p).recordFault (.frame p)).postErrAmong [rid] 0x0100 (posIndex p) (old.getD 0xFFFF)
    match old with
    | some f =>
      if (t.positionOf f).isSome then t
      else (t.postErrAmong [rid] 0x0010 f (posIndex p)).dueDisable rid
    | none => t

/-! ## Packages (R494, R495) -/

/-- A package's code in an event's details (log 37). -/
def packageCode (tier2 : Bool) (c : Nat) : Nat := c + 2 ^ 8 * b2n tier2

/-- A region's unit holds a package (R495). -/
def Region.holdsPackage (r : Region) (tier2 : Bool) (c : Nat) : Bool := if tier2 then r.t2List.contains c else r.t1List.contains c

/-- The region whose unit holds a package. -/
def State.packageRegion (s : State) (tier2 : Bool) (c : Nat) : Option Nat :=
  (List.range 4).find? fun n => (s.region n).holdsPackage tier2 c

/-- A package is lost: PKG_LOST, and the region that holds it is disabled at its next boundary (R495). -/
def State.losePackage (s : State) (tier2 : Bool) (c : Nat) : State :=
  let s := if tier2 then s.modT2 c fun x => { x with state := 3 } else s.modT1 c fun x => { x with state := 3 }
  let s := s.postErrAmong [s.packageRegion tier2 c] 0x0106 (packageCode tier2 c) 0
  s.dueDisable (s.packageRegion tier2 c)

/-- A package is lasting-faulty: a tier-1 package migrates to the spare while one is idle (at start-up the spare simply
serves), and any other package is lost; a spare in use is lost with the package whose controller it serves or is to serve
(R484, R494, R495). -/
def State.packageDown (s : State) (tier2 : Bool) (c : Nat) (atStart : Bool) : State :=
  if tier2 then (if (s.t2 c).state = 3 then s else s.losePackage true c)
  else if c = 24 then
    if (s.t1 24).state = 3 then s
    else if (s.t1 24).state = 0 then s.losePackage false 24
    else
      let d := s.mc.serves.toNat
      (({ s with mc := { s.mc with serves := 0x1F, copyDone := false } }).losePackage false 24).losePackage false d
  else if (s.t1 c).state ≠ 0 then s
  else if (s.t1 24).state ≠ 0 then s.losePackage false c
  else if atStart then
    let s := ({ s with mc := { s.mc with serves := BitVec.ofNat 5 c } }).spareKeys c
    ((s.modT1 c fun x => { x with state := 2 }).modT1 24 fun x => { x with state := 2 }).postErrAmong
      [s.packageRegion false c] 0x0105 c 0
  else
    let s := ({ s with mc := { s.mc with serves := BitVec.ofNat 5 c, copyDone := false } }).spareKeys c
    (s.modT1 c fun x => { x with state := 1 }).modT1 24 fun x => { x with state := 1 }

/-- A package that is known to be lasting-faulty: it is lost, or the spare serves or is to serve its controller. -/
def State.knownFaulty (s : State) (tier2 : Bool) (c : Nat) : Bool :=
  if tier2 then decide ((s.t2 c).state = 3) else if c = 24 then decide ((s.t1 24).state = 3) else decide ((s.t1 c).state ≠ 0)

/-- A package's lasting fault is recorded and acted upon. -/
def State.packageFault (s : State) (tier2 : Bool) (c : Nat) (atStart : Bool) : State :=
  if s.knownFaulty tier2 c then s else (s.recordFault (.package tier2 c)).packageDown tier2 c atStart

/-! ## Order 1 of a boundary (Table 9-4) -/

/-- The positions of a region that await a known-answer test, in position order. -/
def State.testsDue (s : State) (n : Nat) : List Pos :=
  ((List.range 416).map posOf).filter fun p => s.map.tests.contains p && decide (s.regionAt p = some n)

/-- A test that passed: the fault was transient (R489). -/
def State.testPassed (s : State) (p : Pos) : State :=
  { s.countCe with map := { s.map with tests := s.map.tests.filter fun q => decide (q ≠ p) } }

/-- Words of stores that move and cannot be copied are zeroed, and every in-flight request of the region ends (R491). -/
def State.loseWords (s t : State) (env : BoundaryEnv) : State :=
  let moved := (List.range s.nv.frames).filter fun f => decide (s.positionOf f ≠ t.positionOf f) && (t.positionOf f).isSome
  moved.foldl (fun (t : State) f =>
    let ws := env.lostWords.filter fun x => decide (x.1.val = f) && decide (x.2 + 8 ≤ storeSize)
    if ws.isEmpty then t
    else
      let t := { t with mem := ws.foldl (fun m (x : Fin 384 × Nat) => zeroBytes m (storeAddr f (x.2 / 8 * 8)) 8) t.mem }
      let t := t.postErrAmong [t.regionOfFrame f] 0x0101 f ws.length
      match t.regionOfFrame f with
      | some k => t.modRegion k fun r => { r with abortAll := true }
      | none => t) t

/-- A link that is to be retrained belongs to a boundary of a region at either end, or of any region when neither end lies
in one. -/
def State.linkHere (s : State) (n : Nat) (a b : Pos) : Bool :=
  let x := s.regionAt a
  let y := s.regionAt b
  decide (x = some n) || decide (y = some n) || (x.isNone && y.isNone)

/-- Retrain the mesh links that are due: one that still fails is lost, and regions at its ends are disabled (R487, R498). -/
def State.retrainLinks (s : State) (n : Nat) : State :=
  let due := s.map.retrain.filter fun x => s.linkHere n x.1 x.2.1
  let s := { s with map := { s.map with retrain := s.map.retrain.filter fun x => !s.linkHere n x.1 x.2.1 } }
  due.foldl (fun (s : State) x =>
    if x.2.2 then
      let s := { s with map := { s.map with lostLinks := s.map.lostLinks ++ [(x.1, x.2.1)] } }
      let s := (s.recordFault (.link x.1 x.2.1)).postErrAmong [s.regionAt x.1, s.regionAt x.2.1] 0x0109 (posIndex x.1) (posIndex x.2.1)
      (s.dueDisable (s.regionAt x.1)).dueDisable (s.regionAt x.2.1)
    else s.countCe) s

/-- Spare rows of a bank or array (R492). -/
def spareRows : SramUnit → Nat
  | .frameStore _ _ => 8
  | .instrStore _ | .chainStore _ => 4
  | .requestTable _ | .walkCache _ => 0
  | _ => 2

/-- A code for a structure in an event's details (log 37): its kind and its number. -/
def unitCode : SramUnit → Nat
  | .frameStore f b => f.val * 32 + b.val
  | .instrStore f => 2 ^ 32 + f.val
  | .chainStore f => 2 * 2 ^ 32 + f.val
  | .staging a => 3 * 2 ^ 32 + a.val
  | .seamFifo r e n => 4 * 2 ^ 32 + r.val * 4 + 2 * b2n e + n.val
  | .coreMemory c a => 5 * 2 ^ 32 + c.val * 2 ^ 16 + a
  | .requestTable i => 6 * 2 ^ 32 + i
  | .walkCache h => 7 * 2 ^ 32 + halfNo h

/-- A unit has rows under SECDED that spare rows can replace; a walk cache, under parity, has none (R486, R492). -/
def hasRows : SramUnit → Bool
  | .walkCache _ => false
  | _ => true

/-- Whether a unit is served by the boundary of a region: its frames', or an array outside the frames. -/
def State.unitHere (s : State) (n : Nat) (u : SramUnit) : Bool :=
  match unitFrame u with
  | some f => (s.region n).holdsFrame s.nv f
  | none => true

/-- Rows of a unit that are remapped. -/
def State.rowsUsed (s : State) (u : SramUnit) : Nat := (s.map.rows.filter fun x => decide (x.1 = u)).length

/-- Bring in a spare row for one word's row; an array outside the frames that has none left stays in use under SECDED alone
(R492). -/
def State.spareRow (s : State) (u : SramUnit) (row : Nat) : State :=
  let x := s.unitPlace u
  if s.rowsUsed u < spareRows u then
    (({ s with map := { s.map with rows := s.map.rows ++ [(u, row)] } }).recordFault (.row x.1 x.2 row)).postErrAmong
      [(unitFrame u).bind s.regionOfFrame] 0x0102 (unitCode u) row
  else if (unitFrame u).isSome then s
  else (({ s with sys := { s.sys with extraDegraded := true } }).recordFault (.noSpareRow u row)).postErr 0x0103 (unitCode u) 0

/-- The position of a frame's unit. -/
def State.unitPos (s : State) (u : SramUnit) : Option Pos := (unitFrame u).bind s.positionOf

/-- The positions of a frame's units that have fewer spare rows left than rows due (R492). -/
def State.exhausted (s : State) (due : List (SramUnit × Nat)) : List Pos :=
  due.filterMap fun x =>
    if spareRows x.1 < s.rowsUsed x.1 + (due.filter fun y => decide (y.1 = x.1)).length then s.unitPos x.1 else none

/-- Bring in the spare rows that are due, except those of a position that is retired with them, and then retire the positions one at a
time in increasing pcol order (R490, R492, log 161). -/
def State.mendRows (s : State) (due : List (SramUnit × Nat)) (bad : List Pos) : State :=
  let t := (due.filter fun x => match s.unitPos x.1 with | some p => !bad.contains p | none => true).foldl
    (fun (t : State) x => t.spareRow x.1 x.2) s
  (((List.range 416).map posOf).filter (bad.contains ·)).foldl State.retire1 t

/-- What order 1 does about frames: those whose test fails and those without a spare row for a row that is due are retired; the other
rows that are due are brought in (R32, R489, R490, R492). -/
def State.mendFrames (s : State) (n : Nat) (env : BoundaryEnv) : State :=
  let tests := s.testsDue n
  let due := s.map.rowsDue.filter fun x => s.unitHere n x.1
  let t := (tests.filter fun p => !env.failed.contains p).foldl State.testPassed
    { s with map := { s.map with rowsDue := s.map.rowsDue.filter fun x => !s.unitHere n x.1 } }
  t.mendRows due (tests.filter (env.failed.contains ·) ++ s.exhausted due)

/-- The switch to the spare GDDR7 package at the first boundary after the copy: what could not be copied is lost, unless a whole write since
cleared it (R205, R488, R494). -/
def State.switchSpare (s : State) : State :=
  if !s.mc.copyDone then s
  else
    let c := s.mc.serves.toNat
    let l := (s.t1 24).lost.filter ((s.t1 c).lost.contains ·)
    let s := { s with mc := { s.mc with copyDone := false } }
    let s := s.modT1 c fun x => { x with state := 2, lost := l }
    (s.modT1 24 fun x => { x with state := 2, lost := [] }).postErrAmong [s.packageRegion false c] 0x0105 c 0

/-- Order 1 of region n's boundary: tests, frame-map change, spare rows, links and the spare package; then the forced
disables that fell due. -/
def State.orderOne (s : State) (n : Nat) (env : BoundaryEnv) : State :=
  let t := s.mendFrames n env
  let t := s.loseWords t env
  let t := t.retrainLinks n
  let t := t.switchSpare
  let changed := decide (t.map.retired ≠ s.map.retired)
  let t := if changed then { t with sys := { t.sys with mapgen := t.sys.mapgen + 2 } } else t
  let t := if changed then t.recheckAll else t
  t.applyDue n

end Sys2Proof.Machine
end

