-- ==== Sys2Proof/Machine/Power.lean ====
section
/-! DEFINITION. Power states and clock steps (16: R465 to R475; 17: R496, R497; 19: R513, R520, R523) and the tick of the global
counter (13: R415). -/

namespace Sys2Proof.Machine

/-! ## Time -/

/-- One nanosecond passes with no command (log 2): the counter advances while the always-on domain has power, and the
input's energy accumulates (R415, Table 18-11). A tick that a correction omits does not advance the counter (R417). -/
def State.tick (s : State) : State :=
  if s.pwr.rail = .off then s
  else if s.fab.skipTick then
    { s with fab := { s.fab with skipTick := false }, pwr := { s.pwr with energy := s.pwr.energy + s.pwr.input.toNat } }
  else { s with gc := s.gc + 1, pwr := { s.pwr with energy := s.pwr.energy + s.pwr.input.toNat } }

/-! ## Module states (R465, R470) -/

/-- What the registers show from now on in Lull (R504). -/
def State.view (s : State) : LullView :=
  { sys := s.sys, map := s.map, mc := s.mc, hif := s.hif, sec := s.sec, regions := s.regions, att := s.att, fab := s.fab }

/-- The state as the registers show it. -/
def State.shownAs (s : State) (v : LullView) : State :=
  { s with sys := v.sys, map := v.map, mc := v.mc, hif := v.hif, sec := v.sec, regions := v.regions, att := v.att, fab := v.fab }

/-- A wake event: the module becomes Active (R470). -/
def State.wakeUp (s : State) : State :=
  if s.isReady then
    { s with atLull := none, pwr := { s.pwr with
      lull := false, west := { s.pwr.west with active := true }, east := { s.pwr.east with active := true } } }
  else s

/-- A module at rest wakes before it does what its surroundings asked (R470). -/
def State.outOfRest (s : State) : State := if s.moduleState = 0 then s else s.wakeUp

/-- Traffic for a half makes it Active (R467). -/
def State.wakeHalf (s : State) (h : Half) : State :=
  ({ s with atLull := none, pwr := { s.pwr with lull := false } }).modHalf h fun x => { x with active := true }

/-- The keeper's alarm is due: 400 µs before a hold's tick (R470). -/
def State.alarmDue (s : State) : Bool :=
  (List.range 4).any fun n => match (s.region n).hold with
    | some u => decide (u.toNat ≤ s.gc.toNat + 400000)
    | none => false

/-- KEEPER_ALARM: the keeper's alarm for a STEP_HOLD wakes the module (R470). -/
def execKeeperAlarm (s : State) : Host.Outcome State Fault Refusal := .next (if s.alarmDue then s.wakeUp else s)

/-- The region has frames in a half (R191). -/
def Region.inHalf (r : Region) (h : Half) : Bool :=
  r.live && (match h with | .west => decide (r.gfirst ≤ 2) | .east => decide (3 ≤ r.glast))

/-- Traffic for a region's memory or frames makes its halves Active (R467). -/
def State.wakeRegion (s : State) (n : Nat) : State :=
  let s := if (s.region n).inHalf .west then s.wakeHalf .west else s
  if (s.region n).inHalf .east then s.wakeHalf .east else s

/-- LOWSTATE of a region; a region without a set-up counts as Lull (R467). -/
def Region.low (r : Region) : Nat := match r.setup with | some su => su.lowstate | none => 2

/-- A request in PROMPT or LEAD: the region has work (R289). -/
def State.hasWork (s : State) (n : Nat) : Bool :=
  s.reqs.any fun (x : Nat × Req) => decide (x.2.region = n) && (decide (x.2.state = .prompt) || decide (x.2.state = .lead))

/-- A request ends at the next boundary whatever the step gives: R32, R193, R462, R479, R486. -/
def Region.aborts (r : Region) (q : Req) : Bool :=
  q.abort || (r.abortAll && (decide (q.state ≠ .queued) || r.disabled))

/-- A request that goes on is in PROMPT or LEAD: a step of the region would have work. -/
def State.stepWork (s : State) (n : Nat) : Bool :=
  s.reqs.any fun (x : Nat × Req) => decide (x.2.region = n) && (decide (x.2.state = .prompt) || decide (x.2.state = .lead)) &&
    !(s.region n).aborts x.2

/-- Nothing of a frame is in flight; what a stopped step has left behind, such as jobs whose effects are withheld, is not. -/
def Frame.quiet (fr : Frame) : Bool :=
  fr.dmaQueue.isEmpty && fr.attQueue.isEmpty && fr.dmaActive.isEmpty && fr.deckQueue.isEmpty && fr.inFlight.isEmpty &&
  fr.course.isNone && fr.delivered.isEmpty

/-- A scrub or a handoff write of a region is in flight. -/
def State.moving (s : State) (n : Nat) : Bool :=
  let r := s.region n
  ((r.pool0 ++ r.pool1).any fun p => decide (p.st = .scrubbing)) || (r.tblocks.any fun b => b.scrubbing) ||
  (s.reqs.any fun (x : Nat × Req) => decide (x.2.region = n) && !x.2.hoOut.isEmpty)

/-- Nothing of a region is in flight: no DMA, scrub, copy, handoff write or collective, and its boundary waits with no
work (R467). -/
def State.regionIdle (s : State) (n : Nat) : Bool :=
  let r := s.region n
  decide (r.run = .waiting) && !s.hasWork n && r.bcmds.isEmpty && (r.colls.all fun c => c.done) && !r.planned && !s.moving n &&
  s.frames.all fun (x : Nat × Frame) => !(r.holdsFrame s.nv x.1) || x.2.quiet

/-- Whether a half may enter Warm (R467). -/
def State.mayWarm (s : State) (h : Half) : Bool :=
  decide (s.pwr.deepest.toNat ≠ 0) && decide (s.pwr.deepest.toNat < 3) &&
  (List.range 4).all fun n => !(s.region n).inHalf h || (decide (1 ≤ (s.region n).low) && s.regionIdle n)

/-- WARM_ENTRY: a half's fast clock is gated when the conditions of R467 hold. -/
def execWarmEntry (half : Half) (s : State) : Host.Outcome State Fault Refusal :=
  .next (
    if s.isReady && (s.half half).active && s.mayWarm half then
      let s := s.modHalf half fun x => { x with active := false }
      if !s.pwr.west.active && !s.pwr.east.active then { s with pwr := { s.pwr with warmSince := s.gc } } else s
    else s)

/-- Whether the keeper may move the module from Warm to Lull (R468). -/
def State.mayLull (s : State) : Bool :=
  !s.pwr.west.active && !s.pwr.east.active && decide (s.pwr.deepest = 2) &&
  decide (s.pwr.lulldly.toNat * 100000 ≤ (s.gc - s.pwr.warmSince).toNat) &&
  ((List.range 4).all fun n =>
    let r := s.region n
    decide (r.low = 2) && r.bcmds.isEmpty && r.drains.isEmpty && r.removals.isEmpty &&
    (match r.hold with | some u => decide (s.gc.toNat + 1000000 < u.toNat) | none => true)) &&
  s.hif.queues.all (fun (x : Nat × Queue) => x.2.drain.isEmpty) && s.nextFetch.isNone && s.ho.drains.isEmpty &&
  s.ho.revokes.isEmpty && s.reqs.all fun (x : Nat × Req) => x.2.hoOut.isEmpty && decide (x.2.state ≠ .handover)

/-- LULL_ENTRY: the keeper moves the module from Warm to Lull when the conditions of R468 hold; the registers keep what they hold for
reads in Lull (R504). -/
def execLullEntry (s : State) : Host.Outcome State Fault Refusal :=
  .next (if s.isReady && !s.pwr.lull && s.mayLull then { s with atLull := some s.view, pwr := { s.pwr with lull := true } } else s)

/-! ## Clock steps (R472 to R475) -/

/-- A cap of PWR_CTL. -/
def State.cap (s : State) (h : Half) : BitVec 2 := match h with | .west => s.pwr.wmax | .east => s.pwr.emax

/-! ## ALERT# (R520) -/

/-- A half is below its step cap for a thermal cause. -/
def State.thermalLow (s : State) (h : Half) : Bool := (s.half h).thermal && decide ((s.cap h).toNat < (s.half h).step.toNat)

/-- The causes of ALERT#, one bit each in the order of R520. -/
def State.alertCauses (s : State) : Nat :=
  b2n (s.pwr.thermLatched || s.pwr.psLatched) + 2 * b2n (decide (s.pwr.rail = .overHold)) +
  4 * b2n (s.thermalLow .west || s.thermalLow .east) + 8 * b2n s.isDegraded + 16 * b2n s.pwr.plateHot

/-- The keeper drives ALERT# low while a cause holds, and until a GET_STATUS finds none (R520). -/
def State.raiseAlert (s : State) : State :=
  if s.alertCauses = 0 then s else { s with pwr := { s.pwr with alert := true } }

/-! ## Changes of step -/

/-- A half changes step: PWR_STEP is posted with half, old step, new step and cause, and the set-up check is re-run
(R475). -/
def State.setStep (s : State) (h : Half) (new : BitVec 2) (cause : Nat) : State :=
  let old := (s.half h).step
  if old = new then s
  else
    let s := s.modHalf h fun x => { x with step := new }
    (s.postErr 0x0050 (halfNo h + 2 ^ 8 * old.toNat + 2 ^ 16 * new.toNat) cause).recheckAll

/-- One step down for a half under Table 16-3, which wins over a step up in progress (R474). -/
def State.stepDown (s : State) (h : Half) (new : BitVec 2) (thermal : Bool) (cause : Nat) : State :=
  let s := s.modHalf h fun x => { x with up := none, cool := 0, throttled := true, thermal := x.thermal || thermal }
  s.setStep h new cause

/-- The caps of PWR_CTL take effect for one half: down at once, up through a step up (R472, R473). -/
def State.capHalf (s : State) (h : Half) : State :=
  let x := s.half h
  let c := s.cap h
  if x.step.toNat < c.toNat then (s.modHalf h fun x => { x with up := none }).setStep h c 4
  else if c.toNat < x.step.toNat ∧ !x.throttled then s.modHalf h fun x => { x with up := some c }
  else s.modHalf h fun x => { x with up := match x.up with | some t => if t.toNat < c.toNat then some c else some t | none => none }

/-- The caps take effect at the next step boundary of any region (R472). -/
def State.applyCaps (s : State) : State :=
  if s.pwr.capsDue then
    ((({ s with pwr := { s.pwr with capsDue := false } }).capHalf .west).capHalf .east).raiseAlert
  else s

/-- No step is running. -/
def State.noStep (s : State) : Bool := (List.range 4).all fun n => decide ((s.region n).run = .waiting)

/-- HARDWARE_THROTTLE: a half's junction is at 115 °C or above, and hardware sets it to 1.0 GHz, in every
stage of start-up too (Table 16-3). -/
def execHardwareThrottle (half : Half) (s : State) : Host.Outcome State Fault Refusal :=
  .next (if s.pwr.rail = .on then (s.wakeUp.stepDown half 2 true 2).raiseAlert else s)

/-- STEP_UP_COMPLETE: the voltage has risen and the divider switches to the new step (R473). -/
def execStepUpComplete (half : Half) (s : State) : Host.Outcome State Fault Refusal :=
  .next (
    if !s.isReady then s
    else
      match (s.half half).up with
      | none => s
      | some t =>
        let s := s.modHalf half fun x => { x with
          up := none, throttled := x.throttled && decide ((s.cap half).toNat < t.toNat)
          thermal := x.thermal && decide ((s.cap half).toNat < t.toNat) }
        s.setStep half t 3)

/-- One millisecond with margin for a half: after 50 of them, one step up towards the cap (Table 16-3). -/
def State.coolHalf (s : State) (h : Half) (margin : Bool) : State :=
  let x := s.half h
  if !margin then s.modHalf h fun x => { x with cool := 0 }
  else if 50 ≤ x.cool + 1 then
    let s := s.modHalf h fun x => { x with cool := 0 }
    if (s.cap h).toNat < x.step.toNat ∧ x.up = none then s.modHalf h fun x => { x with up := some (x.step - 1) } else s
  else s.modHalf h fun x => { x with cool := x.cool + 1 }

/-- The next step down. -/
def slower (x : BitVec 2) : BitVec 2 := if x.toNat < 2 then x + 1 else 2

/-- THROTTLE_CHECK: firmware's evaluation of one millisecond's telemetry (Table 16-3). Which half draws more is not
among the readings: it is a free value (log 41). -/
def execThrottleCheck (m : Telemetry) (s : State) : Host.Outcome State Fault Refusal :=
  .next (
    if s.pwr.rail = .off then s
    else
      let s := { s with pwr := { s.pwr with
        input := m.input, stj := m.stj, plate := m.plate, plateHot := s.pwr.plateHot && decide (45 < m.plate.toNat)
        west := { s.pwr.west with tj := m.wtj }, east := { s.pwr.east with tj := m.etj } } }
      if !s.isReady then s
      else
        let above := decide (s.pwr.limit.toNat < m.input.toNat)
        let (v, t) := s.takeFree
        let eastMore := bitAt v 0
        let s := if above then t else s
        let hotW := decide (105 ≤ m.wtj.toNat)
        let hotE := decide (105 ≤ m.etj.toNat)
        let margin := decide (m.input.toNat * 10 < s.pwr.limit.toNat * 9) && decide (m.wtj.toNat < 95) &&
          decide (m.etj.toNat < 95) && decide (m.stj.toNat < 95)
        let s := if above || hotW || hotE then s.wakeUp else s
        let s := if hotW then s.stepDown .west (slower s.pwr.west.step) true 1 else s
        let s := if hotE then s.stepDown .east (slower s.pwr.east.step) true 1 else s
        let s := if above && !eastMore then s.stepDown .west (slower s.pwr.west.step) false 0 else s
        let s := if above && eastMore then s.stepDown .east (slower s.pwr.east.step) false 0 else s
        ((s.coolHalf .west margin).coolHalf .east margin).raiseAlert)

/-! ## The coolant and the control cores -/

/-- PLATE_HOT: the coolant inlet is above 45 °C: an event and ALERT#, nothing else (R523). -/
def execPlateHot (plate : BitVec 8) (s : State) : Host.Outcome State Fault Refusal :=
  .next (
    if s.pwr.rail = .off || decide (plate.toNat ≤ 45) then s
    else
      let s := { s with pwr := { s.pwr with plate := plate, plateHot := true } }
      (s.postErr 0x0051 plate.toNat 0).raiseAlert)

/-- A control core faulted: its task goes on elsewhere; the core returns when its self-test passes, or is retired and the
spare takes its place. -/
def State.coreFault (s : State) (core : Nat) (passes : Bool) : State :=
  if !s.isReady || decide (s.sys.cores[core]? ≠ some .service) then s
  else if passes then s.countCe
  else
    let cs := setAt s.sys.cores core .retired
    let spare := cs.findIdx? fun c => decide (c = .spare)
    let cs := match spare with | some k => setAt cs k .service | none => cs
    let s := { s with sys := { s.sys with cores := cs } }
    let s := (s.recordFault (.core core)).postErr 0x010A core 0
    if spare.isNone then s.recheckAll.raiseAlert else s.raiseAlert

/-- CONTROL_CORE_FAULT: an uncorrectable error on a control core (R496). -/
def execControlCoreFault (core : Fin 5) (passes : Bool) (s : State) : Host.Outcome State Fault Refusal :=
  .next (s.coreFault core.val passes)

/-- TASK_WATCHDOG_EXPIRY: a task ran past its 1 ms watchdog, which faults its core (R496). -/
def execTaskWatchdogExpiry (core : Fin 5) (passes : Bool) (s : State) : Host.Outcome State Fault Refusal :=
  .next (s.coreFault core.val passes)

end Sys2Proof.Machine
end

