-- ==== Sys2Proof/Machine/Link.lean ====
section
/-! DEFINITION. The Zhevmal link ports and the synchronisation of the global counter (12: R355 to R360; 13: R415 to R419;
15: R453; 17: R493). -/

namespace Sys2Proof.Machine

/-! ## The time parent (R416, R418) -/

/-- The module is its own time root (R416). -/
def State.isRoot (s : State) : Bool :=
  !s.fab.coordSet || (decide (s.rackPos = 0) && decide (s.tray = 0) && decide (s.slotNo = 0))

/-- The port to the time parent; 15 at the root (R416). -/
def State.parentPort (s : State) : Nat :=
  if s.isRoot then 15
  else if s.slotNo ≠ 0 then (if s.slotNo ≤ 4 then 4 else 6)
  else if s.tray ≠ 0 then trayPort (8 - s.tray)
  else
    match s.l3mode with
    | 2 => if s.rackPos ≤ s.nrack - s.rackPos then 5 else 7
    | 3 => 11
    | _ => 5

/-- Links from a tree position to its root. -/
def treeDepth : Nat → Nat → Nat
  | 0, _ => 0
  | fuel + 1, p => if p = 0 then 0 else 1 + treeDepth fuel ((p - 1) / 2)

/-- H: links on the path to the root (R418). -/
def State.hops (s : State) : Nat :=
  if s.isRoot then 0
  else min s.slotNo (8 - s.slotNo) + (if s.tray = 0 then 0 else 1) +
    (match s.l3mode with
     | 2 => min s.rackPos (s.nrack - s.rackPos)
     | 3 => treeDepth 8 s.rackPos
     | _ => s.rackPos)

/-- LOCKED: the root always is (R417). -/
def State.isLocked (s : State) : Bool := s.isRoot || s.fab.locked

/-- The module becomes unlocked (R419). -/
def State.unlock (s : State) : State :=
  if s.fab.locked then
    ({ s with fab := { s.fab with locked := false, stable := none, lost := true } }).postErr 0x0040 0 0
  else { s with fab := { s.fab with stable := none } }

/-! ## Lanes (R493) -/

/-- Take lanes that failed both tests out of use (R493): the spare comes in, or the port narrows, or it goes down. -/
def State.failLanes (s : State) (k : Nat) (failed : List (Fin 5)) : State :=
  let p := s.port k
  let new := (failed.map (·.val)).foldl (fun acc x => if p.bad.contains x || acc.contains x then acc else acc ++ [x]) []
  if new.isEmpty then s
  else
    let bad := p.bad ++ new
    let lanes := lanesLeft bad
    let s := new.foldl (fun (s : State) l => s.recordFault (.lane k l)) s
    let s := s.modPort k fun p => { p with bad := bad, spare := spareUsed bad, lanes := if p.up then lanes else p.lanes,
                                           up := p.up && decide (0 < lanes) }
    let s := s.raiseAlert
    let s := if spareUsed bad && !p.spare then s.postErr 0x0107 k ((new.find? (· < 4)).getD 0) else s
    let s := if lanes = 3 ∧ lanesLeft p.bad = 4 then s.postErr 0x0108 k 3 else s
    let s := if lanes ≠ lanesLeft p.bad then s.recheckAll else s
    let s := if k = s.parentPort ∧ spareUsed bad ≠ p.spare then { s with fab := { s.fab with holdFrom := some s.gc } } else s
    if k = s.parentPort ∧ lanes = 0 then s.unlock else s

/-- Bytes of a coordinate in a training message. -/
def coordBytes (c : BitVec 14) : List Byte := leBytes 2 c.toNat

/-- Hold a port down (R359, R453); the module becomes unlocked where it was the parent link (R419). -/
def State.holdPort (s : State) (k : Nat) (event : Nat) (t : ZlTraining) : State :=
  let lost := (s.port k).up && decide (k = s.parentPort)
  let s := s.modPort k fun p => { p with up := false, lanes := 0, held := true, auth := false, peer := t.peer, peerPort := t.peerPort }
  let s := s.postErr event (k + 2 ^ 16 * s.self.toNat) (t.peerPort.toNat + 2 ^ 16 * t.peer.toNat)
  if lost then s.unlock else s

/-- The MAC of one end of a link under a fabric key: its own coordinate and nonce stand first (R453, log 168). -/
def trainingMac (key : List Byte) (own other : BitVec 14) (ownNonce otherNonce : List Byte) : List Byte :=
  aesCmac key (coordBytes own ++ coordBytes other ++ ownNonce ++ otherNonce)

/-- What the module sends while a port that its arrangement names trains: its coordinate and rack, and with a fabric key set its nonce
and MAC (R359, R361, R453). -/
def State.sendTraining (s : State) (k : Nat) (t : ZlTraining) : State :=
  let own := t.nonces.drop 16
  match s.portPeer k, s.sec.fabricKey with
  | none, _ => s
  | some _, none => s.emit (.training k s.self s.rackNo [] [])
  | some _, some key => s.emit (.training k s.self s.rackNo own (trainingMac key s.self t.peer own (t.nonces.take 16)))

/-- The peer is the module, and its port the port, that Table 12-1 requires: on L1 and L2 one of the module's own rack. -/
def State.rightPeer (s : State) (k : Nat) (t : ZlTraining) : Bool :=
  decide (s.portPeer k = some (t.peer, t.peerPort.toNat)) && ([5, 7, 11].contains k || decide (t.rack.toNat = s.rackNo))

/-- The peer's MAC verifies, where a fabric key is set (R453). -/
def State.rightMac (s : State) (t : ZlTraining) : Bool :=
  match s.sec.fabricKey with
  | none => true
  | some key => decide (trainingMac key t.peer s.self (t.nonces.take 16) (t.nonces.drop 16) = t.mac)

/-- ZL_LINK_TRAINING: a port trains once FAB_COORD has been written: it comes up when the peer is the one that Table 12-1
requires and, with a fabric key set, the peer's MAC verifies (R359, R360, R453, R493). -/
def execZlLinkTraining (port : Fin 12) (t : ZlTraining) (s : State) : Host.Outcome State Fault Refusal :=
  let k := port.val
  .next (if !s.isReady || !s.fab.coordSet then s
    else
      let s := s.sendTraining k t
      if !s.rightPeer k t then s.holdPort k 0x0030 t
      else if !s.rightMac t then s.holdPort k 0x0034 t
      else
        let s := s.failLanes k t.failedLanes
        let lanes := lanesLeft (s.port k).bad
        s.modPort k fun p => { p with
          up := decide (0 < lanes), lanes := lanes, held := false, auth := s.sec.fabricKey.isSome && decide (0 < lanes),
          peer := t.peer, peerPort := t.peerPort, peerValid := p.peerValid || decide (0 < lanes), retrying := false })

/-- ZL_FLIT: a flit that fails its CRC is discarded and its replay requested; the good replay makes the fault transient
(R357, R487). A good flit that is not the management lane's wakes the module (R470). -/
def execZlFlit (port : Fin 12) (lane : ZlLane) (crcOk : Bool) (s : State) : Host.Outcome State Fault Refusal :=
  let k := port.val
  .next (if !s.isReady || !(s.port k).up then s
    else if !crcOk then
      (s.modPort k fun p => { p with replay := satAdd p.replay 1, retrying := true }).emit (.flitReplay k)
    else
      let s := if (s.port k).retrying then (s.modPort k fun p => { p with retrying := false }).countCe else s
      if lane = .management then s else s.wakeUp)

/-- ZL_REPLAY_FAILURE: the port retrains and tests its lanes (R493). -/
def execZlReplayFailure (port : Fin 12) (failedLanes : List (Fin 5)) (s : State) : Host.Outcome State Fault Refusal :=
  let k := port.val
  .next (if !s.isReady || !(s.port k).up then s
    else (s.modPort k fun p => { p with retrying := false }).failLanes k failedLanes)

/-! ## Global counter (R415, R417, R419) -/

/-- A signed 64-bit difference of stamps. -/
def stampDiff (a b : W64) : Int := (a - b).toInt

/-- A tick while fewer than so many ticks have passed since, counted modulo 2^64 (R415). -/
def State.within (s : State) (ticks : Nat) (t : Option W64) : Option W64 :=
  t.filter fun x => decide ((s.gc - x).toNat < ticks)

/-- Forget corrections and lane changes that are too old to matter (R417, R419). -/
def State.ageSync (s : State) : State :=
  { s with fab := { s.fab with adjustAt := s.within 1000 s.fab.adjustAt, holdFrom := s.within 100000 s.fab.holdFrom } }

/-- Correct the counter from a measured offset: jump forward once before the first lock, else add or omit one tick in any
1,000 (R417); the counter never steps backward (R415), and nothing is corrected for 100 µs after a spare-lane change (R419). -/
def State.correct (s : State) (off : Int) : State :=
  let s := s.ageSync
  if s.fab.holdFrom.isSome then s
  else if !s.fab.locked ∧ !s.fab.jumped ∧ off < -8 then
    { s with gc := s.gc + BitVec.ofNat 64 ((-off) / 2).toNat, fab := { s.fab with jumped := true, stable := none } }
  else if s.fab.adjustAt.isSome then s
  else if off ≤ -2 then { s with gc := s.gc + 1, fab := { s.fab with adjustAt := some s.gc } }
  else if 2 ≤ off then { s with fab := { s.fab with skipTick := true, adjustAt := some s.gc } }
  else s

/-- Judge the lock: locked once the offset has stayed within 4 ns for 1 ms; unlocked when it exceeds 64 ns (R417, R419). -/
def State.judgeLock (s : State) (off : Int) : State :=
  let near := decide (off.natAbs ≤ 8)
  let since := if near then (match s.fab.stable with | some t => some t | none => some s.gc) else none
  let s := { s with fab := { s.fab with offset := off, stable := since } }
  if s.fab.locked then (if 128 < off.natAbs then s.unlock else s)
  else
    match since with
    | some t =>
      if 1000000 ≤ (s.gc - t).toNat then
        let lost := s.fab.lost
        let s := { s with fab := { s.fab with locked := true, jumped := true, lost := false } }
        (if lost then s.postErr 0x0041 0 0 else s).sendReadies
      else s
    | none => s

/-- GC_SYNC_EXCHANGE: a timestamped pair with the time parent (R417): the offset, in half nanoseconds, is the difference
of the two directions' stamps. -/
def execGcSyncExchange (parentSent received sent parentReceived : W64) (s : State) : Host.Outcome State Fault Refusal :=
  .next (if s.isRoot || !(s.port s.parentPort).up || !s.isReady then s
    else
      let off := stampDiff received parentSent - stampDiff parentReceived sent
      (s.judgeLock off).correct off)

end Sys2Proof.Machine
end

