-- ==== Sys2Proof/Machine/Fabric.lean ====
section
/-! DEFINITION. The collective engine at work (12: R363, R367, R374, R375, R381 to R391, R395, R400 to R402): starting,
sending, receiving, delivering, verifying, running again and halting, and the cells. -/

namespace Sys2Proof.Machine

/-! ## The collectives of a step (R374, R385) -/

/-- Address of ring buffer k of an attention descriptor whose shard has `len` bytes (R236). -/
def ringBuf (a : AttP) (len k : Nat) : Nat := a.ringbuf + k % 2 * len

/-- Bytes of a ring shard of a member: every KV head's blocks, keys then values (R236). -/
def State.shardBytes (s : State) (n : Nat) (a : AttP) : Nat :=
  match s.attTable n a with
  | [] => 0
  | x :: _ => a.kvh * ceilDiv x.klen 128 * 2 * 128 * a.hd * (fmtBits a.kvfmt / 8)

/-- The shift of ring step i of an attention descriptor (R236, R392). Its chunks are the largest (log 46). -/
def ringColl (a : AttP) (i len : Nat) : CollP :=
  { op := 5, gid := a.rgroup, red := false, efmt := 0, afmt := 0, chunk := 0x100000, ordinal := a.rord + BitVec.ofNat 32 i,
    src := [ringBuf a len i], srow := len, snrows := 1, sstride := 0, dstride := 0, dst := [ringBuf a len (i + 1)],
    drow := len, dnrows := 1, wframe := a.wframe, wctr := 0, wval := 0, dfirst := 0, dlast := 0, dctr := 0, sctr := 0,
    sen := false, vbase := 0, ven := false, mapaddr := 0, rcvaddr := 0, axis := 4, dist := 1, wrap := true, root := 0 }

/-- The collective list of a region's image (R370). -/
def State.collList (s : State) (n : Nat) : List (List W64) :=
  match (s.region n).image with
  | some im => im.collective
  | none => []

/-- Every collective of a step of region n: its index (1,024 + d for a step of attention descriptor d) and descriptor, and
whether a ring step has been requested (R385). -/
def State.stepColls (s : State) (n : Nat) : List (Nat × CollP × Bool) :=
  ((s.collList n).mapIdx fun i w => (i, collFields w, true)) ++
  ((s.attList n).mapIdx fun d w =>
    let a := attFields w
    if a.ring then
      (List.range (s.ringMembers n a.rgroup).length).map fun i =>
        (1024 + d, ringColl a i (s.shardBytes n a),
         match (s.region n).attRun d with | some run => decide (i < run.ringStep) | none => false)
    else []).flatMap fun x => x

/-- The collective with an ordinal. -/
def State.collAt (s : State) (n : Nat) (o : W32) : Option (Nat × CollP × Bool) :=
  (s.stepColls n).find? fun x => decide (x.2.1.ordinal = o)

/-- A started collective of the step. -/
def Region.coll? (r : Region) (o : W32) : Option Coll := r.colls.find? fun c => decide (c.ordinal = o)

/-- Change a started collective. -/
def Region.modColl (r : Region) (o : W32) (f : Coll → Coll) : Region :=
  { r with colls := r.colls.map fun c => if c.ordinal = o then f c else c }

/-- A started collective with its surroundings. -/
def State.collHere (s : State) (n : Nat) (o : W32) : Option (Coll × CollEnv) :=
  match (s.region n).coll? o, s.collAt n o with
  | some c, some x => ((s.region n).group? c.gid).map fun g => (c, s.collEnv x.2.1 g)
  | _, _ => none

/-! ## Halting a group (R388) -/

/-- The record of a collective fault (R388): frame WFRAME, core 0, context 0, pc the descriptor index × 8; values that no
rule gives for an ordinal of no descriptor are free (log 35). -/
def State.collRecord (s : State) (n : Nat) (o : W32) (code addr : Nat) : BitVec 128 × State :=
  match s.collAt n o with
  | some x => (engineRecord code x.2.1.wframe (x.1 % 1024) addr, s)
  | none =>
    let (v, s) := s.takeFree
    (engineRecord code (fld v 8 0) (fld v 31 16) addr, s)

/-- Halt group gid of region n: its collectives stop, every member is told, the step faults; a ring-attention descriptor of
the group faults with ATT_RING (R237, R388). A region that waits has no step that could fault. `peer` is the peer a detecting member names in its event. -/
def State.haltGroup (s : State) (n gid : Nat) (o : W32) (code addr : Nat) (peer : Option (BitVec 14)) : State :=
  match (s.region n).group? gid with
  | none => s
  | some g =>
    if g.halted then s
    else
      let s := s.modRegion n fun r =>
        { r with colls := r.colls.filter fun c => decide (c.gid ≠ gid) }.modGroup gid fun g => { g with halted := true }
      let s := s.toMembers kindHalt n gid g o 0 [BitVec.ofNat 8 code]
      let s := if (s.region n).run = .waiting then s
        else (s.collRecord n o code addr).2.regionFault n (s.collRecord n o code addr).1
      let rings := (s.region n).att.filter fun x =>
        decide (x.phase = .running) &&
        (let a := attFields ((s.attDesc n x.desc).getD []); a.ring && decide (a.rgroup = gid))
      let s := rings.foldl (fun (s : State) (x : AttRun) =>
        let f := (attFramesOf s.nv ((s.attDesc n x.desc).getD [])).headD 0
        s.engineFault n x.desc f (.other 0x13) 0) s
      match peer with
      | some p => s.postErrFor n 0x0033 (code + 2 ^ 8 * gid + 2 ^ 32 * o.toNat) p.toNat
      | none => s

/-! ## Sending (R381, R386) -/

/-- Fold start ticks into a collective's observed set: earliest, and latest with its member, ties to the lower position
(R400). -/
def Coll.fold (c : Coll) (mods : List (BitVec 14)) (early late : W64) (who : BitVec 14) : Coll :=
  let c := { c with earliest := if early.toNat < c.earliest.toNat then early else c.earliest }
  if c.latest.toNat < late.toNat ∨ (c.latest = late ∧ mods.idxOf who < mods.idxOf c.latestMember) then
    { c with latest := late, latestMember := who }
  else c

/-- Send one chunk of a collective over a port and note it. -/
def State.sendChunk (s : State) (n : Nat) (c : Coll) (v : CollEnv) (port : Nat) (x : Send) : State :=
  let m : ChunkMsg := {
    gid := BitVec.ofNat 12 c.gid, rid := BitVec.ofNat 2 n, ordinal := c.ordinal,
    attempt := BitVec.ofNat 2 c.attempt, sender := v.self, role := x.role, bytes := x.bytes }
  (s.emit (.chunk port x.dest m)).modRegion n fun r => r.modColl c.ordinal fun c => { c with
    sent := c.sent ++ [{ dest := x.dest, code := roleCode x.role, crc := crc32c x.bytes, deps := x.deps }] }

/-- Send chunks not sent yet whose neighbour on the way has granted the ordinal (R368, R386); `strict` messages wait for those before
them. -/
def sendEach (n : Nat) (o : W32) (strict : Bool) : State → List Send → State
  | s, [] => s
  | s, x :: rest =>
    match s.collHere n o with
    | none => s
    | some (c, v) =>
      if c.sent.any fun y => decide (y.dest = x.dest) && decide (y.code = roleCode x.role) then sendEach n o strict s rest
      else
        match (s.hop (s.ways v.g) x.dest).filter fun h => c.granted.contains h.2 with
        | some h => sendEach n o strict (s.sendChunk n c v h.1 x) rest
        | none => if strict then s else sendEach n o strict s rest

/-- Send every chunk that can be formed and that may go (R386, R394). -/
def State.sendChunks (s : State) (n : Nat) (o : W32) : State :=
  match s.collHere n o with
  | none => s
  | some (c, v) => sendEach n o v.inRounds s (v.sends c)

/-- The collective with the ticks of a chunk of it: the member's own start tick and those of the chunks it was formed from (R400). -/
def Coll.ticksOf (c : Coll) (v : CollEnv) (deps : List (BitVec 14 × Nat)) : Coll :=
  (c.recv.filter fun r => deps.any fun d => decide (r.sender = d.1) && decide (r.code = d.2)).foldl
    (fun (c : Coll) r => match r.ticks with | some t => c.fold v.mods t.1 t.2.1 t.2.2 | none => c)
    { c with earliest := c.startTick, latest := c.startTick, latestMember := v.self }

/-- Send the token of every chunk whose consumed chunks have been checked (R381, R400). -/
def State.sendTokens (s : State) (n : Nat) (o : W32) : State :=
  match s.collHere n o with
  | none => s
  | some (c, v) =>
    let s := c.sent.foldl (fun (s : State) (x : Sent) =>
      match x.token, c.verdict x.deps with
      | false, some clean =>
        let k := c.ticksOf v x.deps
        let t : TokenMsg := {
          gid := BitVec.ofNat 12 c.gid, rid := BitVec.ofNat 2 n, ordinal := o,
          attempt := BitVec.ofNat 2 c.attempt, sender := v.self, chunk := x.code, crc := x.crc, clean := clean,
          earliest := k.earliest, latest := k.latest, latestMember := k.latestMember }
        s.sendVia (s.ways v.g) x.dest fun p => .token p x.dest t
      | _, _ => s) s
    s.modRegion n fun r => r.modColl o fun c => { c with
      sent := c.sent.map fun x => if (c.verdict x.deps).isSome then { x with token := true } else x }

/-- A chunk or token as it leaves on a port. -/
def Bulk.out (b : Bulk) (port : Nat) (dest : BitVec 14) : Out :=
  match b with
  | .chunk c => .chunk port dest c
  | .token t => .token port dest t

/-- Pass on what is for other modules, in its order, as far as the next neighbour has granted the ordinal (R368, R386). -/
def State.passOn (s : State) (n : Nat) (o : W32) : State :=
  match s.collHere n o with
  | none => s
  | some (c, v) =>
    let open' := fun (x : BitVec 14 × Bulk) => match s.hop (s.ways v.g) x.1 with
      | some h => c.granted.contains h.2
      | none => true
    let s := (c.transit.filter open').foldl (fun (s : State) x => s.sendVia (s.ways v.g) x.1 fun p => x.2.out p x.1) s
    s.modRegion n fun r => r.modColl o fun c => { c with transit := c.transit.filter fun x => !open' x }

/-! ## The staging store (R386) -/

/-- Bytes of the collective engine's staging store. -/
def stagingSize : Nat := 16 * 2 ^ 20

/-- Bytes of it that are reserved: two chunks for each stream granted of a collective that is not complete. -/
def State.stagingUsed (s : State) : Nat :=
  ((List.range 4).flatMap fun n => (s.region n).colls.map fun c => if c.done then 0 else c.streams.length * (2 * c.chunk)).foldl (· + ·) 0

/-- Grant a neighbour whose REQUEST waits, where two chunks can be reserved for its stream (R386, log 170). -/
def State.giveGrant (n : Nat) (o : W32) (s : State) (m : BitVec 14) : State :=
  match s.collHere n o, (s.region n).coll? o with
  | some (c, _), some k =>
    (match (s.region n).group? k.gid with
     | some g =>
       if stagingSize < s.stagingUsed + 2 * c.chunk then s
       else
         (s.modRegion n fun r => r.modColl o fun c => { c with owed := c.owed.filter (· ≠ m), streams := c.streams ++ [m] }).sendCell
           kindGrant m (s.cellOf n k.gid g s.self o k.attempt [])
     | none => s)
  | _, _ => s

/-- Grant whatever REQUESTs wait and now find room, in order of region, of start and of arrival. -/
def State.giveGrants (s : State) : State :=
  (List.range 4).foldl (fun (s : State) n => (s.region n).colls.foldl (fun (s : State) c =>
    c.owed.foldl (State.giveGrant n c.ordinal) s) s) s

/-! ## Delivery and verify slots (R382 to R384) -/

/-- The writes of chunk k of a half's destination. -/
def CollEnv.chunkWrites (v : CollEnv) (h k : Nat) (bs : List Byte) : List (Nat × List Byte) :=
  destWrites (v.p.dst.getD h 0) v.p.drow v.p.dstride (v.p.dnrows + 1) (k * v.p.chunk) bs

/-- The verify slot of a chunk (R382). -/
def CollEnv.slotOf (v : CollEnv) (k : Nat) : Nat := (v.p.vbase + k) % 128

/-- Set a verify slot. A chunk that arrives for the first time, and not again, finds the slot IDLE or GOOD (R177, R383). -/
def State.setSlot (s : State) (f k : Nat) (x : VState) : State :=
  s.modFrame f fun fr =>
    let fresh := decide (x = .pending) && (decide (fr.vslot k = .idle) || decide (fr.vslot k = .good))
    { fr with vslots := smSet .idle fr.vslots k x, slotSince := if fresh then smSet 0 fr.slotSince k s.stamp else fr.slotSince,
              redo := if x = .bad ∧ !fr.redo.contains k then fr.redo ++ [k] else fr.redo }

/-- Write chunk k of a half, if its bytes are known and nothing delays it (R382, R384, R390). DESIGN CHOICE: SCTR counts a chunk again that
a new attempt delivers again (log 222). -/
def State.deliverChunk (s : State) (n : Nat) (o : W32) (h k : Nat) : State :=
  match s.collHere n o with
  | none => s
  | some (c, v) =>
    let id := 2 * k + h
    if c.written.contains id then s
    else
      match v.chunkOf c h k with
      | none => s
      | some (bs, _) =>
        let ws := v.chunkWrites h k bs
        let fs := framesOfWrites ws
        let slots := v.p.ven && !fs.isEmpty
        let mark := fun (s : State) => s.modRegion n fun r => r.modColl o fun c => { c with
          written := c.written ++ [id], touched := if c.touched.contains id then c.touched else c.touched ++ [id] }
        if slots && c.verified.contains id then mark s
        else if (slots && !(c.touched.contains id) && fs.any fun f =>
              decide ((s.frame f).vslot (v.slotOf k) = .pending) || decide ((s.frame f).vslot (v.slotOf k) = .bad)) ||
            s.writeHeld s.stamp ws then s
        else
          let s := if slots then fs.foldl (fun (s : State) f => s.setSlot f (v.slotOf k) .pending) s else s
          let s := mark (s.writeMem n ws)
          if v.p.sen then fs.foldl (fun (s : State) f => s.addSignal f v.p.sctr 1) s else s

/-- Give a written chunk its verdict: its slots become BAD at the first chunk it came in that fails its check, and GOOD once every one
has passed (R383). -/
def State.settleChunk (s : State) (n : Nat) (o : W32) (h k : Nat) : State :=
  match s.collHere n o with
  | none => s
  | some (c, v) =>
    let id := 2 * k + h
    match v.chunkOf c h k with
    | none => s
    | some (bs, deps) =>
      let fs := framesOfWrites (v.chunkWrites h k bs)
      match c.written.contains id && !c.verified.contains id, c.judged deps with
      | true, some good =>
        let s := if good then s.modRegion n fun r => r.modColl o fun c => { c with verified := c.verified ++ [id] } else s
        if v.p.ven then
          fs.foldl (fun (s : State) f =>
            if (s.frame f).vslot (v.slotOf k) = .pending then
              let s := s.setSlot f (v.slotOf k) (if good then .good else .bad)
              if good then (s.releaseHeld f).wakeFrame f else s
            else s) s
        else s
      | _, _ => s

/-- Send the DATA cells of a drizzle collective: one from each of the module's members to every member of another module, in position
order (R397, log 169). -/
def State.sendData (s : State) (n : Nat) (o : W32) : State :=
  match s.collHere n o with
  | none => s
  | some (c, v) =>
    (match (s.region n).group? c.gid with
     | none => s
     | some g =>
       v.halves.foldl (fun (s : State) h => (v.mems.filter fun m => decide (moduleOf m ≠ v.self)).foldl (fun (s : State) m =>
         s.sendCell kindData m (s.cellOf n c.gid g (v.self ||| BitVec.ofNat 14 h) o c.attempt (v.cellFor c h m))) s) s)

/-- The received counts of an ALLTOALLV, once all are known: written to RCVADDR; a total above the destination faults before any
data is written (R395). -/
def State.deliverCounts (s : State) (n : Nat) (o : W32) : State :=
  match s.collHere n o with
  | none => s
  | some (c, v) =>
    let all := v.halves.map fun h => v.counts c h
    if v.p.op ≠ 8 ∨ c.counted ∨ all.any Option.isNone then s
    else
      let xs := all.filterMap fun x => x
      let s := s.writeMem n (xs.map fun x => (v.p.rcvaddr, x.flatMap fun y => leBytes 4 y))
      let s := s.modRegion n fun r => r.modColl o fun c => { c with counted := true }
      if xs.any fun x => decide (v.p.drow * v.p.dnrows < x.foldl (· + ·) 0) then
        s.haltGroup n c.gid o 0x1A 0 (some v.self)
      else if c.drizzle then s.sendData n o else s

/-- Deliver and settle whatever a collective can. -/
def State.deliverColl (s : State) (n : Nat) (o : W32) : State :=
  match s.collHere n o with
  | none => s
  | some (c, v) =>
    if v.p.op = 8 ∧ !c.counted then s
    else
      v.halves.foldl (fun (s : State) h => (List.range ((v.chunkCount c h).getD 0)).foldl
        (fun (s : State) k => (s.deliverChunk n o h k).settleChunk n o h k) s) s

/-- Let every collective of a region send, deliver and settle what it can, in ordinal order of starting. -/
def State.pump (s : State) (n : Nat) : State :=
  ((s.region n).colls.map (·.ordinal)).foldl (fun (s : State) o =>
    (((((s.deliverCounts n o).sendChunks n o).sendTokens n o).passOn n o).deliverColl n o)) s

/-! ## Attempts (R389 to R391) -/

/-- Send the cells of a new attempt: REQUEST to every other member, and the contributions of a drizzle collective (R386,
R397, R400, log 47). -/
def State.announce (s : State) (n : Nat) (o : W32) : State :=
  match (s.region n).coll? o with
  | none => s
  | some c =>
    match (s.region n).group? c.gid with
    | none => s
    | some g =>
      let s := s.toMembers kindRequest n c.gid g o c.attempt (leBytes 8 c.startTick.toNat)
      match s.collAt n o with
      | some x => if c.drizzle ∧ x.2.1.op ≠ 8 then s.sendData n o else s
      | none => s

/-- Run a collective again from its start as attempt a (R390). A second run again within a step re-checks the set-ups
(R305, R391). -/
def State.startAttempt (s : State) (n : Nat) (o : W32) (a : Nat) : State :=
  match (s.region n).coll? o with
  | none => s
  | some c =>
    let s := s.modRegion n fun r => { (r.modColl o fun c => { c with
      attempt := a, granted := [], asked := [], recv := [], sent := [], cells := [], written := [], done := false, counted := false,
      streams := [], owed := [], transit := [],
      earliest := c.startTick, latest := c.startTick, latestMember := s.self }) with reruns := r.reruns + 1 }
    let s := s.postErrFor n 0x0032 (c.gid + 2 ^ 32 * o.toNat) a
    let s := if c.attempt < 2 ∧ 2 ≤ a then s.recheckAll else s
    (s.announce n o).giveGrants

/-- A chunk differs from its token: attempt a + 1 begins, or the group halts after attempt 3 (R389, R391). -/
def State.mismatch (s : State) (n : Nat) (o : W32) (peer : BitVec 14) : State :=
  match (s.region n).coll? o with
  | none => s
  | some c =>
    if 3 ≤ c.attempt then s.haltGroup n c.gid o 0x18 0 (some peer)
    else
      match (s.region n).group? c.gid with
      | none => s
      | some g => (s.toMembers kindRerun n c.gid g o (c.attempt + 1) []).startAttempt n o (c.attempt + 1)

/-! ## Cells (R363, R367, R387, R396) -/

/-- Hold a cell until its ordinal, or its attempt, starts (R386, R387). -/
def State.holdCell (s : State) (n kind : Nat) (dest : BitVec 14) (c : Cell) : State :=
  s.modRegion n fun r => { r with heldCells := r.heldCells ++ [{ kind := kind, dest := dest, cell := c }] }

/-- The cell's epoch is older than the region's step (R387). -/
def cellOlder (c : Cell) (now : BitVec 16) : Bool := decide (0 < (now - c.epoch).toNat) && decide ((now - c.epoch).toNat < 2 ^ 15)

/-- The region's step epoch (Table 12-7). -/
def Region.epoch (r : Region) : BitVec 16 := r.stepNo.setWidth 16

/-- Act on a cell for a member of this module, of a started collective of its group and attempt (R386, R389, R397). -/
def State.useCell (s : State) (n kind : Nat) (dest : BitVec 14) (x : Cell) (c : Coll) : State :=
  match (s.region n).group? c.gid with
  | none => s
  | some g =>
    let o := c.ordinal
    if kind = kindRerun then
      if x.attempt.toNat ≤ c.attempt then s else s.startAttempt n o x.attempt.toNat
    else if x.attempt.toNat < c.attempt then s
    else if c.attempt < x.attempt.toNat then s.holdCell n kind dest x
    else if kind = kindRequest then
      let tick : W64 := BitVec.ofNat 64 (leNat (x.payload.take 8))
      let m := moduleOf x.sender
      let s := s.modRegion n fun r => r.modColl o fun c => { c with asked := c.asked ++ [(x.sender, tick)] }
      if s.isNeighbour m && !c.drizzle then
        (s.modRegion n fun r => r.modColl o fun c => { c with owed := c.owed ++ [m] }).giveGrants
      else s.sendCell kindGrant m (s.cellOf n c.gid g s.self o c.attempt [])
    else if kind = kindGrant then
      (s.modRegion n fun r => r.modColl o fun c => { c with granted := c.granted ++ [moduleOf x.sender] }).pump n
    else if kind = kindData then
      if c.drizzle then
        (s.modRegion n fun r => r.modColl o fun c => { c with
          cells := if c.cells.any (fun y => decide (y.1 = x.sender) && decide (y.2.1 = fld dest 0 0)) then c.cells
                   else c.cells ++ [(x.sender, fld dest 0 0, x.payload.take x.len.toNat)] }).pump n
      else s
    else s

/-- Judge a REQUEST, DATA, GRANT or RERUN cell of a group that is set (R367, R387). A halted group still holds a cell of an ordinal
above all that have started: the ordinal starts in the step that lifts the halt (R388). -/
def State.judgeCell (s : State) (n kind : Nat) (dest : BitVec 14) (x : Cell) : State :=
  let gid := x.gid.toNat
  let r := s.region n
  match r.group? gid with
  | none => s
  | some g =>
    let below := r.started.any fun o => decide (x.ordinal.toNat < o.toNat)
    if g.halted then
      if r.started.contains x.ordinal || below || decide (kind = kindGrant) then s else s.holdCell n kind dest x
    else if r.started.contains x.ordinal then
      match r.coll? x.ordinal with
      | some c =>
        if c.gid = gid ∧ x.epoch = r.epoch then
          if (kind = kindRequest ∨ kind = kindData) ∧ x.gcrc ≠ g.crc then
            s.haltGroup n gid x.ordinal 0x17 0 (some x.sender)
          else s.useCell n kind dest x c
        else if cellOlder x r.epoch then s
        else s.haltGroup n gid x.ordinal 0x17 0 (some x.sender)
      | none => if cellOlder x r.epoch then s else s.haltGroup n gid x.ordinal 0x17 0 (some x.sender)
    else if kind = kindGrant then s
    else if below then
      s.haltGroup n gid x.ordinal 0x15 0 (some x.sender)
    else s.holdCell n kind dest x

/-- The attempt of a started collective. -/
def State.attemptOf (s : State) (n : Nat) (o : W32) : Option Nat := ((s.region n).coll? o).map (·.attempt)

/-- Judge the cells that were held for an ordinal once more, in order of arrival. -/
def State.replayOnce (s : State) (n : Nat) (o : W32) : State :=
  let held := (s.region n).heldCells.filter fun (x : HeldCell) => decide (x.cell.ordinal = o)
  let s := s.modRegion n fun r => { r with heldCells := r.heldCells.filter fun (x : HeldCell) => decide (x.cell.ordinal ≠ o) }
  held.foldl (fun (s : State) (x : HeldCell) => s.judgeCell n x.kind x.dest x.cell) s

/-- Take up the cells that were held for an ordinal, and again where that begins an attempt for which one is still held. -/
def State.replayFrom (n : Nat) (o : W32) : Nat → State → State
  | 0, s => s
  | k + 1, s =>
    let t := s.replayOnce n o
    if t.attemptOf n o = s.attemptOf n o then t else t.replayFrom n o k

/-- Take up the cells that were held for an ordinal, of whose attempts there are four (R387, R391). -/
def State.replayCells (s : State) (n : Nat) (o : W32) : State := s.replayFrom n o 4

/-- A link port is up, so that something can come over it. -/
def State.overPort (s : State) (port : Nat) (f : State → State) : State :=
  if s.isReady && (s.port port).up then f s.wakeUp else s

/-- A cell arrives (R363, R368): one for another module is passed on, one for a region that is not there or a group that
is not set is discarded with FAB_EDGE. -/
def State.cellArrives (s : State) (port kind : Nat) (dest : BitVec 14) (c : Cell) (f : Nat → State → State) :
    Host.Outcome State Fault Refusal :=
  .next (s.overPort port fun s =>
    let n := c.rid.toNat
    if moduleOf dest ≠ s.self then s.sendCell kind dest c
    else if (s.region n).live ∧ ((s.region n).group? c.gid.toNat).isSome then f n s
    else s.postErrFor n 0x0031 (n + 2 ^ 8 * c.gid.toNat) c.sender.toNat)

/-- Judge a cell, then take up cells that were held for a new attempt. -/
def State.judgeAndReplay (s : State) (n kind : Nat) (dest : BitVec 14) (c : Cell) : State :=
  let before := s.attemptOf n c.ordinal
  let s := s.judgeCell n kind dest c
  if before.isSome ∧ s.attemptOf n c.ordinal ≠ before then s.replayCells n c.ordinal else s

/-- DATA_CELL: a drizzle contribution (R397). -/
def execDataCell (port : Fin 12) (dest : BitVec 14) (c : Cell) (s : State) : Host.Outcome State Fault Refusal :=
  s.cellArrives port.val kindData dest c fun n s => s.judgeAndReplay n kindData dest c

/-- REQUEST_CELL: granted, held or judged (R386, R387). -/
def execRequestCell (port : Fin 12) (dest : BitVec 14) (c : Cell) (s : State) : Host.Outcome State Fault Refusal :=
  s.cellArrives port.val kindRequest dest c fun n s => s.judgeAndReplay n kindRequest dest c

/-- GRANT: bulk data for the ordinal may go to the sender (R386). -/
def execGrant (port : Fin 12) (dest : BitVec 14) (c : Cell) (s : State) : Host.Outcome State Fault Refusal :=
  s.cellArrives port.val kindGrant dest c fun n s => s.judgeAndReplay n kindGrant dest c

/-- RERUN: a new attempt begins, unless it is no higher than the member's own (R389, R390). -/
def execRerun (port : Fin 12) (dest : BitVec 14) (c : Cell) (s : State) : Host.Outcome State Fault Refusal :=
  s.cellArrives port.val kindRerun dest c fun n s => s.judgeAndReplay n kindRerun dest c

/-- HALT_CELL: the group halts here too, with GROUP_HALTED (R388); a cell of an older epoch is discarded (R387, log 90). -/
def execHaltCell (port : Fin 12) (dest : BitVec 14) (c : Cell) (s : State) : Host.Outcome State Fault Refusal :=
  s.cellArrives port.val kindHalt dest c fun n s =>
    if cellOlder c (s.region n).epoch then s else s.haltGroup n c.gid.toNat c.ordinal 0x16 0 none

/-- READY: a member's ready tick for the launch agreement (R290, R399). -/
def execReady (port : Fin 12) (dest : BitVec 14) (c : Cell) (s : State) : Host.Outcome State Fault Refusal :=
  s.cellArrives port.val kindReady dest c fun n s => s.modRegion n fun r =>
    { r with readies := (r.readies.filter fun x => decide (x.1 ≠ c.sender)) ++
      [(c.sender, BitVec.ofNat 64 (leNat (c.payload.take 8)))] }

/-- NOTICE: a prefix notice is held for the next boundary (R274); its payload is laid out as in log 43. -/
def execNotice (port : Fin 12) (dest : BitVec 14) (c : Cell) (s : State) : Host.Outcome State Fault Refusal :=
  s.cellArrives port.val kindNotice dest c fun n s => s.modRegion n fun r =>
    let p := c.payload
    { r with peerNotes := r.peerNotes ++ [(decide ((p.getD 12 0) ≠ 0), BitVec.ofNat 64 (leNat (p.take 8)),
      leNat ((p.drop 8).take 2), leNat ((p.drop 10).take 2), c.sender)] }

/-! ## Starting (R374, R385) -/

/-- The lowest ordinal of the step that has not started (R385). -/
def State.nextColl (s : State) (n : Nat) : Option (Nat × CollP × Bool) :=
  ((s.stepColls n).filter fun x => !(s.region n).started.contains x.2.1.ordinal).foldl
    (fun best x => match best with
      | none => some x
      | some y => if x.2.1.ordinal.toNat < y.2.1.ordinal.toNat then some x else best) none

/-- Whether a collective may start: its condition holds, fewer than eight are in flight, its group is set and not halted
(R385, R388). -/
def State.collMayStart (s : State) (n : Nat) (x : Nat × CollP × Bool) : Bool :=
  let r := s.region n
  decide (r.run = .stepping) && x.2.2 && decide (x.2.1.wval ≤ ((s.frame x.2.1.wframe).counter x.2.1.wctr).toNat) &&
  decide ((r.colls.filter fun c => !c.done).length < 8) &&
  (match r.group? x.2.1.gid with | some g => !g.halted | none => false)

/-- The lengths do not agree, or do not fit (R374, R393 to R395). -/
def CollEnv.badSize (v : CollEnv) (c : Coll) (lengths : List Nat) : Bool :=
  lengths.any (· ≠ c.length) ||
  (v.halves.any fun h => match v.extent c h with
    | some x => decide (v.p.op ≠ 8) && decide (v.p.drow * v.p.dnrows < x.2)
    | none => false) ||
  (v.p.reduces && decide (c.length % (fmtBits v.p.efmt / 8) ≠ 0)) ||
  (decide (v.p.op = 6) && !((List.range v.n).all fun i => c.map.contains i)) ||
  (decide (v.p.op = 7) && decide (c.length % v.n ≠ 0)) ||
  (decide (v.p.op = 8) && decide (c.length < c.map.foldl (· + ·) 0))

/-- A group's stages need a port that has gone down for want of lanes (R493). -/
def State.needsDownPort (s : State) (g : GroupD) : Bool :=
  (s.modules g).any fun m => decide (m ≠ s.self) && decide (lanesLeft (s.port (s.nextHop (s.ways g) m)).bad = 0)

/-- Start a collective that may start: check it, read its contribution, and announce it (R374, R386, R402). `lengths` are
the contribution lengths that the other members report. -/
def State.startColl (s : State) (n : Nat) (x : Nat × CollP × Bool) (lengths : List Nat) : State :=
  let p := x.2.1
  match (s.region n).group? p.gid with
  | none => s
  | some g =>
    let v := s.collEnv p g
    let len := p.length
    let s := s.modRegion n fun r => { r with started := r.started ++ [p.ordinal] }
    let halves := v.halves
    let mapSize := if p.op = 6 then 2 else if p.op = 8 then 4 else 0
    let reads := if p.op = 4 then [] else
      (halves.flatMap fun h => rowRanges (p.src.getD h 0) p.srow p.snrows p.sstride) ++ [(p.mapaddr, mapSize * v.n)]
    let writes := if p.op = 4 then [] else
      (halves.flatMap fun h => rowRanges (p.dst.getD h 0) p.drow p.dnrows p.dstride) ++
      (if p.op = 8 then [(p.rcvaddr, 4 * v.n)] else [])
    if s.needsDownPort g.d then s.haltGroup n p.gid p.ordinal 0x16 0 (some s.self) else
    match (s.rangeFault n writes).or (s.readFault n reads) with
    | some (code, addr) => s.haltGroup n p.gid p.ordinal code.num addr (some s.self)
    | none =>
      let look := s.lookUnit n
      let s := { s with freeCtr := look.freeCtr }
      let own := halves.map fun h =>
        if p.op = 4 then [] else (rowRanges (p.src.getD h 0) p.srow p.snrows p.sstride).flatMap fun y => readBytes look.mem y.1 y.2
      let map := (List.range (if mapSize = 0 then 0 else v.n)).map fun i => readLe look.mem (p.mapaddr + mapSize * i) mapSize
      let drizzle := g.d.drizzle && decide (len ≤ 48) && !([5, 6, 7].contains p.op)
      let c : Coll := { ordinal := p.ordinal, desc := x.1, gid := p.gid, length := len, own := own, drizzle := drizzle, chunk := p.chunk,
                        map := map, startTick := s.gc, earliest := s.gc, latest := s.gc, latestMember := s.self }
      if v.badSize c lengths then s.haltGroup n p.gid p.ordinal 0x19 0 (some s.self)
      else
        let s := s.modRegion n fun r => { r with colls := r.colls ++ [c] }
        ((s.announce n p.ordinal).replayCells n p.ordinal).pump n

/-- COLLECTIVE_START: the engine starts the lowest ordinal not started, if it may start (R385). -/
def execCollectiveStart (rid : Fin 4) (lengths : List Nat) (s : State) : Host.Outcome State Fault Refusal :=
  .next (match s.nextColl rid.val with
    | none => s
    | some x => if s.collMayStart rid.val x then s.startColl rid.val x lengths else s)

/-! ## Completion (R374, R400, R401) -/

/-- The bin of a skew in ticks (R401). -/
def skewBin (t : Nat) : Nat :=
  if t < 250 then 0 else if t < 500 then 1 else if t < 1000 then 2 else if t < 2000 then 3 else if t < 4000 then 4
  else if t < 16000 then 5 else if t < 64000 then 6 else 7

/-- Whether every other member has started a collective, as far as its cells tell. -/
def CollEnv.allAsked (v : CollEnv) (c : Coll) : Bool := (v.mods.filter (· ≠ v.self)).all fun m => c.asked.any fun x => decide (x.1 = m)

/-- A collective is complete at this member: everything it sends is sent, with its tokens, and all of its destination is
written and verified, and nothing waits to be passed on; a BARRIER once every member has started (Table 12-6, R374). -/
def CollEnv.complete (v : CollEnv) (c : Coll) : Bool :=
  (if v.p.op = 4 ∧ c.drizzle then v.halves.all fun h => v.cellsHere c h
   else decide (v.p.op ≠ 4) || v.allAsked c) &&
  (v.sends c).all (fun x => c.sent.any fun y => decide (y.dest = x.dest) && decide (y.code = roleCode x.role) && y.token) &&
  v.halves.all (fun h => match v.chunkCount c h with
    | none => false
    | some k => (List.range k).all fun i => c.written.contains (2 * i + h) && c.verified.contains (2 * i + h)) &&
  (decide (v.p.op ≠ 8) || c.counted) && c.transit.isEmpty

/-- Members whose REQUEST tick belongs to the observed set: those whose data reach the member on a path without tokens
(R400). -/
def CollEnv.observed (v : CollEnv) (c : Coll) : List (BitVec 14 × W64) :=
  if v.p.op = 4 ∨ c.drizzle then
    c.asked.filter fun x => decide (v.p.op ≠ 3) || decide (x.1 = moduleOf (v.mems.getD v.p.root 0))
  else []

/-- Complete a collective: the signal, the skew counters and the laggard record, and the arrival of a ring shard (R374,
R236, R401). -/
def State.finishColl (s : State) (n : Nat) (c : Coll) (v : CollEnv) : State :=
  let c := (v.observed c).foldl (fun (c : Coll) x => c.fold v.mods x.2 x.2 x.1) c
  let s := s.modRegion n fun r => r.modColl c.ordinal fun _ => { c with done := true, signalled := true }
  let skew := c.startTick.toNat - c.earliest.toNat
  let s := s.modRegion n fun r => r.modGroup c.gid fun g => { g with
    skew := smSet 0 g.skew (skewBin skew) (satAdd (smGet 0 g.skew (skewBin skew)) 1),
    lagOrdinal := c.ordinal, lagMember := c.latestMember, lagSkew := c.latest.toNat - c.earliest.toNat, lagValid := true }
  let s := s.giveGrants
  if 1024 ≤ c.desc then
    s.modRegion n fun r => { r with att := r.att.map fun x =>
      if x.desc = c.desc - 1024 then
        { x with ringGot := x.ringGot ++ [(c.ordinal - (attFields ((s.attDesc n x.desc).getD [])).rord).toNat + 1] }
      else x }
  else if c.signalled then s
  else (rectFrames s.nv v.p.dfirst v.p.dlast).foldl (fun (s : State) f => s.addSignal f v.p.dctr 1) s

/-- COLLECTIVE_DONE: the collective of an ordinal completes at this member, if it is complete. -/
def execCollectiveDone (rid : Fin 4) (ordinal : W32) (s : State) : Host.Outcome State Fault Refusal :=
  let n := rid.val
  let s := if (s.region n).run = .waiting then s else s.pump n
  .next (match s.collHere n ordinal with
    | none => s
    | some (c, v) => if !c.done && v.complete c then s.finishColl n c v else s)

/-! ## Chunks and tokens -/

/-- Something of the bulk lane for another module: it waits until the next neighbour has granted the ordinal; of an attempt that is
over it is discarded (R368, R386, R390). -/
def State.takeTransit (s : State) (n gid : Nat) (o : W32) (attempt : Nat) (dest : BitVec 14) (b : Bulk) : State :=
  match (s.region n).coll? o with
  | none => s.sendVia (s.waysOf n gid) dest fun k => b.out k dest
  | some k =>
    if k.gid ≠ gid ∨ k.attempt ≠ attempt then s
    else (s.modRegion n fun r => r.modColl o fun k => { k with transit := k.transit ++ [(dest, b)] }).passOn n o

/-- CHUNK: a bulk chunk arrives: passed on when it is for another module (R368), discarded with FAB_EDGE when its region or
group is not here (R363), else reduced, forwarded or written (R379, R381, R382). Chunks of an attempt that is over are
discarded (R390). -/
def execChunk (port : Fin 12) (dest : BitVec 14) (c : ChunkMsg) (s : State) : Host.Outcome State Fault Refusal :=
  .next (s.overPort port.val fun s =>
    let n := c.rid.toNat
    if dest ≠ s.self then s.takeTransit n c.gid.toNat c.ordinal c.attempt.toNat dest (.chunk c)
    else if !(s.region n).live || ((s.region n).group? c.gid.toNat).isNone then
      s.postErrFor n 0x0031 (n + 2 ^ 8 * c.gid.toNat) c.sender.toNat
    else
      match (s.region n).coll? c.ordinal with
      | none => s
      | some k =>
        if k.gid ≠ c.gid.toNat ∨ k.attempt ≠ c.attempt.toNat ∨ (k.got c.sender c.role).isSome then s
        else
          (s.modRegion n fun r => r.modColl c.ordinal fun k => { k with
            recv := k.recv ++ [{ sender := c.sender, code := roleCode c.role, role := c.role, bytes := c.bytes,
                                 crc := crc32c c.bytes }] }).pump n)

/-- VERIFY_TOKEN: the token of a chunk: its ticks are folded in, its verdict goes to what was formed from the chunk, and a
CRC that differs starts a new attempt (R381, R383, R389, R400). -/
def execVerifyToken (port : Fin 12) (dest : BitVec 14) (t : TokenMsg) (s : State) : Host.Outcome State Fault Refusal :=
  .next (s.overPort port.val fun s =>
    let n := t.rid.toNat
    if dest ≠ s.self then s.takeTransit n t.gid.toNat t.ordinal t.attempt.toNat dest (.token t)
    else
      match s.collHere n t.ordinal with
      | none => s
      | some (k, v) =>
        match k.recv.find? fun r => decide (r.sender = t.sender) && decide (r.code = t.chunk) && decide (r.verdict = none) with
        | none => s
        | some r =>
          if k.gid ≠ t.gid.toNat ∨ k.attempt ≠ t.attempt.toNat then s
          else
            let same := decide (r.crc = t.crc)
            let s := s.modRegion n fun x => x.modColl t.ordinal fun k =>
              { (k.fold v.mods t.earliest t.latest t.latestMember) with
                recv := k.recv.map fun y =>
                  if y.sender = r.sender ∧ y.code = r.code then
                  { y with verdict := some (same && t.clean), ticks := some (t.earliest, t.latest, t.latestMember) } else y }
            let s := s.pump n
            if same then s else (s.mismatch n t.ordinal r.sender).replayCells n t.ordinal)

/-- Every collective of a region's step has completed at this module (R375). -/
def State.collsDone (s : State) (n : Nat) : Bool :=
  (s.stepColls n).all fun x => match (s.region n).coll? x.2.1.ordinal with
    | some c => c.done
    | none => false

end Sys2Proof.Machine
end

