-- ==== Sys2Proof/Machine/Handoff.lean ====
section
/-! DEFINITION. Handoff to the decode partner (11: R335 to R354): connections and session, layer batches, acknowledgements,
the handoff token and REVOKEs. -/

namespace Sys2Proof.Machine

/-! ## The pairing record (Table 11-2) -/

/-- Word k of the pairing record; 0 while no partner is paired. -/
def State.pairWord (s : State) (k : Nat) : W64 := wordAt (s.ho.pairing.getD []) k

/-- Port p is in use. -/
def State.portEnabled (s : State) (p : Nat) : Bool := s.ho.pairing.isSome && bitAt (s.pairWord 0) p

/-- The session is UP: every opened connection is connected (R338). -/
def State.connected (s : State) : Bool :=
  s.ho.pairing.isSome && [0, 1].all fun p => !s.portEnabled p || decide ((s.hoPort p).conn = .connected)

/-- The port that carries a layer of a region (R346); none when its only port is not enabled. -/
def State.layerPort (s : State) (n l : Nat) : Option Nat :=
  let r := s.region n
  let west := r.holdsUnit 2 0 || r.holdsUnit 2 1
  let east := r.holdsUnit 3 0 || r.holdsUnit 3 1
  let e0 := s.portEnabled 0
  let e1 := s.portEnabled 1
  if west && east then
    if e0 && e1 then some (l % 2) else if e0 then some 0 else if e1 then some 1 else none
  else if west then (if e0 then some 0 else none)
  else if east then (if e1 then some 1 else none)
  else none

/-! ## Layout descriptors (Table 11-3) -/

/-- The fields of a layout descriptor. -/
structure Layout where
  base : Nat
  length : Nat
  rkey : W32
  slotsize : Nat
  dfmt : Nat
  dpp : Nat
  horder : Bool
  lorder : Bool
  rotk : Bool
  rotpair : Bool
  vskip : Bool
  ovm : Bool
  rid : Nat
  dpstride : Nat
  thaddr : Nat
deriving DecidableEq, Repr

/-- Read the fields out of the eight words. -/
def layoutFields (w : List W64) : Layout :=
  let g := fun k hi lo => fld (wordAt w k) hi lo
  { base := g 0 63 0, length := g 1 63 0, rkey := BitVec.ofNat 32 (g 2 31 0), slotsize := g 3 39 0, dfmt := g 4 4 0,
    dpp := 16 * 2 ^ g 4 7 5, horder := bitAt (wordAt w 4) 8, lorder := bitAt (wordAt w 4) 9, rotk := bitAt (wordAt w 4) 10,
    rotpair := bitAt (wordAt w 4) 11, vskip := bitAt (wordAt w 4) 12, ovm := bitAt (wordAt w 4) 13, rid := g 4 15 14,
    dpstride := g 4 47 16, thaddr := g 5 47 0 }

/-- Layout descriptor k, if it has been set. -/
def State.layout? (s : State) (k : Nat) : Option Layout :=
  match smGet [] s.ho.layouts k with
  | [] => none
  | w => some (layoutFields w)

/-- NBS: blocks of a slot (R341). -/
def Layout.nbs (d : Layout) (nl : Nat) : Nat := d.slotsize / (nl * d.dpstride)

/-- Partner address of the row of a head, local position and layer; w = 1 for values (R341). -/
def Layout.rowAt (d : Layout) (g : Geom) (ptag l lam h w : Nat) : Nat :=
  let de := fmtBits d.dfmt / 8
  let b := lam / d.dpp
  let t := lam % d.dpp
  let page := if d.lorder then (l * d.nbs g.nl + b) * d.dpstride else (b * g.nl + l) * d.dpstride
  let el := if d.horder then (t * g.kvh + h) * g.hd * de else (h * d.dpp + t) * g.hd * de
  d.base + ptag * d.slotsize + page + el + w * (g.kvh * d.dpp * g.hd * de)

/-! ## Positions (R344, R345) -/

/-- The first local position that a request sends. -/
def Req.firstSent (q : Req) (d : Layout) : Nat := if d.vskip then q.vlen else 0

/-- Local positions of a layer that are sent or acknowledged, from the first one on: where the next batch begins. -/
def Req.sentTo (q : Req) (l first : Nat) : Nat :=
  ((q.hoOut ++ q.hoAck).filter fun x => decide (x.layer = l)).foldl (fun m x => max m x.hi) first

/-- Local positions of a layer that are acknowledged without a gap (R347). -/
def Req.ackedTo (q : Req) (l first : Nat) : Nat :=
  ((q.hoOut.filter fun x => decide (x.layer = l)).map (·.lo)).foldl min (q.sentTo l first)

/-- The sequence position of a local position (R249). -/
def Header.seqOf (h : Header) (lam : Nat) : Nat := if lam < h.count0 then h.sbase0 + lam else h.sbase1 + (lam - h.count0)

/-- Every row of a local position of a layer has been appended and none is provisional (R345); positions below VLEN and
those of a prefix hit stand in linked pages. -/
def State.rowsThere (s : State) (n i : Nat) (g : Geom) (h : Header) (l lam : Nat) : Bool :=
  let q := s.req i
  decide (lam < q.vlen + q.hitBlocks * g.ppos) ||
  (List.range (2 * g.kvh)).all fun w => (s.region n).kvMarks.contains (i, l, h.seqOf lam, w)

/-- Where the positions end that a layer batch may hold now: the prompt positions granted so far, or in lead-in the
position of the last posted token; without a step in course, SEQLEN. -/
def State.batchEnd (s : State) (n i : Nat) : Nat :=
  let q := s.req i
  let r := s.region n
  match r.stepReqs.find? fun x => decide (x.ridx = i) with
  | some x =>
    if r.run = .waiting then q.seqlen
    else if x.lead then q.seqlen + 1
    else q.vlen + q.promptDone + x.grant
  | none => q.seqlen

/-! ## Writing (R341, R342, R346) -/

/-- The bytes of one row as the partner receives them, and the substitutions counted (R342). -/
def State.handoffRow (s : State) (d : Layout) (g : Geom) (a w p : Nat) : List Byte × Nat :=
  let key := decide (w = 0)
  if d.dfmt = g.kvfmt.toNat ∧ !d.rotk then (readBytes s.mem a (g.hd * g.esize), 0)
  else
    let xs := f32Row s.mem g.kvfmt.toNat a g.hd
    let th := (List.range (g.hd / 2)).map fun i => readLe s.mem (d.thaddr + 8 * i) 8
    let xs := if d.rotk && key then rotateVec th d.rotpair p xs else xs
    match etypeOf d.dfmt with
    | none => ([], 0)
    | some t =>
      let cs := xs.map fun x => convert (.flt fmtFP32) t .rne d.ovm x
      (cs.flatMap fun c => leBytes (fmtBits d.dfmt / 8) c.bits, (cs.filter fun c => c.counted).length)

/-- Join a run to the one that it follows without a gap (R346). -/
def joinRun (runs : List (Nat × List Byte)) (x : Nat × List Byte) : List (Nat × List Byte) :=
  match runs.getLast? with
  | some y => if y.1 + y.2.length = x.1 then runs.dropLast ++ [(y.1, y.2 ++ x.2)] else runs ++ [x]
  | none => [x]

/-- Put runs in rising order of address. -/
def insertRun (x : Nat × List Byte) : List (Nat × List Byte) → List (Nat × List Byte)
  | [] => [x]
  | y :: r => if x.1 < y.1 then x :: y :: r else y :: insertRun x r

/-- A port's walk of a request has failed: it ends at the next boundary (R254, R258). -/
def State.portWalk (s : State) (n i : Nat) (w : Walk) : State :=
  let s := s.modRegion n fun r => r.noteWalk i w
  match w with
  | .race => s.modReq i fun q => { q with walkRace := true }
  | .invalid => s.modReq i fun q => { q with walkInvalid := true }
  | .limit => s.modReq i fun q => { q with walkLimit := true }
  | .page _ _ _ => s

/-- A port's walks have failed for a request: it is fed no further (R254). -/
def Req.walkFailed (q : Req) : Bool := q.walkRace || q.walkInvalid || q.walkLimit

/-- What a port has gathered of a layer: the state after its walks, the runs to write, substitutions, the local position where it
stopped, and whether it met a lost granule. -/
structure Gathered where
  s : State
  runs : List (Nat × List Byte) := []
  count : Nat := 0
  upTo : Nat
  lost : Bool := false

/-- The rows of one local position p of the sequence, from a page of address a. -/
def State.gatherPos (s : State) (q : Req) (d : Layout) (g : Geom) (l lam p a t : Nat) : List (Nat × List Byte) × Nat :=
  (List.range (2 * g.kvh)).foldl (fun (x : List (Nat × List Byte) × Nat) hw =>
    let b := s.handoffRow d g (a + g.rowOffset (hw % 2) (hw / 2) t) (hw % 2) p
    (insertRun (d.rowAt g q.ptag.toNat l lam (hw / 2) (hw % 2), b.1) x.1, x.2 + b.2)) ([], 0)

/-- Gather the rows of a layer from local position lo, `k` positions of it. The port stops at a walk that fails, which ends the
request (R254), and at a lost granule. -/
def State.gather (s : State) (n i l : Nat) (d : Layout) (g : Geom) (h : Header) (half : Half) : Nat → Nat → Gathered
  | lo, 0 => { s := s, upTo := lo }
  | lo, k + 1 =>
    let x := s.gather n i l d g h half lo k
    let lam := lo + k
    if x.upTo < lam || x.lost then x
    else
      match x.s.walk half n i 0 (h.seqOf lam) l with
      | (.page a _ t, s) =>
        if (s.lostGranules n).any fun y => rangesMeet (a, g.pageSize) y then { x with s := s, lost := true }
        else
          let y := s.gatherPos (s.req i) d g l lam (h.seqOf lam) a t
          { s := s, runs := y.1.foldl (fun rs r => insertRun r rs) x.runs, count := x.count + y.2, upTo := lam + 1 }
      | (w, s) => { x with s := s.portWalk n i w }

/-- A SAK is installed: the port is keyed (R336, R453). -/
def HoPort.keyed (x : HoPort) : Bool := x.sak.isSome

/-- PFCEN: the partner's priority flow control is obeyed (Table 11-2). -/
def State.pfcen (s : State) : Bool := bitAt (s.pairWord 0) 16

/-- A port passes handoff frames: a SAK is installed, its link is up and its priority is not paused (R336). -/
def State.portOpen (s : State) (p : Nat) : Bool :=
  (s.hoPort p).keyed && (s.hoPort p).linkUp && !((s.hoPort p).paused && s.pfcen)

/-- Send local positions lo to hi − 1 of a layer of request i (R341 to R346), as far as the port is open and the walks go. -/
def State.sendRange (s : State) (i l lo hi : Nat) : State :=
  let q := s.req i
  let n := q.region
  match s.layout? q.layout, (s.region n).geom0, s.layerPort n l with
  | some d, some g, some p =>
    if hi ≤ lo || !s.portOpen p then s
    else
      let x := s.gather n i l d g (s.header n i 0) (if p = 0 then .west else .east) lo (hi - lo)
      if x.lost then x.s.modReq i fun q => { q with failed := true }
      else if x.upTo = lo then x.s
      else
        let s := (x.runs.foldl joinRun []).foldl (fun (s : State) r => s.emit (.rdmaWrite p (BitVec.ofNat 64 r.1) d.rkey r.2)) x.s
        let s := s.modRegion n fun r => { r with hovf := satAdd r.hovf x.count }
        s.modReq i fun q => { q with hoOut := q.hoOut ++ [{ layer := l, lo := lo, hi := x.upTo, port := p }], hoIssued := true }
  | _, _, _ => s

/-- A request may write to the partner (R353). -/
def State.mayWrite (s : State) (i : Nat) : Bool :=
  let q := s.req i
  q.handoff && !q.failed && !q.walkFailed && s.ho.up && (decide (q.state = .prompt) || decide (q.state = .lead) || decide (q.state = .handover))

/-- LAYER_BATCH_SEND: the layer batch of a request is complete, and its port writes it to the partner, with the layer's
positions that no step appends before it (R345); rows that a COPY_IN of the step has met are read as R434 has them. -/
def execLayerBatchSend (ridx : Fin 32768) (layer : Fin 256) (s : State) : Host.Outcome State Fault Refusal :=
  let i := ridx.val
  let q := s.req i
  let n := q.region
  .next (
    match s.layout? q.layout, (s.region n).geom0, s.layerPort n layer.val with
    | some d, some g, some p =>
      if !s.isReady || !s.mayWrite i || decide (g.nl ≤ layer.val) || !s.portOpen p then s
      else
        let h := s.header n i 0
        let lo := q.sentTo layer.val (q.firstSent d)
        let hi := s.batchEnd n i
        if (List.range (hi - lo)).all fun k => s.rowsThere n i g h layer.val (lo + k) then
          (s.wakeRegion n).inStep n fun s => s.sendRange i layer.val lo hi
        else s
    | _, _, _ => s)

/-- At order 2 the accepted draft positions below the new SEQLEN are sent, layer by layer until one may not be (R254, R345). -/
def State.sendAccepted (s : State) (i : Nat) : State :=
  let q := s.req i
  match s.layout? q.layout, (s.region q.region).geom0 with
  | some d, some g =>
    if !s.mayWrite i then s
    else
      let h := s.header q.region i 0
      (List.range g.nl).foldl (fun (s : State) l =>
        let lo := (s.req i).sentTo l (q.firstSent d)
        if s.mayWrite i && (List.range (q.seqlen - lo)).all fun k => s.rowsThere q.region i g h l (lo + k) then s.sendRange i l lo q.seqlen
        else s) s
  | _, _ => s

/-! ## The handoff token and REVOKEs (R349, R351) -/

/-- Every layer is acknowledged up to a local position. -/
def State.ackedBelow (s : State) (i upTo : Nat) : Bool :=
  let q := s.req i
  match s.layout? q.layout, (s.region q.region).geom0 with
  | some d, some g => (List.range g.nl).all fun l => decide (upTo ≤ q.ackedTo l (q.firstSent d)) || decide (upTo ≤ q.firstSent d)
  | _, _ => false

/-- The TOKEN notice of a request (Table 11-4). -/
def State.tokenNotice (s : State) (i : Nat) : List W64 :=
  let q := s.req i
  let h := s.header q.region i 0
  [BitVec.ofNat 64 (1 + 2 ^ 16 * q.layout + 2 ^ 32 * q.ptag.toNat),
   BitVec.ofNat 64 (q.seqlen + 2 ^ 19 * q.vlen + 2 ^ 38 * q.generated), BitVec.ofNat 64 q.lastToken.toNat,
   BitVec.ofNat 64 (sampBlock q.sampler).seed, BitVec.ofNat 64 (h.sbase0 + 2 ^ 38 * h.count0),
   BitVec.ofNat 64 (h.sbase1 + 2 ^ 38 * h.count1), s.gc, 0]

/-- Send the handoff token of a request that awaits nothing else (R349). -/
def State.trySendToken (s : State) (i : Nat) : State :=
  let q := s.req i
  match s.layerPort q.region 0 with
  | some p =>
    if q.state = .handover ∧ q.handoff ∧ !q.failed ∧ !q.walkFailed ∧ !q.tokenSent ∧ s.ho.up ∧ q.hoOut.isEmpty ∧ s.ackedBelow i q.seqlen ∧
        s.portOpen p then
      (s.emit (.rdmaSend p (s.tokenNotice i))).modReq i fun q => { q with tokenSent := true }
    else s
  | none => s

/-- A request that ends without its token sent, after a write was issued for it, leaves a REVOKE to be sent (R351). DESIGN CHOICE: it
takes the place of an unsent one of the same index (log 220). -/
def State.leaveRevoke (s : State) (i status : Nat) : State :=
  let q := s.req i
  match s.layerPort q.region 0 with
  | some p =>
    if q.handoff && q.hoIssued && !q.tokenSent then
      let w : W64 := BitVec.ofNat 64 (2 + 2 ^ 8 * status + 2 ^ 16 * q.layout + 2 ^ 32 * q.ptag.toNat)
      { s with ho := { s.ho with revokes := (s.ho.revokes.filter fun x => decide (x.1 ≠ i)) ++ [(i, [w, 0, 0, 0, 0, 0, 0, 0], p)] } }
    else s
  | none => s

/-- Send the REVOKEs whose writes have been acknowledged, in end order, while the session is UP (R351). -/
def State.sendRevokes (s : State) : State :=
  let go := fun (x : Nat × List W64 × Nat) =>
    s.ho.up && s.portOpen x.2.2 && (decide ((s.req x.1).state ≠ .ended) || (s.req x.1).hoOut.isEmpty)
  (s.ho.revokes.filter go).foldl (fun (s : State) x => s.emit (.rdmaSend x.2.2 x.2.1))
    { s with ho := { s.ho with revokes := s.ho.revokes.filter fun x => !go x } }

/-- What may go out now: tokens and REVOKEs. -/
def State.pushHandoff (s : State) : State :=
  ((s.reqs.filter fun (x : Nat × Req) => decide (x.2.state = .handover)).map (·.1)).foldl State.trySendToken s |>.sendRevokes

/-! ## The session (R338, R353) -/

/-- Every request with HANDOFF = 1 that is in course is marked handoff-failed (R353). -/
def State.failHandoffs (s : State) : State :=
  { s with reqs := s.reqs.map fun (x : Nat × Req) =>
      (x.1, if x.2.handoff && decide (x.2.state ≠ .free) && decide (x.2.state ≠ .ended) && !x.2.tokenAcked then
        { x.2 with failed := true } else x.2) }

/-- The session's state follows its connections: PARTNER_UP or PARTNER_DOWN at each change (R338, R353). -/
def State.session (s : State) : State :=
  if s.connected = s.ho.up then s
  else if s.connected then (({ s with ho := { s.ho with up := true } }).postErr 0x0021 0 0).pushHandoff
  else ({ s with ho := { s.ho with up := false } }.postErr 0x0020 0 0).failHandoffs

/-- A connection enters the error state: its writes are over (R338, R352). -/
def State.connError (s : State) (p : Nat) : State :=
  let s := s.modHoPort p fun x => { x with conn := .error, retries := 0, rnr := 0 }
  ({ s with reqs := s.reqs.map fun (x : Nat × Req) =>
      (x.1, if x.2.state = RState.free then x.2 else { x.2 with hoOut := x.2.hoOut.filter fun r => decide (r.port ≠ p) }) }).session

/-- Firmware opens a connection: the request goes out once the port's traffic is protected (R336, R338). -/
def State.openConn (s : State) (p : Nat) : State :=
  if s.portEnabled p then
    let s := s.modHoPort p fun x => { x with conn := .connecting, retries := 0, rnr := 0 }
    if (s.hoPort p).keyed && (s.hoPort p).linkUp then s.emit (.cmRequest p) else s
  else s

/-- PARTNER_PAIR takes effect: one connection is opened on each enabled port (R337, R338). -/
def State.pair (s : State) (ws : List W64) : State :=
  (({ s with ho := { s.ho with pairing := some ws } }).openConn 0).openConn 1

/-- The pairing is removed: the connections close, so that their writes are over, a pause of the old partner ends, and REVOKEs not yet
sent are discarded (R336, R339, R352, R446). -/
def State.unpair (s : State) : State :=
  let s := { s with
    ho := { s.ho with pairing := none, revokes := [] }
    reqs := s.reqs.map fun (x : Nat × Req) => (x.1, if x.2.state = RState.free then x.2 else { x.2 with hoOut := [] }) }
  let close := fun (x : HoPort) => { x with conn := .closed, retries := 0, rnr := 0, paused := false }
  ((s.modHoPort 0 close).modHoPort 1 close).session

/-- Frames of a port are acted upon only inside its MACsec secure channel (R336). -/
def State.onPort (s : State) (p : Nat) (f : State → State) : State :=
  if !s.isReady || s.ho.pairing.isNone then s
  else if !(s.hoPort p).keyed || !(s.hoPort p).linkUp then s.modHoPort p fun x => { x with discards := x.discards + 1 }
  else f s

/-- COMMUNICATION_MANAGEMENT: a connection-management message changes a connection's state (R338). -/
def execCommunicationManagement (port : Fin 2) (m : CmMsg) (s : State) : Host.Outcome State Fault Refusal :=
  .next (s.onPort port.val fun s =>
    match m, (s.hoPort port.val).conn with
    | .accepted, .connecting => (s.modHoPort port.val fun x => { x with conn := .connected }).session
    | .rejected, .connecting => s.connError port.val
    | .disconnect, .connected => s.connError port.val
    | .disconnect, .connecting => s.connError port.val
    | _, _ => s)

/-- One transport retry; when they are exhausted the connection enters the error state (R338). -/
def State.retryPort (s : State) (p : Nat) : State :=
  if (s.hoPort p).conn ≠ .connected then s
  else if fld (s.pairWord 0) 9 7 ≤ (s.hoPort p).retries then s.connError p
  else s.modHoPort p fun x => { x with retries := x.retries + 1 }

/-- TRANSPORT_TIMEOUT: no acknowledgement came within ACKTO (R338). -/
def execTransportTimeout (port : Fin 2) (s : State) : Host.Outcome State Fault Refusal :=
  .next (if s.isReady then s.retryPort port.val else s)

/-- ROCE_NAK: a negative acknowledgement: a sequence error is a transport retry, receiver-not-ready counts against
RNRRETRY, of which 7 is unlimited (R338). -/
def execRoceNak (port : Fin 2) (notReady : Bool) (s : State) : Host.Outcome State Fault Refusal :=
  .next (s.onPort port.val fun s =>
    if !notReady then s.retryPort port.val
    else if (s.hoPort port.val).conn ≠ .connected then s
    else
      let lim := fld (s.pairWord 0) 12 10
      if lim ≠ 7 ∧ lim ≤ (s.hoPort port.val).rnr then s.connError port.val
      else s.modHoPort port.val fun x => { x with rnr := x.rnr + 1 })

/-- The first range of a layer in a list, and the list without it. -/
def takeRange (l p : Nat) : List HoRange → Option HoRange × List HoRange
  | [] => (none, [])
  | x :: r =>
    if x.layer = l ∧ x.port = p then (some x, r)
    else
      let y := takeRange l p r
      (y.1, x :: y.2)

/-- ROCE_ACK: the partner's transport acknowledges the oldest write of a layer, the handoff token, or a REVOKE (R347,
R349). -/
def execRoceAck (port : Fin 2) (what : AckOf) (s : State) : Host.Outcome State Fault Refusal :=
  .next (s.onPort port.val fun s =>
    if (s.hoPort port.val).conn ≠ .connected then s
    else
      let s := s.modHoPort port.val fun x => { x with retries := 0, rnr := 0 }
      match what with
      | .layer i l =>
        match takeRange l port.val (s.req i).hoOut with
        | (some x, rest) => (s.modReq i fun q => { q with hoOut := rest, hoAck := q.hoAck ++ [x] }).pushHandoff
        | (none, _) => s
      | .token i =>
        if (s.req i).tokenSent ∧ s.layerPort (s.req i).region 0 = some port.val then
          s.modReq i fun q => { q with tokenAcked := true }
        else s
      | .revoke _ => s)

/-- CONGESTION_NOTIFICATION: answered by rate reduction; by how much no rule says, so the new rate is a free value below the
old one (R335, log 44). -/
def execCongestionNotification (port : Fin 2) (s : State) : Host.Outcome State Fault Refusal :=
  .next (s.onPort port.val fun s =>
    let (v, s) := s.takeFree
    s.modHoPort port.val fun x => { x with rate := v.toNat % max 1 x.rate })

/-- PARTNER_RECONNECT: every 10 ms while the session is DOWN, each failed connection is opened again, also one whose last attempt has
had no answer (R338, log 194). -/
def execPartnerReconnect (s : State) : Host.Outcome State Fault Refusal :=
  .next (
    if !s.isReady || s.ho.pairing.isNone || s.ho.up then s
    else [0, 1].foldl (fun (s : State) p =>
      if (s.hoPort p).conn = .error ∨ (s.hoPort p).conn = .connecting then s.openConn p else s) s)

/-- The SAK and salt that a frame distributes under the keys that the CAK gives (R453). -/
def mkaSak (ckn : BitVec 16) (cak frame : List Byte) : Option (List Byte × List Byte) :=
  Config.mkaDistributed (macsecKey cak "IEEE8021 ICK" ckn) (macsecKey cak "IEEE8021 KEK" ckn) frame

/-- EAPOL_MKA: a key-agreement frame under the owner's CAK; where it distributes a SAK the port installs it (R336, R453). -/
def execEapolMka (port : Fin 2) (frame : List Byte) (s : State) : Host.Outcome State Fault Refusal :=
  .next (
    if !s.isReady then s
    else
      match s.sec.cak with
      | none => s
      | some (ckn, key) =>
        if s.ho.pairing.isSome ∧ fld (s.pairWord 0) 38 23 = ckn.toNat ∧ (mkaSak ckn key frame).isSome then
          let s := s.modHoPort port.val fun x => { x with sak := mkaSak ckn key frame }
          if (s.hoPort port.val).conn = .connecting ∧ (s.hoPort port.val).linkUp then s.emit (.cmRequest port.val)
          else s.pushHandoff
        else s)

/-- PRIORITY_FLOW_CONTROL: the partner pauses or resumes the handoff priority, where PFCEN is set (R336). -/
def execPriorityFlowControl (port : Fin 2) (pause : Bool) (s : State) : Host.Outcome State Fault Refusal :=
  .next (
    if s.isReady && s.ho.pairing.isSome && s.pfcen then
      let s := s.modHoPort port.val fun x => { x with paused := pause }
      if pause then s else s.pushHandoff
    else s)

/-- HANDOFF_FRAME_DISCARD: every other frame is discarded (R336). -/
def execHandoffFrameDiscard (port : Fin 2) (s : State) : Host.Outcome State Fault Refusal :=
  .next (if s.isReady then s.modHoPort port.val fun x => { x with discards := x.discards + 1 } else s)

/-- HANDOFF_LANE_LOSS: a handoff port has no spare lane: its link goes down (R493). Lanes 4 to 7 are unused in 800GAUI-4
(Table 19-4). -/
def execHandoffLaneLoss (port : Fin 2) (lane : Fin 8) (s : State) : Host.Outcome State Fault Refusal :=
  .next (
    if !s.isReady || !s.usesLane lane.val then s
    else
      let s := if (s.hoPort port.val).lanesLost.contains lane.val then s else s.recordFault (.handoffLane port.val lane.val)
      let s := s.modHoPort port.val fun x => x.loseLane lane.val
      let s := if (s.hoPort port.val).conn = .closed then s else s.connError port.val
      s.raiseAlert)

end Sys2Proof.Machine
end

