-- ==== Sys2Proof/Machine/Prefix.lean ====
section
/-! DEFINITION. Prefix sharing (08: R264 to R276): nodes, the hash index, lookup, insertion, eviction, flush, handles, and the
peer index of a serving group. -/

namespace Sys2Proof.Machine

/-! ## Nodes (R267, Table 8-6) -/

/-- PPOS of slot 0. -/
def Region.ppos (r : Region) : Nat := match r.geom0 with | some g => g.ppos | none => 16

/-- Layers of slot 0. -/
def Region.layers (r : Region) : Nat := match r.geom0 with | some g => g.nl | none => 1

/-- No parent: the node of block 0. -/
def noParent : Nat := 0xFFFFF

/-- A node record. -/
structure Node where
  hash : W64
  domain : Nat
  variant : Nat
  parent : Nat
  refcnt : Nat
  depth : Nat
  dead : Bool
  children : Nat
  lastuse : W64
  tokens : List W32
  pages : List W64
deriving DecidableEq, Repr

/-- Bytes of a node record. -/
def Region.nodeSize (r : Region) : Nat := ceilDiv (64 + 4 * r.ppos + 8 * r.layers) 64 * 64

/-- Nodes that the 43 MiB store holds. -/
def Region.nodeCap (r : Region) : Nat := 43 * 2 ^ 20 / r.nodeSize

/-- Address of node k. -/
def State.nodeAddr (s : State) (n k : Nat) : Nat := s.prefixZone n + 0xD00000 + k * (s.region n).nodeSize

/-- Read node k of region n. DESIGN CHOICE: CHILDREN is the count modulo 2^16 (log 207). -/
def State.node (s : State) (n k : Nat) : Node :=
  let r := s.region n
  let a := s.nodeAddr n k
  let w := wordsOf 5 (readBytes s.mem a 40)
  { hash := wordAt w 0, domain := fld (wordAt w 1) 15 0, variant := fld (wordAt w 1) 28 16, parent := fld (wordAt w 1) 48 29,
    refcnt := fld (wordAt w 2) 31 0, depth := fld (wordAt w 2) 51 32, dead := bitAt (wordAt w 2) 52,
    children := fld (wordAt w 3) 15 0, lastuse := wordAt w 4,
    tokens := (List.range r.ppos).map fun i => BitVec.ofNat 32 (readLe s.mem (a + 64 + 4 * i) 4),
    pages := wordsOf r.layers (readBytes s.mem (a + 64 + 4 * r.ppos) (8 * r.layers)) }

/-- The bytes of a node record. -/
def Node.bytes (x : Node) : List Byte :=
  leBytes 8 x.hash.toNat ++ leBytes 8 (x.domain + 2 ^ 16 * x.variant + 2 ^ 29 * x.parent) ++
  leBytes 8 (x.refcnt + 2 ^ 32 * x.depth + 2 ^ 52 * b2n x.dead) ++ leBytes 8 x.children ++ leBytes 8 x.lastuse.toNat ++
  leBytes 24 0 ++ (x.tokens.flatMap fun t => leBytes 4 t.toNat) ++ x.pages.flatMap fun p => leBytes 8 p.toNat

/-- Write node k of region n. -/
def State.putNode (s : State) (n k : Nat) (x : Node) : State :=
  s.writeOwn [(s.nodeAddr n k, x.bytes)]

/-- Change node k of region n. -/
def State.modNode (s : State) (n k : Nat) (f : Node → Node) : State := s.putNode n k (f (s.node n k))

/-! ## The hash index (R267) -/

/-- The eight buckets probed for a hash. -/
def probes (h : W64) : List Nat := (List.range 8).map fun i => (h.toNat % 2 ^ 20 + i) % 2 ^ 20

/-- A bucket. -/
def State.bucket (s : State) (n b : Nat) : W64 := s.word (s.prefixZone n + 8 * b)

/-- Write a bucket. -/
def State.putBucket (s : State) (n b v : Nat) : State := s.putWord (s.prefixZone n + 8 * b) v

/-- The node numbers in the probed buckets, in probe order. -/
def State.probed (s : State) (n : Nat) (h : W64) : List Nat :=
  ((probes h).map (s.bucket n)).filterMap fun w => if bitAt w 0 then some (fld w 20 1) else none

/-- A live node with a hash (R268). -/
def State.indexFind (s : State) (n : Nat) (h : W64) : Option Nat :=
  (s.probed n h).find? fun k => !(s.node n k).dead && decide ((s.node n k).hash = h)

/-! ## Notices (R274) -/

/-- Tell the group of an insertion or eviction. -/
def State.notice (s : State) (n : Nat) (x : Node) (insert : Bool) : State :=
  match s.sharesPrefixes n with
  | none => s
  | some (gid, g) =>
    s.toMembers kindNotice n gid g 0 0
      (leBytes 8 x.hash.toNat ++ leBytes 2 x.domain ++ leBytes 2 x.variant ++ leBytes 1 (b2n insert))

/-- The eight buckets of the peer index for a hash. -/
def peerProbes (h : W64) : List Nat := (List.range 8).map fun i => (h.toNat % 2 ^ 18 + i) % 2 ^ 18

/-- Address of a bucket of the peer index (Table 8-7). -/
def State.peerAddr (s : State) (n b : Nat) : Nat := s.prefixZone n + 0x800000 + 16 * b

/-- The second word of an entry of the peer index: V, domain, variant and module (log 70). -/
def peerWord (domain variant m : Nat) : Nat := 1 + 2 * domain + 2 ^ 17 * variant + 2 ^ 30 * m

/-- The two words of a bucket of the peer index. -/
def State.peer (s : State) (n b : Nat) : W64 × W64 := (s.word (s.peerAddr n b), s.word (s.peerAddr n b + 8))

/-- Write a bucket of the peer index. -/
def State.putPeer (s : State) (n b : Nat) (h : W64) (w : Nat) : State :=
  (s.putWord (s.peerAddr n b) h.toNat).putWord (s.peerAddr n b + 8) w

/-- Apply one notice to the peer index; where the eight buckets are full it replaces the first (R274). -/
def State.applyNotice (n : Nat) (s : State) (m : Bool × W64 × Nat × Nat × BitVec 14) : State :=
  let w := peerWord m.2.2.1 m.2.2.2.1 m.2.2.2.2.toNat
  let ps := peerProbes m.2.1
  match m.1, ps.find? fun b => decide (s.peer n b = (m.2.1, BitVec.ofNat 64 w)) with
  | true, some _ => s
  | true, none => s.putPeer n ((ps.find? fun b => !bitAt (s.peer n b).2 0).getD (ps.headD 0)) m.2.1 w
  | false, some b => s.putPeer n b 0 0
  | false, none => s

/-! ## Eviction (R272, R273) -/

/-- A node that nothing references and no node hangs on. -/
def Node.leaf (x : Node) : Bool := decide (x.refcnt = 0) && decide (x.children = 0)

/-- Evict a node: its pages are scrubbed, its bucket cleared, its parent loses a child; a DEAD parent that is now free goes
with it (R272, R273). -/
def State.evict : Nat → State → Nat → Nat → State
  | 0, s, _, _ => s
  | fuel + 1, s, n, k =>
    let x := s.node n k
    let s := s.scrubPages n 0 (x.pages.map fun e => fld e 47 12 * 4096)
    let s := match (probes x.hash).find? fun b => decide (s.bucket n b = BitVec.ofNat 64 (1 + 2 * k)) with
      | some b => s.putBucket n b 0
      | none => s
    let s := s.modRegion n fun r => { r with nodesUsed := r.nodesUsed.filter fun j => decide (j ≠ k) }
    let s := s.notice n x false
    if x.parent = noParent then s
    else
      let s := s.modNode n x.parent fun p => { p with children := p.children - 1 }
      let p := s.node n x.parent
      if p.dead && p.leaf then s.evict fuel n x.parent else s

/-- Evict a node, and the DEAD chain that it frees. -/
def State.evictNode (s : State) (n k : Nat) : State := s.evict ((s.region n).nodesUsed.length + 1) n k

/-- Which of two nodes is evicted first: the less recent LASTUSE, then the lower number (R272). -/
def State.earlier (s : State) (n a b : Nat) : Nat :=
  let x := (s.node n a).lastuse
  let y := (s.node n b).lastuse
  if x < y ∨ (x = y ∧ a < b) then a else b

/-- The node among some that R272 evicts first. -/
def State.victim (s : State) (n : Nat) (ks : List Nat) : Option Nat :=
  match ks.filter fun k => (s.node n k).leaf with
  | [] => none
  | k :: r => some (r.foldl (s.earlier n) k)

/-- Evict until a number of pages of slot 0 is free for a request, or nothing can be evicted (R261, R272). -/
def State.evictFor : Nat → State → Nat → Nat → Nat → State
  | 0, s, _, _, _ => s
  | fuel + 1, s, n, i, want =>
    if want ≤ s.freeFor n i 0 then s
    else
      match s.victim n (s.region n).nodesUsed with
      | some k => (s.evictNode n k).evictFor fuel n i want
      | none => s

/-- Take a reference on a node, which is used now (R268). -/
def State.takeRef (s : State) (n k : Nat) : State :=
  s.modNode n k fun x => { x with refcnt := x.refcnt + 1, lastuse := s.gc }

/-- Drop a reference; a DEAD node that is free now is evicted (R263, R273). -/
def State.dropRef (s : State) (n k : Nat) : State :=
  let s := s.modNode n k fun x => { x with refcnt := x.refcnt - 1 }
  let x := s.node n k
  if x.dead && x.leaf then s.evictNode n k else s

/-- PREFIX_FLUSH: the nodes of a domain, or all, become DEAD; those that are free are evicted at once (R273). -/
def State.flush (s : State) (n : Nat) (pick : Nat → Bool) : State :=
  let ks := (s.region n).nodesUsed.filter fun k => pick (s.node n k).domain
  let s := ks.foldl (fun (s : State) k => s.modNode n k fun x => { x with dead := true }) s
  ks.foldl (fun (s : State) k =>
    if (s.region n).nodesUsed.contains k && (s.node n k).leaf then s.evictNode n k else s) s

/-! ## Lookup (R265 to R269, R275, R276) -/

/-- Token blocks that a request may share: S / PPOS (R265). -/
def Region.shareBlocks (r : Region) (q : Req) : Nat := min q.shareLen (q.promptLen - 1) / r.ppos

/-- The tokens of block k. -/
def Region.blockTokens (r : Region) (q : Req) (k : Nat) : List W32 := (q.tokens.drop (k * r.ppos)).take r.ppos

/-- The hash of a block from its predecessor's (R266). -/
def blockHash (h : W64) (domain variant ppos : Nat) (toks : List W32) : W64 :=
  BitVec.ofNat 64 (leNat (shake256 (leBytes 8 h.toNat ++ leBytes 2 domain ++ leBytes 2 variant ++ leBytes 2 ppos ++
    toks.flatMap fun t => leBytes 4 t.toNat) 8))

/-- The blocks that a lookup hits, by node (R268). -/
def State.lookupFrom (s : State) (n : Nat) (q : Req) : Nat → Nat → W64 → Nat → List Nat
  | 0, _, _, _ => []
  | fuel + 1, k, h, parent =>
    let r := s.region n
    let toks := r.blockTokens q k
    let h := blockHash h q.domain q.variant r.ppos toks
    match s.indexFind n h with
    | none => []
    | some j =>
      let x := s.node n j
      if x.domain = q.domain ∧ x.variant = q.variant ∧ x.parent = parent ∧ x.tokens = toks then
        j :: s.lookupFrom n q fuel (k + 1) h j
      else []

/-- The chain of a node from block 0 (R275). -/
def State.chainOf (s : State) (n : Nat) : Nat → Nat → List Nat
  | 0, _ => []
  | fuel + 1, k =>
    let p := (s.node n k).parent
    (if p = noParent then [] else s.chainOf n fuel p) ++ [k]

/-- Address of an entry of the handle table (Table 8-7). -/
def State.handleAddr (s : State) (n k : Nat) : Nat := s.prefixZone n + 0xC00000 + 16 * k

/-- The entry of the handle table that binds a handle. -/
def State.handleEntry (s : State) (n : Nat) (h : W64) : Option Nat :=
  (s.region n).handles.find? fun k => decide (s.word (s.handleAddr n k) = h)

/-- The node bound to a handle (log 70: V, then the node number, in the entry's second word). -/
def State.handleNode (s : State) (n : Nat) (h : W64) : Option Nat :=
  (s.handleEntry n h).map fun k => fld (s.word (s.handleAddr n k + 8)) 20 1

/-- Bind a handle in the lowest free entry. -/
def State.bindHandle (s : State) (n : Nat) (h : W64) (node : Nat) : State :=
  match (firstFree (s.region n).handles 1).head? with
  | none => s
  | some k =>
    ((s.putWord (s.handleAddr n k) h.toNat).putWord (s.handleAddr n k + 8) (1 + 2 * node)).modRegion n fun r =>
      { r with handles := r.handles ++ [k] }

/-- Unbind a handle. -/
def State.unbindHandle (s : State) (n : Nat) (h : W64) : State :=
  match s.handleEntry n h with
  | none => s
  | some k =>
    ((s.putWord (s.handleAddr n k) 0).putWord (s.handleAddr n k + 8) 0).modRegion n fun r =>
      { r with handles := r.handles.filter fun x => decide (x ≠ k) }

/-- The hit of a bound handle: the whole chain, where every node is live and equals the request's own block; else a
mismatch (R275). A chain longer than S / PPOS is used up to there (R265). -/
def State.handleHit (s : State) (n : Nat) (q : Req) (k : Nat) : Option (List Nat) :=
  let r := s.region n
  let c := s.chainOf n ((s.node n k).depth + 1) k
  let same := fun (x : Nat × Nat) =>
    let y := s.node n x.1
    !y.dead && decide (y.domain = q.domain) && decide (y.variant = q.variant) && decide (y.tokens = r.blockTokens q x.2)
  if (c.mapIdx fun i j => (j, i)).all same then some (c.take (r.shareBlocks q)) else none

/-- What a request's lookup finds: its hit nodes, and whether its handle mismatched. -/
def State.prefixHits (s : State) (n : Nat) (q : Req) : List Nat × Bool :=
  let r := s.region n
  match (if q.handle = 0 then none else s.handleNode n q.handle) with
  | some k => (match s.handleHit n q k with | some l => (l, false) | none => ([], true))
  | none => (if s.hashLookups n then s.lookupFrom n q (r.shareBlocks q) 0 0 noParent else [], false)

/-! ## Peers (R274) -/

/-- Hashes of a request's shareable blocks, from block 0. -/
def Region.hashes (r : Region) (q : Req) : Nat → Nat → W64 → List W64
  | 0, _, _ => []
  | fuel + 1, k, h =>
    let h := blockHash h q.domain q.variant r.ppos (r.blockTokens q k)
    h :: r.hashes q fuel (k + 1) h

/-- The peer index places a block of the request's domain and variant on a module. -/
def State.peerHas (s : State) (n : Nat) (q : Req) (m : Nat) (h : W64) : Bool :=
  (peerProbes h).any fun b => decide (s.peer n b = (h, BitVec.ofNat 64 (peerWord q.domain q.variant m)))

/-- The module that holds the longest run of the blocks from k on, the lowest coordinate among equals, with the run's
hashes. -/
def State.peerRun (s : State) (n : Nat) (q : Req) (k : Nat) : Option (Nat × List W64) :=
  let r := s.region n
  match s.sharesPrefixes n with
  | none => none
  | some (_, g) =>
    let hs := (r.hashes q (r.shareBlocks q) 0 0).drop k
    let runs := ((s.modules g.d).filter fun m => decide (m ≠ s.self)).map fun m => (m.toNat, hs.takeWhile (s.peerHas n q m.toNat))
    let best := runs.foldl (fun (b : Nat × List W64) x => if b.2.length < x.2.length then x else b) (0, [])
    if best.2.isEmpty then none else some best

/-! ## Insertion (R270, R271) -/

/-- Index in slot 0's page list of block k of a request's tokens, layer l. -/
def Region.pageIndex (r : Region) (q : Req) (k l : Nat) : Nat := (q.vlen / r.ppos + k) * r.layers + l

/-- The request stops inserting (R270). -/
def State.stopInsert (s : State) (i : Nat) : State := s.modReq i fun q => { q with stopInsert := true }

/-- A block is a node of the tree for the request now: it hangs its next block on it, and binds its handle when it is the
last (R270, R271, R275). -/
def State.blockDone (s : State) (n i k node : Nat) : State :=
  let s := s.modReq i fun q => { q with nodes := q.nodes ++ [node], lastNode := node, nextBlock := k + 1 }
  let q := s.req i
  let r := s.region n
  if q.handle ≠ 0 ∧ s.handleNode n q.handle = none ∧ k + 1 = r.shareBlocks q ∧ r.handles.length < 65536 then
    (s.bindHandle n q.handle node).modNode n node
      fun x => { x with refcnt := x.refcnt + 1 }
  else s

/-- Room for a new node: a number and a bucket, evicting where R267 and R272 say so. -/
def State.nodeRoom (s : State) (n : Nat) (h : W64) : State × Option (Nat × Nat) :=
  let r := s.region n
  let s := if r.nodesUsed.length < r.nodeCap then s
    else match s.victim n r.nodesUsed with
      | some k => s.evictNode n k
      | none => s
  let used := (s.region n).nodesUsed
  match (firstFree used 1).head? with
  | none => (s, none)
  | some num =>
    if r.nodeCap ≤ num then (s, none)
    else
      match (probes h).find? fun b => !bitAt (s.bucket n b) 0 with
      | some b => (s, some (num, b))
      | none =>
        match s.victim n (s.probed n h) with
        | none => (s, none)
        | some v =>
          let b := (probes h).find? fun b => decide (fld (s.bucket n b) 20 1 = v)
          (s.evictNode n v, b.map fun b => (num, b))

/-- Insert block k of request i as a node, or match one that stands there (R270, R271). -/
def State.insertBlock (s : State) (n i k : Nat) : State :=
  let q := s.req i
  let r := s.region n
  let toks := r.blockTokens q k
  let ph : W64 := if q.lastNode = noParent then 0 else (s.node n q.lastNode).hash
  let h := blockHash ph q.domain q.variant r.ppos toks
  if q.lastNode ≠ noParent ∧ (s.node n q.lastNode).dead then s.stopInsert i
  else
    let same := fun j =>
      let x := s.node n j
      !x.dead && decide (x.hash = h) && decide (x.domain = q.domain) && decide (x.variant = q.variant) &&
      decide (x.parent = q.lastNode)
    match (s.probed n h).find? same with
    | some j =>
      if (s.node n j).tokens = toks then (s.takeRef n j).blockDone n i k j
      else (s.modRegion n fun r => { r with collide := satAdd r.collide 1 }).stopInsert i
    | none =>
      match s.nodeRoom n h with
      | (s, none) => s.stopInsert i
      | (s, some (num, b)) =>
        let at_ := (List.range r.layers).map fun l => s.entryAddr n i 0 (r.pageIndex q k l)
        let es := at_.map fun a => s.word a ||| 2
        let s := s.writeOwn ((at_.zip es).map fun (x : Nat × W64) => (x.1, leBytes 8 x.2.toNat))
        let x : Node := {
          hash := h, domain := q.domain, variant := q.variant, parent := q.lastNode, refcnt := 1, depth := k, dead := false,
          children := 0, lastuse := s.gc, tokens := toks, pages := es }
        let s := (s.putNode n num x).putBucket n b (1 + 2 * num)
        let s := if q.lastNode = noParent then s else s.modNode n q.lastNode fun p => { p with children := p.children + 1 }
        let s := s.modRegion n fun r => { r with nodesUsed := r.nodesUsed ++ [num] }
        ((s.bumpGen n i 0).notice n x true).blockDone n i k num

/-- Every layer of block k of request i has been appended, and no append is provisional any more (R270). -/
def State.blockAppended (s : State) (n i k : Nat) : Bool :=
  let q := s.req i
  let r := s.region n
  match r.geom0 with
  | none => false
  | some g =>
    (List.range g.nl).all fun l => (List.range g.ppos).all fun t => (List.range (2 * g.kvh)).all fun w =>
      r.kvMarks.contains (i, l, q.vlen + k * g.ppos + t, w)

/-- Insert a request's blocks that are due, in order. -/
def State.insertDue : Nat → State → Nat → Nat → State
  | 0, s, _, _ => s
  | fuel + 1, s, n, i =>
    let q := s.req i
    let r := s.region n
    if q.stopInsert || decide (r.shareBlocks q ≤ q.nextBlock) || !s.blockAppended n i q.nextBlock then s
    else (s.insertBlock n i q.nextBlock).insertDue fuel n i

/-- Nodes fetched from a peer: each that continues the request's chain is copied into the request's own pages and becomes a
local node; the first that does not is computed as prompt, and so is what follows it (R274). -/
def State.takeFetched : State → Nat → Nat → List FetchedNode → State
  | s, _, _, [] => s
  | s, n, i, f :: rest =>
    let q := s.req i
    let r := s.region n
    let k := q.nextBlock
    let ph : W64 := if q.lastNode = noParent then 0 else (s.node n q.lastNode).hash
    let size := match r.geom0 with | some g => 2 * g.keyBytes | none => 4096
    if q.stopInsert || decide (r.shareBlocks q ≤ k) || decide (f.parentHash ≠ ph) || decide (f.tokens ≠ r.blockTokens q k) ||
        decide (f.domain.toNat ≠ q.domain) || decide (f.variant.toNat ≠ q.variant) || decide (f.pages.length ≠ r.layers) ||
        decide (f.hash ≠ blockHash ph q.domain q.variant r.ppos f.tokens) then s
    else
      let dst := (List.range r.layers).map fun l => fld (s.word (s.entryAddr n i 0 (r.pageIndex q k l))) 47 12 * 4096
      let s := s.writeOwn ((dst.zip f.pages).map fun (x : Nat × List Byte) => (x.1, x.2.take size))
      let s := s.insertBlock n i k
      if (s.req i).nextBlock = k then s
      else (s.modReq i fun q => { q with hitBlocks := k + 1, promptDone := (k + 1) * r.ppos, seqlen := q.vlen + (k + 1) * r.ppos }).takeFetched n i rest

end Sys2Proof.Machine
end

