-- ==== Sys2Proof/Machine/EndStep.lean ====
section
/-! DEFINITION. Order 2 of a step boundary (Table 9-4): the ends of the step (09: R298 to R304, Table 9-5; 10: R329, R330, R333;
11: R348, R350, R353), and the digest ring (13: R411, R412, R414; 14: R437, R439). -/

namespace Sys2Proof.Machine

/-! ## The digest ring (R411 to R414, R437, R439) -/

/-- Write one entry to a region's digest ring, whose room has been checked: GAP, POSTED and PHASE are set now. -/
def State.writeDig (s : State) (n : Nat) (e : DigEntry) : State :=
  let r := s.digRing n
  let w0 := if !e.trace && r.owed then wordAt e.words 0 ||| (1#64 <<< 17) else wordAt e.words 0
  let w5 := if e.trace then wordAt e.words 5 else s.gc
  let w7 : W64 := if r.phase then 1#64 <<< 63 else 0
  let ws := [w0, wordAt e.words 1, wordAt e.words 2, wordAt e.words 3, wordAt e.words 4, w5, wordAt e.words 6, w7]
  let t := (r.tail + 1) % ringSize r.sz
  let s := s.writeEntry (s.digestVia n) (r.base + BitVec.ofNat 64 (64 * r.tail)) ws true
  let s := s.setDigRing n { r with
    tail := t, used := r.used + 1, owed := r.owed && e.trace, phase := if t = 0 then !r.phase else r.phase }
  s.signal r.ien r.vector

/-- Post entries while the ring has room: the state, and the entries that wait. -/
def postDigs (n : Nat) : State → List DigEntry → State × List DigEntry
  | s, [] => (s, [])
  | s, e :: rest =>
    let r := s.digRing n
    if r.used < ringSize r.sz then postDigs n (s.writeDig n e) rest else (s, e :: rest)

/-- Post what waits for room; with the ring not enabled it is discarded and GAP is owed (R439). -/
def State.pumpDigs (s : State) (n : Nat) : State :=
  let r := s.digRing n
  let es := (s.region n).digWait
  if es.isEmpty then s
  else if !r.en then
    (s.setDigRing n { r with owed := true }).modRegion n fun x => { x with digWait := [] }
  else
    let (s, rest) := postDigs n s es
    s.modRegion n fun x => { x with digWait := rest }

/-- A layer digest record (Table 13-3), less GAP, POSTED and PHASE. -/
def LayerAcc.record (a : LayerAcc) (rid : Nat) (faulted overrun : Bool) (step : W32) (self : BitVec 14) : DigEntry :=
  let tx := a.first.isSome
  let x : Nat := match a.first with
    | none => 0
    | some (t, st) => t + 2 ^ 24 * fld st 34 28 + 2 ^ 31 * fld st 40 35 + 2 ^ 37 * fld st 47 41 + 2 ^ 44 * fld st 49 48
  { words := [
      BitVec.ofNat 64 (rid + 4 * a.layer + 2 ^ 14 * b2n tx + 2 ^ 15 * b2n faulted + 2 ^ 16 * b2n overrun + 2 ^ 32 * step.toNat),
      a.digest, BitVec.ofNat 64 (min (2 ^ 32 - 1) a.ntiles), BitVec.ofNat 64 (a.crush + 2 ^ 32 * a.ovf), BitVec.ofNat 64 x, 0,
      BitVec.ofNat 64 self.toNat],
    trace := false }

/-- A trace entry (Table 13-4). -/
def traceEntry (rid : Nat) (step : W32) (d : DigestMsg) : DigEntry :=
  { words := [BitVec.ofNat 64 (d.tidx + 2 ^ 24 * d.layer + 2 ^ 36 * rid), d.crc, d.status, BitVec.ofNat 64 step.toNat], trace := true }

/-- Post the step's digest records and traces, and clear the accumulator (R411, R414, R439); of a step that a Function Level Reset has
stopped none is posted (R479). Records of earlier boundaries that wait go first; trace entries without room are dropped. -/
def State.postDigests (s : State) (n : Nat) : State :=
  let r := s.region n
  let g := s.digRing n
  let room := ringSize g.sz - g.used - r.digWait.length - r.digest.length
  let fit := min room 65536
  let lost := r.overrun || decide (fit < r.traces.length)
  let layer := match r.trace with | some (l, _) => l | none => 4096
  let recs := r.digest.map fun a => a.record n (r.faulted || r.noEnd) (lost && decide (a.layer = layer)) r.stepNo s.self
  let es := if r.noDigest then [] else recs ++ (r.traces.take fit).map (traceEntry n r.stepNo)
  (s.modRegion n fun x => { x with
    digWait := x.digWait ++ es, digest := [], traces := [], overrun := false
    trace := match x.trace with | some (l, k + 2) => some (l, k + 1) | _ => none }).pumpDigs n

/-! ## Posting tokens (R298, R299, R322, R330) -/

/-- FIRSTTOK, LASTTOK, MAXGAP, GAPMISS and GENERATED after k tokens of one boundary, which share a tick (R298, R299). -/
def Req.noteTokens (r : Req) (tick : W64) (k : Nat) : Req :=
  if k = 0 then r
  else
    let gap := if r.generated = 0 then 0 else (tick - r.lasttok).toNat
    let miss := decide (r.generated ≠ 0) && decide (r.tbt ≠ 0) && decide (r.tbt < gap)
    { r with
      firsttok := if r.generated = 0 then tick else r.firsttok, lasttok := tick
      maxgap := max r.maxgap (min gap (2 ^ 32 - 1)), gapmiss := min 0xFFFF (r.gapmiss + b2n miss)
      generated := r.generated + k }

/-- Count one posted token in the sampler record and keep it in the recent ring (R320, R322). -/
def State.countToken (s : State) (n i : Nat) (tok : W32) (ordinal : Nat) : State :=
  let r := s.req i
  let a := s.recordAddr n i
  let x := countInRecord s.mem a tok.toNat (r.vlen + r.promptLen + ordinal - 1)
  let m := writeLe x.1 (a + 33280 + 4 * ((ordinal - 1) % 32)) 4 tok.toNat
  (({ s with mem := m }).settleLost []).modReq i fun r => { r with evicted := min (2 ^ 32 - 1) (r.evicted + x.2), lastToken := tok }

/-- The TOKENS payload (R431). -/
def tokensPayload (first : Nat) (ts : List W32) : List W64 :=
  BitVec.ofNat 64 (first + 2 ^ 10 * ts.length) ::
    (List.range 5).map fun k => BitVec.ofNat 64 ((ts.getD (2 * k) 0).toNat + 2 ^ 32 * (ts.getD (2 * k + 1) 0).toNat)

/-- A completion entry reserved for a request's TOKENS is not needed after all; a DEMOTED that waits for an entry comes first
(R432). -/
def State.giveBack (s : State) (i : Nat) : State :=
  if (s.req i).noPost then s
  else (s.modQueue (s.req i).queue fun q => { q with reserved := q.reserved - 1 }).postHeld (s.req i).queue

/-- Post the tokens of a step for a request, in the entry reserved for them (R330). -/
def State.postTokens (s : State) (n i : Nat) (ts : List W32) : State :=
  if ts.isEmpty then s.giveBack i
  else
    let g := (s.req i).generated
    let s := (ts.mapIdx fun k t => (k, t)).foldl (fun (s : State) (x : Nat × W32) => s.countToken n i x.2 (g + 1 + x.1)) s
    let s := s.modReq i fun r => r.noteTokens s.gc ts.length
    s.postReq i .tokens Status.ok (tokensPayload (g + 1) ts) true

/-! ## Draft length (R333) -/

/-- Adapt the draft length by the drafts accepted of those present. -/
def Req.adapt (r : Req) (accepted present : Nat) : Req :=
  if present = 0 then r
  else
    let r := { r with
      drafted := min (2 ^ 32 - 1) (r.drafted + present), accepted := min (2 ^ 32 - 1) (r.accepted + accepted) }
    if accepted = 0 then
      if r.rejrun + 1 = 4 then { r with accrun := 0, rejrun := 0, kcur := max 1 (r.kcur / 2) }
      else { r with accrun := 0, rejrun := r.rejrun + 1 }
    else if accepted = present then
      if r.accrun + 1 = 8 then { r with rejrun := 0, accrun := 0, kcur := min r.kmax (2 * r.kcur) }
      else { r with rejrun := 0, accrun := r.accrun + 1 }
    else { r with rejrun := 0, accrun := 0 }

/-! ## Ends (Table 9-5) -/

/-- End a request: a REVOKE is left where R351 asks for one, and the END completion is posted. -/
def State.endWith (s : State) (i status : Nat) : State := (s.leaveRevoke i status).endReq i status

/-- The status of a request whose end is forced: one whose handoff token has been sent is only released (R313, R354). -/
def Req.forcedStatus (r : Req) (status : Nat) : Nat :=
  if !r.tokenSent then status else if r.tokenAcked then Status.handedOff else Status.handoffUnconfirmed

/-- The class's LATE_POLICY. -/
def Region.latePolicy (r : Region) (k : Nat) : Bool :=
  match r.setup with | some su => (su.classes.getD k {}).latePolicy | none => false

/-- A request has a deadline that lies before the boundary's posting tick (R304). -/
def State.pastDeadline (s : State) (i : Nat) : Bool :=
  match (s.req i).deadline with | some d => decide (d < s.gc.toNat) | none => false

/-- Set LATE, counting requests newly marked. -/
def State.markLate (s : State) (i : Nat) : State :=
  let r := s.req i
  if r.late then s
  else (s.modReq i fun r => { r with late := true }).modRegion r.region fun x => { x with latecnt := satAdd x.latecnt 1 }

/-- The first of orders 1 to 6 of Table 9-5 that holds for a request, `x` being its part of the step that has ended. -/
def State.earlyEnd (s : State) (n i : Nat) (x : Option StepReq) (late : Bool) : Option Nat :=
  let r := s.region n
  let q := s.req i
  let inStep : (StepReq → Bool) → Bool := fun f => match x with | some y => f y | none => false
  if r.faulted && !r.noEnd && x.isSome then some Status.programFault
  else if q.walkRace || inStep (·.race) then some Status.ptRace
  else if q.walkInvalid || inStep (·.invalid) then some Status.ptInvalid
  else if inStep (·.readonly) then some Status.ptReadonly
  else if r.aborts q then some (q.forcedStatus Status.aborted)
  else if q.walkLimit || inStep (·.limit) then some Status.pageLimit
  else if late && r.latePolicy q.cls then some Status.late
  else none

/-- A request enters HANDOVER, or ends where its handoff has failed (R353). -/
def State.toHandover (s : State) (i : Nat) : State :=
  if (s.req i).failed then s.endWith i Status.handoffFailed
  else (s.modReq i fun r => { r with state := .handover }).trySendToken i

/-- The rows of rejected and discarded positions do not count as appended any more (R345). -/
def State.dropRejected (s : State) (n i : Nat) : State :=
  let q := s.req i
  let h := s.header n i 0
  let below := fun (p : Nat) => match (if q.ring then h.local? p else some p) with
    | some lam => decide (lam < q.seqlen)
    | none => false
  s.modRegion n fun r => { r with kvMarks := r.kvMarks.filter fun x => decide (x.1 ≠ i) || below x.2.2.1 }

/-- The step's results of a request that goes on to order 7 of Table 9-5 (R329, R333, R345, R348). `acked` is its prompt
acknowledgement as sampled when order 2 began. -/
def State.stepResult (s : State) (n i : Nat) (x : StepReq) (acked : Bool) : State :=
  let q := s.req i
  let done := q.promptDone + x.grant
  if !x.lead && decide (done ≠ q.promptLen) then
    (s.giveBack i).modReq i fun r => { r with promptDone := done, seqlen := r.vlen + done }
  else
    let (ts, e) := s.leadResult n i x.tokens
    let s := s.modReq i fun r => { r with promptDone := r.promptLen }
    let s := s.postTokens n i ts
    let s := s.modReq i fun r => { r with seqlen := r.vlen + r.promptLen + max 1 r.generated - 1 }
    let s := s.dropRejected n i
    let s := if x.lead then s.modReq i fun r => r.adapt x.accepted x.present else s
    match e with
    | .ends st => s.endWith i st
    | .handover => (s.sendAccepted i).toHandover i
    | .goOn =>
      let s := s.modReq i fun r => { r with state := .lead }
      let s := s.sendAccepted i
      if q.handoff && acked then s.toHandover i else s

/-- Whether a request in HANDOVER ends, and how (R350, R353). -/
def Req.handoverEnd (r : Req) : Option Nat :=
  if r.state ≠ .handover then none
  else if r.tokenAcked then some Status.handedOff
  else if !r.failed then none
  else if r.tokenSent then some Status.handoffUnconfirmed
  else some Status.handoffFailed

/-- A request ends with its step's output discarded; the draft length is adapted by the drafts that the step verified (R333). -/
def State.endDiscarded (s : State) (i : Nat) (x : Option StepReq) (st : Nat) : State :=
  let s := match x with
    | some y => (s.giveBack i).modReq i fun q => if y.lead then q.adapt y.accepted y.present else q
    | none => s
  s.endWith i st

/-- How a request ends of which a port's walk has failed (R254, R258). -/
def Req.walkStatus (q : Req) : Option Nat :=
  if q.walkRace then some Status.ptRace else if q.walkInvalid then some Status.ptInvalid
  else if q.walkLimit then some Status.pageLimit else none

/-- The step's results of a request; where a walk fails as its accepted positions are sent, it ends instead with its step's output
discarded (R254, R258, R345; log 198). -/
def State.stepOrWalk (s : State) (n i : Nat) (y : StepReq) (acked : Bool) : State :=
  let t := s.stepResult n i y acked
  match (t.req i).walkStatus with
  | some st => s.endDiscarded i (some y) st
  | none => t

/-- Order 2 for one request. -/
def State.orderTwoReq (n : Nat) (acked : List Nat) (s : State) (i : Nat) : State :=
  let r := s.region n
  let x := if r.run = .waiting then none else r.stepReqs.find? fun y => decide (y.ridx = i)
  let late := decide (r.run ≠ .waiting) && s.pastDeadline i
  let s := if late then s.markLate i else s
  match s.earlyEnd n i x late with
  | some st => s.endDiscarded i x st
  | none =>
    match (s.req i).handoverEnd with
    | some st => s.endWith i st
    | none =>
      match x with
      | some y => s.stepOrWalk n i y (acked.contains i)
      | none =>
        let q := s.req i
        if r.run ≠ .waiting ∧ q.state = .lead ∧ q.handoff ∧ acked.contains i then s.toHandover i else s

/-- Order 2 of region n's boundary. After a step: the ends, the tokens and the digests; a boundary that only waits ends what
R350, R353 and the aborts end. -/
def State.orderTwo (s : State) (n : Nat) : State :=
  let r := s.region n
  let is := s.live n
  let acked := is.filter fun i =>
    let q := s.req i
    q.handoff && (decide (q.state = .prompt) || decide (q.state = .lead)) && s.ackedBelow i (q.vlen + q.promptLen)
  let s := if r.run ≠ .waiting ∧ r.faulted ∧ !r.noEnd then
      let x := r.faultRecs.headD 0
      s.postErrFor n 0x0012 (x.toNat % 2 ^ 64) (x.toNat / 2 ^ 64)
    else s
  let s := is.foldl (State.orderTwoReq n acked) s
  let s := s.modRegion n fun r => { r with abortAll := false }
  let s := if r.run ≠ .waiting then
      (s.postDigests n).modRegion n fun r => { r with run := .waiting, stepReqs := [] }
    else s
  s.sendRevokes

end Sys2Proof.Machine
end

