-- ==== Sys2Proof/Machine/Regions.lean ====
section
/-! DEFINITION. Release of ended requests, drains, and the creation and removal of regions (06: R191, R194, R204; 08: R263, R280;
09: R312, R313; 10: R321; 11: R352, R354; 15: R446, R450, R451, R462; 18: R510). -/

namespace Sys2Proof.Machine

/-! ## The serving registers (R510) -/

/-- Update the SRV_ registers of a region, all at once. -/
def State.takeShot (s : State) (n : Nat) : State :=
  let r := s.region n
  if !r.live then s
  else
    let mine := s.reqs.filter fun (x : Nat × Req) => decide (x.2.region = n) && decide (x.2.state ≠ .free)
    let guar := match r.setup with
      | some su => ((List.range 8).map fun k => 2 ^ k * b2n (su.classes.getD k {}).guar).foldl (· + ·) 0
      | none => 0
    let st := 1 + 2 * b2n r.sealed + 4 * b2n r.setup.isSome + 8 * b2n r.image.isSome + 16 * b2n (s.onHold n) +
      32 * b2n (!r.drains.isEmpty) + 2 ^ 6 * r.demoted.toNat + 2 ^ 14 * guar + 2 ^ 22 * r.nlead
    let q := (mine.filter fun (x : Nat × Req) => decide (x.2.state = .queued)).length
    s.modRegion n fun r => { r with shot := {
      state := BitVec.ofNat 32 st, step := r.stepNo, active := BitVec.ofNat 32 (mine.length + 2 ^ 16 * q)
      freepg0 := BitVec.ofNat 32 ((r.freePages 0).length - s.earmarked n 32768 fun x => x.earPages0)
      freepg1 := BitVec.ofNat 32 ((r.freePages 1).length - s.earmarked n 32768 fun x => x.earPages1)
      tblfree := BitVec.ofNat 32 (tableBlocks - r.tblocks.length - s.earmarked n 32768 fun x => x.earBlocks)
      nodes := BitVec.ofNat 32 r.nodesUsed.length } }

/-! ## Release (R263, R321, R352) -/

/-- Numbers of the page-list blocks of a request and slot: its table blocks after its directory blocks. -/
def Region.listBlocks (r : Region) (i slot : Nat) : List Nat :=
  let bs := (r.tblocks.filter fun b => decide (b.ridx = i) && decide (b.slot = slot) && !b.scrubbing).map (·.n)
  bs.drop (ceilDiv bs.length 513)

/-- Addresses of a request's own pages of a slot: those whose entries are valid and have RO = 0. -/
def State.ownPages (s : State) (n i slot : Nat) : List Nat :=
  ((s.region n).listBlocks i slot).flatMap fun b =>
    (List.range 512).filterMap fun j =>
      let e := s.word (s.blockAddr n b + 8 * j)
      if bitAt e 0 && !bitAt e 1 then some (fld e 47 12 * 4096) else none

/-- The entry becomes FREE; its queue has one unfinished submission less (R284, R425). -/
def State.freeEntry (s : State) (i : Nat) : State :=
  let q := s.req i
  let s := if q.noPost then s else s.modQueue q.queue fun x => { x with unfinished := x.unfinished - 1 }
  s.setReq i {}

/-- Release an ended request (R263): references are dropped, its own pages and table blocks go to be zeroed, its headers and
its sampler record are zeroed, and its entry is free. -/
def State.releaseReq (s : State) (n i : Nat) : State :=
  let q := s.req i
  let p0 := s.ownPages n i 0
  let p1 := s.ownPages n i 1
  let s := q.nodes.foldl (fun (s : State) k => s.dropRef n k) s
  let s := if q.vuid = 0 then s
    else (s.modRegion n fun r => r.modVariant q.vuid fun v => { v with refs := v.refs - 1 }).dropVariants n
  let s := (s.scrubPages n 0 p0).scrubPages n 1 p1
  let s := s.modRegion n fun r => { r with
    tblocks := r.tblocks.map fun b => if b.ridx = i then { b with scrubbing := true } else b
    kvMarks := r.kvMarks.filter fun x => decide (x.1 ≠ i) }
  let s := (s.bumpGen n i 0).bumpGen n i 1
  let m := zeroBytes (zeroBytes s.mem (s.headerAddr n i 0) 128) (s.recordAddr n i) recordSize
  (({ s with mem := m }).settleLost [(s.recordAddr n i, recordSize)]).freeEntry i

/-- Order 4 of a boundary: release every ended request of the region whose writes have all been acknowledged (R352). -/
def State.releaseEnded (s : State) (n : Nat) : State :=
  ((s.reqs.filter fun (x : Nat × Req) =>
    decide (x.2.region = n) && decide (x.2.state = .ended) && x.2.hoOut.isEmpty).map (·.1)).foldl
    (fun (s : State) i => s.releaseReq n i) s

/-! ## Drains (R312, R313) -/

/-- Complete commands that waited for the last release. -/
def State.finishCmds (s : State) (bs : List BCmd) : State :=
  bs.foldl (fun (s : State) b => s.cmdDone b.queue b.hosttag Status.ok []) s

/-- No request of a kind that was accepted before a command was fetched awaits release (R312). -/
def State.noneLeft (s : State) (f : Req → Bool) (b : BCmd) : Bool :=
  s.reqs.all fun (x : Nat × Req) => decide (x.2.state = .free) || !f x.2 || decide (b.upTo ≤ x.2.order)

/-- Complete, of the commands that wait for a target's requests, those whose requests are all released; the others are answered. -/
def State.drainSome (s : State) (f : Req → Bool) (bs : List BCmd) : State × List BCmd :=
  (s.finishCmds (bs.filter (s.noneLeft f)), bs.filter fun b => !s.noneLeft f b)

/-- Complete the DISABLEs whose targets have no such request awaiting release any more. -/
def State.finishDrains (s : State) : State :=
  let s := (List.range 4).foldl (fun (s : State) n =>
    if (s.region n).drains.isEmpty then s
    else
      let x := s.drainSome (fun r => decide (r.region = n)) (s.region n).drains
      x.1.modRegion n fun r => { r with drains := x.2 }) s
  let s := (s.hif.queues.filter fun (x : Nat × Queue) => !x.2.drain.isEmpty).foldl (fun (s : State) (y : Nat × Queue) =>
    let x := s.drainSome (fun r => decide (r.queue = y.1)) y.2.drain
    x.1.modQueue y.1 fun q => { q with drain := x.2 }) s
  let x := s.drainSome (·.handoff) s.ho.drains
  { x.1 with ho := { x.1.ho with drains := x.2 } }

/-- End every request of a kind, as a forced DISABLE does (R313). -/
def State.forceEnd (s : State) (n : Nat) (f : Req → Bool) : State :=
  ((s.live n).filter fun i => f (s.req i)).foldl
    (fun (s : State) i => s.endWith i ((s.req i).forcedStatus Status.aborted)) s

/-! ## Removal (R194, R204, R280) -/

/-- A region is gone: its requests' entries are free, its pools, tables, nodes, handles, variants and groups are discarded
without scrubbing, and its key slots are erased. Commands that wait for the region go on waiting in order. -/
def State.eraseRegion (s : State) (n : Nat) : State :=
  let r := s.region n
  let s := ((s.reqs.filter fun (x : Nat × Req) => decide (x.2.region = n) && decide (x.2.state ≠ .free)).map (·.1)).foldl
    State.freeEntry s
  let m := zeroBytes (zeroBytes s.mem (t1Base n) r.t1Size) (t2Base n) r.t2Size
  let out := fun (x : Nat × Nat × Nat × W64) => decide (x.1 ≠ n)
  let s := { s with
    mem := m
    att := { s.att with wcW := s.att.wcW.filter out, wcE := s.att.wcE.filter out } }
  let s := ((s.eraseKeys n).setRegion n { bcmds := r.bcmds }).finishCmds (r.drains ++ r.removals.map (·.1))
  s

/-- The last step of a debug unlock: DEBUG is set once every region is removed (R462). -/
def State.finishUnlock (s : State) : State :=
  if s.sec.unlocking && (List.range 4).all fun n => !((s.region n).live && (s.region n).removing) then
    { s with sec := { s.sec with unlocking := false, debug := true } }
  else s

/-- Every request of the region is free, or is ended with its writes acknowledged. -/
def State.mayErase (s : State) (n : Nat) : Bool :=
  s.reqs.all fun (x : Nat × Req) =>
    decide (x.2.region ≠ n) || decide (x.2.state = .free) || (decide (x.2.state = .ended) && x.2.hoOut.isEmpty)

/-- Remove a region: a forced disable of what is in flight, then R280; while writes to the partner are outstanding the
removal waits for them (R313, R352). -/
def State.removeRegion (s : State) (n : Nat) : State :=
  let s := s.modRegion n fun r => { r with removing := true, disabled := true }
  let s := s.forceEnd n fun _ => true
  if s.mayErase n then s.eraseRegion n else s

/-! ## Creation (R194, R204, R450) -/

/-- The fields of a region descriptor (Table 6-5). -/
def regionOf (w : W64) : Region :=
  { live := true, bands := fld w 3 2, gfirst := fld w 6 4, glast := fld w 9 7, sealed := bitAt w 10, w1 := fld w 19 16,
    w2 := fld w 23 20, w3 := fld w 27 24, descriptor := w }

/-- A descriptor that Table 6-6 refuses with REGION_SHAPE. -/
def badShape (w : W64) : Bool :=
  let r := regionOf w
  decide (fld w 15 11 ≠ 0) || decide (fld w 63 28 ≠ 0) || decide (r.bands = 0) || decide (5 < r.gfirst) || decide (5 < r.glast) ||
  decide (r.glast < r.gfirst) || decide (3 < r.gfirst) || decide (r.glast < 2) || decide (r.w1 = 0) || decide (14 < r.w1) ||
  decide (r.w2 = 0) || decide (14 < r.w2) || decide (r.w3 = 0) || decide (14 < r.w3) || decide (r.w1 + r.w2 + r.w3 ≠ 16)

/-- The region contains an end of a mesh link that is lost (R498). -/
def State.linkLost (s : State) (r : Region) : Bool :=
  s.map.lostLinks.any fun x => [x.1, x.2].any fun p => match s.routerFrame p with
    | some f => r.holdsFrame s.nv f
    | none => false

/-- A lost package, a frame out of service, or an end of a lost mesh link lies in the region (R32, R495, R498). -/
def State.regionLost (s : State) (r : Region) : Bool :=
  s.linkLost r ||
  ((r.frameList s.nv).any fun f => (s.positionOf f).isNone) ||
  (r.t1List.any fun c => decide ((s.t1 c).state = 3)) || r.t2List.any fun c => decide ((s.t2 c).state = 3)

/-- Table 6-6: the refusal of a region descriptor, if any. -/
def State.regionRefusal (s : State) (w : W64) : Option Nat :=
  let r := regionOf w
  if badShape w then some Status.regionShape
  else if (s.region (fld w 1 0)).live ∨
      (List.range 4).any (fun n => r.unitList.any fun u => (s.region n).holdsUnit u.1 u.2) then some Status.regionBusy
  else if s.regionLost r then some Status.regionFrameLost
  else none

/-- The firmware digest D and SVN of the running image. -/
def State.fwD (s : State) : List Byte := match s.sec.running with | some f => f.digest | none => []

/-- The running SVN. -/
def State.fwSvn (s : State) : Nat := match s.sec.running with | some f => f.svn | none => 0

/-- The wrap key's private scalar (Table 15-2). -/
def State.wrapPrivate (s : State) : List Byte :=
  shake256 (Config.dus ++ s.fwD ++ leBytes 1 s.fwSvn ++ [0x77, 0x72, 0x61, 0x70]) 56

/-- Unwrap a sealed key blob for a descriptor (R450): the key pair, or nothing where a check fails. -/
def State.unseal (s : State) (desc : W64) (blob : List Byte) : Option (List Byte) :=
  let epub := (blob.drop 4).take 56
  let z := Config.x448 s.wrapPrivate epub
  let kek := shake256 (z ++ [0x46, 0x50, 0x32, 0x20, 0x73, 0x65, 0x61, 0x6C] ++ epub) 32
  let aad := blob.take 128 ++ leBytes 8 desc.toNat ++ s.fwD
  if blob.length ≠ 208 ∨ leNat (blob.take 4) ≠ 0x4C533246 ∨ ((blob.drop 117).take 11).any (fun b => decide (b ≠ 0)) ∨
      z.all (fun b => decide (b = 0)) then none
  else Config.aesGcmOpen kek aad ((blob.drop 128).take 64) ((blob.drop 192).take 16)

/-- SEAL_ID of a blob (R451). -/
def sealId (blob : List Byte) : List Byte := shake256 blob 32

/-- Create a region at a boundary: the status, and the state. -/
def State.createRegion (s : State) (w : W64) (blob : HostRead) : Nat × State :=
  match s.regionRefusal w with
  | some st => (st, s)
  | none =>
    let n := fld w 1 0
    let keep := (s.region n).bcmds
    if !bitAt w 10 then
      let k := Config.randomKeys s.mc.keyDraws
      let t := s.loadKeys n (regionOf w) k
      (Status.ok, ({ t with mc := { t.mc with keyDraws := t.mc.keyDraws + 1 } }).setRegion n { regionOf w with bcmds := keep })
    else if s.sec.debug || s.sec.unlocking then (Status.sealedDeny, s)
    else
      match blob with
      | none => (Status.sealInvalid, s)
      | some b =>
        match s.unseal w b with
        | none => (Status.sealInvalid, s)
        | some k =>
          (Status.ok, (s.loadKeys n (regionOf w) k).setRegion n
            { regionOf w with bcmds := keep, sealId := sealId b, tpub := (b.drop 60).take 57 })

end Sys2Proof.Machine
end

