-- ==== Sys2Proof/Machine/ImageLoad.lean ====
section
/-! DEFINITION. The checks of a program image (14: R435, Table 14-9; 00: R6; 04: R118; 05: R152; 07: R209; 10: R323; 12: R370,
R372) and what loading it does. -/

namespace Sys2Proof.Machine

/-! ## The header (Table 14-9) -/

/-- Segment k of a header: offset and length. -/
def segment (h : List W64) (k : Nat) : Nat × Nat := ((wordAt h (2 + 2 * k)).toNat, fld (wordAt h (3 + 2 * k)) 31 0)

/-- The bytes of a segment. -/
def segBytes (b : List Byte) (x : Nat × Nat) : List Byte := (b.drop x.1).take x.2

/-- Two byte ranges meet; an empty one meets nothing. -/
def overlap (a b : Nat × Nat) : Bool :=
  decide (0 < a.2) && decide (0 < b.2) && decide (a.1 < b.1 + b.2) && decide (b.1 < a.1 + a.2)

/-- Some two ranges of a list meet. -/
def anyOverlap : List (Nat × Nat) → Bool
  | [] => false
  | x :: r => r.any (overlap x) || anyOverlap r

/-- The lead widths below C that a header lists, rising. -/
def listedWidths (h : List W64) (c : Nat) : List Nat :=
  (List.range 24).filterMap fun i => if bitAt (wordAt h 1) (10 + i) && decide (i + 1 < c) then some (i + 1) else none

/-- The 64 entry pcs. -/
def entryPcs (b : List Byte) : List Nat := (List.range 64).map fun i => leNat ((b.drop (4 * i)).take 4)

/-- The header, or what R435 asks of the segments, is malformed. -/
def badImage (b : List Byte) (length c : Nat) : Bool :=
  let h := wordsOf 18 b
  let segs := (List.range 7).map (segment h)
  let w0 := wordAt h 0
  decide (b.length < 144) || decide (length < 144) || decide (fld w0 31 0 ≠ 0x32504601) || decide (fld w0 47 32 ≠ 1) ||
  decide (fld w0 63 49 ≠ 0) || decide (fld (wordAt h 1) 63 34 ≠ 0) || decide (wordAt h 16 ≠ 0) || decide (wordAt h 17 ≠ 0) ||
  (List.range 7).any (fun k => decide (fld (wordAt h (3 + 2 * k)) 63 32 ≠ 0) || decide ((wordAt h (2 + 2 * k)).toNat % 64 ≠ 0)) ||
  segs.any (fun x => decide (length < x.1 + x.2)) || anyOverlap ((0, 144) :: segs) ||
  decide ((segment h 4).2 ≠ 128) || decide ((segment h 5).2 ≠ 256) ||
  decide ((segment h 6).2 ≠ ((listedWidths h c).length + 1) * 1327104) ||
  (entryPcs (segBytes b (segment h 5))).any fun p => decide (p % 8 ≠ 0) || decide (0x20000 ≤ p)

/-! ## The segments -/

/-- A segment as descriptors of n words each. -/
def descsOf (n : Nat) (b : List Byte) : List (List W64) :=
  (List.range (b.length / (8 * n))).map fun i => wordsOf n (b.drop (8 * n * i))

/-- A chain segment is refused: an instruction is malformed by itself, whatever the value before it (R152, R156). -/
def badChainSeg (b : List Byte) : Bool :=
  decide (b.length % 8 ≠ 0) ||
  (wordsOf (b.length / 8) b).any fun w => (chainFields w).bad false && (chainFields w).bad true

/-- A sampler descriptor is malformed (R323). -/
def State.badSamp (s : State) (n : Nat) (w : List W64) : Bool :=
  let g := fun k hi lo => fld (wordAt w k) hi lo
  let p := sampFields w
  let r := s.region n
  let x := sampRects w
  let rects := (List.range 4).filterMap fun e => attRect x e
  let sets := rects.map fun y => rectFrames s.nv y.1 y.2
  let holds := fun f => r.holdsFrame s.nv f
  decide (g 0 63 21 ≠ 0) || decide (g 1 63 48 ≠ 0) || decide (g 2 63 48 ≠ 0) || decide (g 3 63 36 ≠ 0) ||
  decide (g 4 63 36 ≠ 0) || decide (g 5 63 46 ≠ 0) || decide (g 6 63 23 ≠ 0) || decide (wordAt w 7 ≠ 0) ||
  decide (131072 < p.vocab) || decide (t1Base n + r.t1Size ≤ p.logaddr) || !s.inWindows n p.logaddr || !s.inWindows n p.tokaddr ||
  decide (g 0 20 17 = 0) || (List.range 4).any (fun e =>
    ((g 0 20 17).testBit e && !r.holdsStop (.engine e)) ||
    (!(g 0 20 17).testBit e && decide (fld (wordAt w (if e < 2 then 3 else 4)) (18 * (e % 2) + 17) (18 * (e % 2)) ≠ 0))) ||
  rects.any (fun y => decide (s.nv.frames ≤ y.1) || decide (s.nv.frames ≤ y.2)) ||
  sets.any (fun fs => decide (fs.length < 2) || decide (128 < fs.length) || fs.any fun f => !holds f) ||
  hasDup (sets.flatMap fun y => y) || !holds p.wframe || !holds p.dfirst || !holds p.dlast

/-- The sampler segment is refused (R323). -/
def State.badSampSeg (s : State) (n : Nat) (ds : List (List W64)) : Bool :=
  let d0 := ds.getD 0 []
  let d1 := ds.getD 1 []
  d0.all (fun w => decide (w = 0)) || s.badSamp n d0 || (!d1.all (fun w => decide (w = 0)) && s.badSamp n d1)

/-- Reserved bits of a collective descriptor are 0 (Table 12-5). -/
def collReserved (w : List W64) : Bool :=
  let z := fun k lo => decide (fld (wordAt w k) 63 lo = 0)
  !bitAt (wordAt w 0) 31 && z 1 48 && z 2 48 && z 3 44 && z 5 48 && z 6 48 && z 7 44 && z 8 46 && z 9 23 && z 10 14 && z 11 48 &&
  z 12 48 && z 13 31 && z 14 0 && z 15 0

/-- A collective descriptor is malformed by itself (R372). DESIGN CHOICE: the source and destination fields of a BARRIER, of which no value
encodes a length of 0, are not looked at (log 221). -/
def State.badColl (s : State) (n : Nat) (w : List W64) : Bool :=
  let p := collFields w
  let holds := fun f => (s.region n).holdsFrame s.nv f
  let len := p.srow * p.snrows
  let dst := p.drow * p.dnrows
  !collReserved w || decide (8 < p.op) || decide (8 < fld (wordAt w 0) 30 27) ||
  (if p.op ≤ 1 then !redFormats p.efmt p.afmt else p.red || decide (p.efmt ≠ 0) || decide (p.afmt ≠ 0)) ||
  !holds p.wframe || !holds p.dfirst || !holds p.dlast ||
  (decide (p.op = 0) && decide (dst * (fmtBits p.efmt / 8) ≠ len * (fmtBits p.afmt / 8))) ||
  ([3, 5, 6, 7].contains p.op && decide (dst ≠ len))

/-- The collective segment is refused (R370, R372). -/
def State.badCollSeg (s : State) (n : Nat) (cs as : List (List W64)) : Bool :=
  let os := cs.map fun w => (collFields w).ordinal.toNat
  let rings := (as.map attFields).filter (·.ring)
  cs.any (s.badColl n) || hasDup os ||
  rings.any fun a => os.any fun o => decide (a.rord.toNat ≤ o) && decide (o ≤ a.rord.toNat + 63)

/-! ## Loading -/

/-- The words of a segment as a store's contents; zeros are not listed. -/
def storeWords (b : List Byte) : SMap W64 :=
  ((wordsOf (ceilDiv b.length 8) b).mapIdx fun i w => (i, w)).filter fun (x : Nat × W64) => decide (x.2 ≠ 0)

/-- The status of a load of an image into region n, in the order of R435. -/
def State.imageStatus (s : State) (n : Nat) (b : List Byte) (length : Nat) : Nat :=
  let c := (s.region n).cols s.nv
  let h := wordsOf 18 b
  let seg := fun k => segBytes b (segment h k)
  let len := fun k => (segment h k).2
  if s.reqs.any (fun (x : Nat × Req) => decide (x.2.region = n) && decide (x.2.state ≠ .free)) then Status.imageBusy
  else if badImage b length c then Status.imageMalformed
  else if fld (wordAt h 1) 0 0 ≠ b2n s.nv.grade352 ∨ fld (wordAt h 1) 9 1 ≠ s.nv.frames then Status.gradeMismatch
  else if 0x20000 < len 0 then Status.codeTooLarge
  else if 0x1000 < len 1 then Status.codeTooLarge
  else if badChainSeg (seg 1) then Status.chainInvalid
  else if len 2 % 128 ≠ 0 ∨ 0x20000 < len 2 ∨ (descsOf 16 (seg 2)).any (s.badAtt n) then Status.attInvalid
  else if s.badSampSeg n (descsOf 8 (seg 4)) then Status.samplerInvalid
  else if len 3 % 128 ≠ 0 ∨ 0x20000 < len 3 ∨ s.badCollSeg n (descsOf 16 (seg 3)) (descsOf 16 (seg 2)) then Status.collInvalid
  else Status.ok

/-- The image of a byte string for a region of c columns. -/
def imageOf (b : List Byte) (c : Nat) : Image :=
  let h := wordsOf 18 b
  let seg := fun k => segBytes b (segment h k)
  { novary := bitAt (wordAt h 0) 48, leadw := listedWidths h c, attention := descsOf 16 (seg 2), collective := descsOf 16 (seg 3),
    sampler := descsOf 8 (seg 4), entries := entryPcs (seg 5), bounds := seg 6, code := seg 0, chain := seg 1 }

/-- Put an image in force: every frame of the region holds its code and chain segments, and the stochastic-rounding seeds and
counts are 0 (R53, R118, R152). -/
def State.loadImage (s : State) (n : Nat) (b : List Byte) : State :=
  let r := s.region n
  let im := imageOf b (r.cols s.nv)
  let i := storeWords im.code
  let k := storeWords im.chain
  let s := (r.frameList s.nv).foldl (fun (s : State) f => s.modFrame f fun fr => { fr with istore := i, cstore := k, ctxs := [] }) s
  s.modRegion n fun r => { r with image := some im }

/-- The image has a sampler descriptor 1 (R323). -/
def Image.hasDraft (im : Image) : Bool := !(im.sampler.getD 1 []).all fun w => decide (w = 0)

/-- The ring-attention descriptor of an image, if it has one (R234, R279). -/
def Region.ringDesc (r : Region) : Option AttP :=
  match r.image with
  | some im => (im.attention.map attFields).find? (·.ring)
  | none => none

end Sys2Proof.Machine
end

