-- ==== Sys2Proof/Machine/Apply.lean ====
section
/-! DEFINITION. What commands do at order 3 of a step boundary (Table 9-4): 08: R244, R245, R260, R273, R275, R277, R278; 09: R295 to
R297, R307, R309, R313; 12: R364 to R366; 13: R408, R413; 14: R435; 15: R450. Fields whose bits no table gives stand one to a
payload word in the order of their table (log 39). -/

namespace Sys2Proof.Machine

/-! ## Requests -/

/-- CANCEL of a request of the region (R309, R354): the status. -/
def State.applyCancel (s : State) (n ridx : Nat) (tag : W32) : Nat × State :=
  let q := s.req ridx
  let open_ := decide (q.state = .queued) || decide (q.state = .prompt) || decide (q.state = .lead) ||
    (decide (q.state = .handover) && !q.tokenSent)
  if q.region = n ∧ q.hosttag = tag ∧ open_ then (Status.ok, s.endWith ridx Status.cancelled)
  else (Status.notCancelled, s)

/-- The requests that a DISABLE's target carries: a queue, a region or the partner (R310). -/
def targetOf (kind target : Nat) (r : Req) : Bool :=
  match kind with
  | 0 => decide (r.queue = target)
  | 1 => decide (r.region = target)
  | _ => r.handoff

/-! ## Serving -/

/-- Read a serving set-up (Table 9-6): the header in word 1, the class records from word 2. -/
def setupOf (e : Entry) : Setup :=
  { lowstate := fld (wordAt e 1) 3 2, stepMax := fld (wordAt e 1) 35 4,
    classes := (List.range 8).map fun k =>
      let a := wordAt e (2 + 2 * k)
      let b := wordAt e (3 + 2 * k)
      { guar := bitAt a 0, latePolicy := bitAt a 1, maxreq := fld a 16 2, maxprompt := fld a 35 17, ttft := fld b 31 0,
        tbt := fld b 63 32 } }

/-- SERVE_SETUP malformed under R11. -/
def badSetup (e : Entry) : Bool :=
  let u := setupOf e
  decide (u.lowstate = 3) || decide (u.stepMax < 10000) || decide (fld (wordAt e 1) 63 36 ≠ 0) || !zeroFrom e 18 ||
  (List.range 8).any fun k => decide (fld (wordAt e (2 + 2 * k)) 63 36 ≠ 0) ||
    (let c := u.classes.getD k {}
     decide (c.maxprompt = 0) || decide (262144 < c.maxprompt))

/-- SERVE_SETUP is applied (R295 to R297, R307): the status and payload. -/
def State.applySetup (s : State) (n : Nat) (u : Setup) : Nat × List W64 × State :=
  let r := s.region n
  match r.image with
  | none => (Status.noImage, [], s)
  | some im =>
    match s.checkSetup im u (fun k => (u.classes.getD k {}).guar) (r.cols s.nv) with
    | .refuse k short => (Status.setupInfeasible, [BitVec.ofNat 64 k, BitVec.ofNat 64 short], s)
    | .accept _ => (Status.ok, [], (s.modRegion n fun r => { r with setup := some u, demoted := 0 }).takeShot n)

/-- STEP_HOLD (R408). -/
def State.applyHold (s : State) (n : Nat) (until_ : W64) : State :=
  (s.modRegion n fun r => { r with hold := if s.gc < until_ then some until_ else none }).takeShot n

/-- DIGEST_TRACE (R413). -/
def State.applyTrace (s : State) (n layer count : Nat) : State :=
  s.modRegion n fun r =>
    if count = 0 then { r with trace := none, traceNext := none } else { r with traceNext := some (layer, count) }

/-! ## Pages -/

/-- The slot and geometry of a geometry word (Table 8-1). -/
def geomOf (w : W64) : Nat × Geom :=
  (fld w 0 0, { ppos := 16 * 2 ^ fld w 2 1, nl := fld w 10 3 + 1, kvh := fld w 18 11 + 1, hpass := fld w 20 19 + 1,
                kvfmt := BitVec.ofNat 5 (fld w 25 21) })

/-- KV_GEOMETRY's refusal with GEOMETRY_INVALID (R245). -/
def badGeom (w : W64) : Bool :=
  let g := (geomOf w).2
  decide (fld w 63 26 ≠ 0) || !isPageFmt g.kvfmt.toNat || decide (2097152 < g.nl * (262144 / g.ppos)) ||
  decide (0x400000 < g.pageSize)

/-- A request that is not FREE uses the slot, or the slot holds a page, variant or node (R245). -/
def State.geomBusy (s : State) (n slot : Nat) : Bool :=
  let r := s.region n
  s.reqs.any (fun (x : Nat × Req) => decide (x.2.region = n) && decide (x.2.state ≠ .free) && (decide (slot = 0) || decide (0 < x.2.kmax))) ||
  !(r.pool slot).isEmpty || (decide (slot = 0) && (!r.variants.isEmpty || !r.nodesUsed.isEmpty))

/-- KV_GEOMETRY (R244, R245). -/
def State.applyGeometry (s : State) (n : Nat) (w : W64) : Nat × State :=
  let x := geomOf w
  if badGeom w then (Status.geometryInvalid, s)
  else if s.geomBusy n x.1 then (Status.geometryBusy, s)
  else (Status.ok, s.modRegion n fun r => if x.1 = 0 then { r with geom0 := some x.2 } else { r with geom1 := some x.2 })

/-- Addresses of contiguous pages. -/
def pageRun (base size count : Nat) : List Nat := (List.range count).map fun i => base + i * size

/-- POOL_ADD (R260): the pages go to be scrubbed. -/
def State.applyPoolAdd (s : State) (n slot base count : Nat) : Nat × State :=
  let r := s.region n
  match r.geom slot with
  | none => (Status.poolRange, s)
  | some g =>
    let len := count * g.pageSize
    let meets := fun (sl : Nat) => match r.geom sl with
      | some x => (r.pool sl).any fun p => rangesMeet (base, len) (p.addr, x.pageSize)
      | none => false
    if !s.pageInside n base len then (Status.poolRange, s)
    else if meets 0 || meets 1 then (Status.poolOverlap, s)
    else
      let ps : List Page := (pageRun base g.pageSize count).map fun a => { addr := a, st := .scrubbing }
      (Status.ok, s.modRegion n fun r => r.setPool slot (r.pool slot ++ ps))

/-- POOL_REMOVE (R260): free pages leave at once, others when they are next freed; the command completes when all have
left. -/
def State.applyPoolRemove (s : State) (n slot base count : Nat) (b : BCmd) : Nat × State :=
  let r := s.region n
  match r.geom slot with
  | none => (Status.poolRange, s)
  | some g =>
    let ps := pageRun base g.pageSize count
    if !(ps.all fun a => (r.pool slot).any fun p => decide (p.addr = a)) then (Status.poolRange, s)
    else
      let s := s.modRegion n fun r => (r.setPool slot (((r.pool slot).filter fun p => !(ps.contains p.addr && decide (p.st = .free))).map
        fun p => if ps.contains p.addr then { p with leaving := true } else p))
      (Status.ok, (s.modRegion n fun r => { r with removals := r.removals ++ [(b, slot, ps)] }).finishRemovals n)

/-! ## Variants, prefixes and handles -/

/-- A number for a new copy of a variant. -/
def Region.newUid (r : Region) : Nat := (r.variants.map (·.uid)).foldl max 0 + 1

/-- VARIANT_LOAD (R277, R278): pages of slot 0's pool receive the copy, available from the next boundary. DESIGN CHOICE: where too few pages
are free it evicts no prefix leaves (log 216). -/
def State.applyVariantLoad (s : State) (n num vlen : Nat) (data : List Byte) : Nat × State :=
  let r := s.region n
  match r.geom0 with
  | none => (Status.variantInvalid, s)
  | some g =>
    if vlen % g.ppos ≠ 0 ∨ 131072 < vlen then (Status.variantInvalid, s)
    else
      let k := vlen / g.ppos * g.nl
      if s.freeFor n 32768 0 < k then (Status.variantSpace, s)
      else
        let ps := (r.freePages 0).take k
        let s := s.writeOwn (ps.mapIdx fun i a => (a, (data.drop (i * g.pageSize)).take (2 * g.keyBytes)))
        let s := s.modRegion n fun r => r.markPages 0 .used fun a => ps.contains a
        (Status.ok, s.modRegion n fun r => { r with
          variants := r.variants ++ [{ num := num, uid := r.newUid, vlen := vlen, pages := ps }] })

/-- VARIANT_UNLOAD (R278). -/
def State.applyVariantUnload (s : State) (n num : Nat) : Nat × State :=
  if !((s.region n).variants.any fun v => decide (v.num = num) && !v.unloading) then (Status.variantUnknown, s)
  else
    (Status.ok, (s.modRegion n fun r => { r with
      variants := r.variants.map fun v => if v.num = num then { v with unloading := true } else v }).dropVariants n)

/-- HANDLE_RELEASE (R275). -/
def State.applyHandleRelease (s : State) (n : Nat) (h : W64) : Nat × State :=
  match s.handleNode n h with
  | none => (Status.handleUnknown, s)
  | some k => (Status.ok, (s.unbindHandle n h).dropRef n k)

/-! ## Groups -/

/-- GROUP_SET malformed (Table 12-4). -/
def State.badGroup (s : State) (w0 w1 : W64) : Bool :=
  let g := groupFields w0 w1
  decide (fld w0 63 21 ≠ 0) || decide (fld w1 63 26 ≠ 0) || decide (g.racks.2 < g.racks.1) || decide (g.trays.2 < g.trays.1) ||
  decide (g.slots.2 < g.slots.1) || decide (s.nrack ≤ g.racks.2) || (g.pshare && !g.serving)

/-- The setting module lies outside a masked range. -/
def State.outsideGroup (s : State) (g : GroupD) : Bool :=
  let out := fun (x : Nat) (r : Nat × Nat) => decide (x < r.1) || decide (r.2 < x)
  (g.rack && out s.rackPos g.racks) || (g.tray && out s.tray g.trays) || (g.slot && out s.slotNo g.slots)

/-- The region may not take part in the group (R362). -/
def Region.lacksPorts (r : Region) (g : GroupD) : Bool :=
  ((g.slot || g.tray || g.rack) && decide (r.units < 12)) || (g.half && (decide (2 < r.gfirst) || decide (r.glast < 3)))

/-- GROUP_SET (R364 to R366, R452, R493). -/
def State.applyGroupSet (s : State) (n : Nat) (w0 w1 : W64) : Nat × State :=
  let g := groupFields w0 w1
  let r := s.region n
  if s.badGroup w0 w1 then (Status.groupMalformed, s)
  else if r.sealed ∧ fld w0 17 15 ≠ 0 then (Status.sealedDeny, s)
  else if s.outsideGroup g then (Status.groupOutside, s)
  else if r.lacksPorts g || s.needsDownPort g then (Status.groupPorts, s)
  else if (r.group? g.gid).isSome ∨ (g.serving ∧ r.servingGroup.isSome) then (Status.groupBusy, s)
  else if (g.drizzle ∨ g.pshare) ∧ 64 < (s.modules g).length then (Status.groupSize, s)
  else (Status.ok, s.modRegion n fun r => { r with groups := smPut r.groups g.gid { w0 := w0, w1 := w1 } })

/-- GROUP_CLEAR (R364, R509). -/
def State.applyGroupClear (s : State) (n gid : Nat) : State :=
  s.modRegion n fun r => { r with groups := smDel r.groups gid }

/-! ## All of them -/

/-- The outcome of a command that has been applied: complete with a status and payload, or wait. -/
inductive Applied where
  | done (status : Nat) (payload : List W64) (s : State)
  | waits (s : State)

/-- A pair of status and state. -/
def Applied.of (x : Nat × State) : Applied := .done x.1 [] x.2

/-- The bytes that DMA brought. -/
def hostBytes (h : HostRead) : List Byte := h.getD []

/-- Apply one command to region n (R256, R525). A region that does not exist refuses everything but its creation. -/
def State.applyOne (s : State) (n : Nat) (b : BCmd) : Applied :=
  let w := fun (e : Entry) (k : Nat) => (wordAt e k).toNat
  if !(s.region n).live then
    match b.cmd with
    | .regionCreate _ e blob => .of (s.createRegion (wordAt e 1) blob)
    | .disable _ _ => .waits s
    | .cancel _ _ => .done Status.notCancelled [] s
    | _ => .done Status.noRegion [] s
  else
    match b.cmd with
    | .regionCreate _ e blob => .of (s.createRegion (wordAt e 1) blob)
    | .regionRemove _ _ =>
      let t := s.removeRegion n
      if (t.region n).live then .waits (t.modRegion n fun r => { r with drains := r.drains ++ [{ b with upTo := t.hif.fetchOrder }] }) else .done Status.ok [] t
    | .cancel _ e => .of (s.applyCancel n (w e 1) (BitVec.ofNat 32 (w e 2)))
    | .disable _ e => .waits (s.forceEnd n (targetOf (w e 1) (w e 2)))
    | .serveSetup _ e =>
      let x := s.applySetup n (setupOf e)
      .done x.1 x.2.1 x.2.2
    | .stepHold _ e => .done Status.ok [] (s.applyHold n (wordAt e 2))
    | .digestTrace _ e => .done Status.ok [] (s.applyTrace n (w e 2) (w e 3))
    | .imageLoad _ e img =>
      match img with
      | none => .done Status.malformed [] s
      | some x =>
        let st := s.imageStatus n x (fld (wordAt e 2) 31 0)
        .done st [] (if st = Status.ok then s.loadImage n x else s)
    | .kvGeometry _ e => .of (s.applyGeometry n (wordAt e 1))
    | .poolAdd _ e => .of (s.applyPoolAdd n (w e 1) (w e 2) (w e 3))
    | .poolRemove _ e =>
      let x := s.applyPoolRemove n (w e 1) (w e 2) (w e 3) b
      if x.1 = Status.ok then .waits x.2 else .of x
    | .variantLoad _ e d =>
      if d.isNone then .done Status.malformed [] s else .of (s.applyVariantLoad n (w e 1) (w e 2) (hostBytes d))
    | .variantUnload _ e => .of (s.applyVariantUnload n (w e 1))
    | .prefixFlush _ e => .done Status.ok [] (s.flush n fun d => decide (w e 2 = 1) || decide (d = w e 1))
    | .handleRelease _ e => .of (s.applyHandleRelease n (wordAt e 1))
    | .groupSet _ e => .of (s.applyGroupSet n (wordAt e 1) (wordAt e 2))
    | .groupClear _ e => .done Status.ok [] (s.applyGroupClear n (fld (wordAt e 1) 11 0))
    | _ => .waits s

/-- Apply commands in fetch order; a removal that waits holds back those behind it. -/
def applyCmds (n : Nat) : State → List BCmd → State
  | s, [] => s
  | s, b :: rest =>
    if (s.region n).live && (s.region n).removing then
      s.modRegion n fun r => { r with bcmds := b :: rest ++ r.bcmds }
    else
      match s.applyOne n b with
      | .done st p s => applyCmds n (s.cmdDone b.queue b.hosttag st p) rest
      | .waits s => applyCmds n s rest

/-- Order 3 of region n's boundary. A removal that was forced, or that waited for writes, comes first (R446, R462). -/
def State.orderThree (s : State) (n : Nat) : State :=
  let s := if (s.region n).live && (s.region n).removing then (s.removeRegion n).finishUnlock else s
  let bs := (s.region n).bcmds
  applyCmds n (s.modRegion n fun r => { r with bcmds := [] }) bs

end Sys2Proof.Machine
end

