-- ==== Sys2Proof/Machine/Boundary.lean ====
section
/-! DEFINITION. Orders 4 to 9 of a step boundary and the events about a step (Table 9-4; 04: R147 to R150; 07: R212, R243; 08:
R255 to R257, R261 to R263, R268 to R278; 09: R287 to R293; 12: R399; 13: R408; 14: R432). -/

namespace Sys2Proof.Machine

/-! ## Order of admission (R288) -/

/-- Request i comes before request j: lower CLASS, earlier TTFTDL, earlier fetch. -/
def State.comesBefore (s : State) (i j : Nat) : Bool :=
  let a := s.req i
  let b := s.req j
  decide (a.cls < b.cls) || (decide (a.cls = b.cls) &&
    (decide (a.ttftdl < b.ttftdl) || (decide (a.ttftdl = b.ttftdl) && decide (a.order < b.order))))

/-- Put a request into its place. -/
def State.insertInOrder (s : State) (i : Nat) : List Nat → List Nat
  | [] => [i]
  | j :: r => if s.comesBefore i j then i :: j :: r else j :: s.insertInOrder i r

/-- Requests in the order of R288. -/
def State.inOrder (s : State) (is : List Nat) : List Nat := is.foldr s.insertInOrder []

/-- Requests of a region in a state, in the order of R288. -/
def State.inState (s : State) (n : Nat) (st : RState) : List Nat :=
  s.inOrder ((s.live n).filter fun i => decide ((s.req i).state = st))

/-! ## Order 5: prefixes (R270, R274, R277) -/

/-- Notices, fetched blocks and insertions, in increasing request index. -/
def State.orderFive (s : State) (n : Nat) : State :=
  let s := ((s.region n).peerNotes.foldl (State.applyNotice n) s).modRegion n fun r => { r with peerNotes := [] }
  (s.live n).foldl (fun (s : State) i =>
    let q := s.req i
    if q.state = .queued then s
    else
      let s := s.takeFetched n i q.fetched
      let s := s.modReq i fun q => { q with fetched := [] }
      s.insertDue ((s.region n).shareBlocks (s.req i) + 1) n i) s

/-! ## Order 6: admission (R261, R268, R274, R288, R321) -/

/-- The extents of a ring-attention request: its member's place on the ring (R235). -/
def State.ringPlace (s : State) (n : Nat) (q : Req) : Option (Nat × Nat × Bool) :=
  if !q.ring then none
  else
    match (s.region n).ringDesc with
    | some a =>
      let ms := s.ringMembers n a.rgroup
      some (ms.idxOf s.self, max 1 ms.length, a.shard)
    | none => none

/-- Fill the count table from the prompt when PCOUNT = 1 (R321). DESIGN CHOICE: what is evicted meanwhile counts in EVICTED, as R322 has
it (log 219). -/
def State.fillCounts (s : State) (n i : Nat) : State :=
  let q := s.req i
  if !(sampBlock q.sampler).pcount then s
  else
    (q.tokens.mapIdx fun k t => (k, t)).foldl (fun (s : State) (x : Nat × W32) =>
      let y := countInRecord s.mem (s.recordAddr n i) x.2.toNat (q.vlen + x.1)
      (({ s with mem := y.1 }).settleLost []).modReq i fun r => { r with evicted := min (2 ^ 32 - 1) (r.evicted + y.2) }) s

/-- A QUEUED request that was not admitted is refused where R288 says so. -/
def State.admitShort (s : State) (n i : Nat) (d : Need) : State :=
  let q := s.req i
  let r := s.region n
  if !q.earmark && (decide (r.pool0.length < d.own0) || decide (r.pool1.length < d.own1)) then s.endWith i Status.pagesShort
  else if !q.earmark && decide (tableBlocks < d.blocks) then s.endWith i Status.tableShort
  else
    match r.setup with
    | none => s
    | some u =>
      let t := u.stepMax + 50000
      if !q.besteff && (u.classes.getD q.cls {}).guar &&
          decide (q.ttftdl.toNat < s.gc.toNat + t + ceilDiv q.promptLen (s.setupCapacity n) * t) then
        s.endWith i Status.deadlineShort
      else s

/-- Try to admit request i (R261, R268, R288). It takes the copy of its variant that is available now, with that copy's VLEN (R277,
log 167). -/
def State.admitOne (n : Nat) (s : State) (i : Nat) : State :=
  let r := s.region n
  match (if (s.req i).variant = 0 then some none else (r.variant? (s.req i).variant).map some) with
  | none => s.endWith i Status.variantUnknown
  | some v =>
    let s := s.modReq i fun q => { q with vlen := match v with | some x => x.vlen | none => 0 }
    let q := s.req i
    let ext := extentsOf q r.ppos (s.ringPlace n q)
    if 262144 < ext.2.1 + ext.2.2.2 then s.endWith i Status.promptRange else
    let (hits, miss) := s.prefixHits n q
    let s := if miss then s.modReq i fun q => { q with hmiss := true } else s
    let s := hits.foldl (fun (s : State) k => s.takeRef n k) s
    let ppos := r.ppos
    let d := r.need q (hits.length * ppos) (s.ringPlace n q)
    let s := s.evictFor (r.nodesUsed.length + 1) n i d.own0
    let fits := decide (d.own0 ≤ s.freeFor n i 0) && decide (d.own1 ≤ s.freeFor n i 1)
    match (if fits then s.findDirs n i d else none) with
    | none => (hits.foldl (fun (s : State) k => s.dropRef n k) s).admitShort n i d
    | some dirs =>
      let linked := (match v with | some x => x.entries | none => []) ++ hits.flatMap fun k => (s.node n k).pages
      let s := s.allocate n i d dirs linked (q.vlen + hits.length * ppos) (s.ringPlace n q)
      let s := match v with
        | some x => s.modRegion n fun r => r.modVariant x.uid fun y => { y with refs := y.refs + 1 }
        | none => s
      let s := (s.fillCounts n i).modReq i fun q => { q with
        state := .prompt, nodes := hits, hitBlocks := hits.length, promptDone := hits.length * ppos
        seqlen := q.vlen + hits.length * ppos, lastNode := hits.getLast?.getD noParent, nextBlock := hits.length
        vuid := (match v with | some x => x.uid | none => 0) }
      if q.handle ≠ 0 ∧ (s.handleNode n q.handle).isSome then s
      else
        match s.peerRun n (s.req i) hits.length with
        | some (m, hs) => (s.emit (.peerRequest (BitVec.ofNat 14 m) hs)).modReq i fun q => { q with fetching := true }
        | none => s

/-- Earmark trials, then admissions (R287, R288). -/
def State.orderSix (s : State) (n : Nat) : State :=
  let is := s.inState n .queued
  let s := is.foldl State.tryEarmark s
  is.foldl (State.admitOne n) s

/-! ## Order 7: the split (R291) -/

/-- Width of the lead set for l requests in LEAD and `prompts` telling that some are in PROMPT. -/
def State.splitWidth (s : State) (n : Nat) (im : Image) (stepMax l : Nat) (prompts : Bool) : Nat :=
  let r := s.region n
  let c := r.cols s.nv
  if l = 0 then 0
  else if !prompts then c
  else
    let idx := (List.range im.leadw.length).map (· + 1)
    match idx.find? fun i => decide (im.cbLead s.stepPair c i l ≤ stepMax) with
    | some i => (im.widths c).getD i 0
    | none =>
      match im.leadw.getLast? with
      | some w => w
      | none => if r.nleadLast = c then 0 else c

/-! ## Order 8: the plan (R257, R293, R432) -/

/-- Put a request into the step's work where its queue can reserve an entry for its TOKENS (R432). -/
def State.planReq (s : State) (n : Nat) (x : StepReq) : State :=
  let q := s.queue (s.req x.ridx).queue
  if (s.req x.ridx).noPost || decide (q.reserved < q.freeCq) then
    (s.modQueue (s.req x.ridx).queue fun q => { q with reserved := q.reserved + 1 }).modRegion n fun r =>
      { r with stepReqs := r.stepReqs ++ [x] }
  else s

/-- Give prompt positions in the order of R288 up to a capacity. -/
def planPrompts (n : Nat) : State → Nat → List Nat → State
  | s, _, [] => s
  | s, left, i :: rest =>
    let q := s.req i
    let want := q.promptLen - q.promptDone
    let grant := if want ≤ left then want else left / 64 * 64
    if grant = 0 ∨ q.fetching then planPrompts n s left rest
    else
      let k := (s.region n).stepReqs.length
      let s := s.planReq n { ridx := i, grant := grant }
      planPrompts n s (if (s.region n).stepReqs.length = k then left else left - grant) rest

/-- Put a list of entries into request-table index order. -/
def insertEntry (x : LtEntry) : List LtEntry → List LtEntry
  | [] => [x]
  | y :: r => if x.ridx < y.ridx then x :: y :: r else y :: insertEntry x r

/-- Write a length table into the control area (R198, R215, R250). -/
def State.writeTable (s : State) (n : Nat) (token : Bool) (es : List LtEntry) : State :=
  (s.writeMem n [(s.tableBase n token, es.flatMap LtEntry.bytes)]).modRegion n fun r =>
    if token then { r with tokenN := es.length } else { r with promptN := es.length }

/-- The position in the sequence of a request's local position i (R235, R248). -/
def State.seqPos (s : State) (n : Nat) (q : Req) (i : Nat) : Nat :=
  match s.ringPlace n q with
  | some (r, m, shard) => ringPos shard m q.promptLen r i
  | none => i

/-- Orders 7 and 8: split, plan, length tables, snapshot, walk caches, and the SRV_ registers (R510). QSTART is a position in the
sequence, also of a ring request (R215, R248, log 203). -/
def State.orderEight (s : State) (n : Nat) : State :=
  let r := s.region n
  let leads := (s.live n).filter fun i => decide ((s.req i).state = .lead)
  let prompts := s.inState n .prompt
  let s := match r.image, r.setup with
    | some im, some u =>
      let c := r.cols s.nv
      let w := s.splitWidth n im u.stepMax leads.length (!prompts.isEmpty)
      let s := s.modRegion n fun r => { r with nlead := w, stepReqs := [] }
      let s := if w = 0 then s
        else leads.foldl (fun (s : State) i => s.planReq n { ridx := i, lead := true }) s
      if w = c then s
      else
        let cap := if leads.isEmpty then 262144 else im.capacity s.stepPair ((im.widths c).idxOf w) u.stepMax
        planPrompts n s cap prompts
    | _, _ => s
  let ps := (s.region n).stepReqs.filter (!·.lead)
  let ls := (s.region n).stepReqs.filter (·.lead)
  let pt : List LtEntry := ps.map fun x =>
    let q := s.req x.ridx
    { ridx := x.ridx, qcount := x.grant, qstart := s.seqPos n q (q.vlen + q.promptDone) }
  let tt : List LtEntry := ls.map fun x =>
    let q := s.req x.ridx
    { ridx := x.ridx, qcount := 1 + q.kcur, qstart := s.seqPos n q q.seqlen }
  let old := s.region n
  let keep := fun (x : Nat × Nat × Nat × W64) =>
    decide (x.1 ≠ n) || decide (smGet 0 old.gens x.2.1 = smGet 0 old.snaps x.2.1)
  let s := { s with att := { s.att with wcW := s.att.wcW.filter keep, wcE := s.att.wcE.filter keep } }
  let s := (s.writeTable n false (pt.foldr insertEntry [])).writeTable n true (tt.foldr insertEntry [])
  (s.modRegion n fun r => { r with snaps := r.gens }).takeShot n

/-- Take back a plan whose step has not been launched. -/
def State.unplan (s : State) (n : Nat) : State :=
  let s := (s.region n).stepReqs.foldl (fun (s : State) x => s.giveBack x.ridx) s
  s.modRegion n fun r => { r with stepReqs := [], planned := false }

/-! ## Order 9: launch (R147, R289, R290, R408, R439) -/

/-- A step may be planned for launch: there is work, a set-up, an image, room for digests, and nothing removes the region. -/
def State.mayPlan (s : State) (n : Nat) : Bool :=
  let r := s.region n
  r.live && !r.removing && decide (r.run = .waiting) && s.stepWork n && r.image.isSome && r.setup.isSome && r.digWait.isEmpty

/-- The step may launch: no hold keeps it either, the first boundary completion at or after UNTIL launching it (R408). -/
def State.mayLaunch (s : State) (n : Nat) : Bool := s.mayPlan n && !s.onHold n

/-- A frame at step launch (Table 4-1, R147, R162, R167, R214, R383): the stores, the seeds and the counters of R75 stay. -/
def Frame.launched (fr : Frame) (entries : List Nat) : Frame :=
  let ctxOf := fun (k : Nat) =>
    let pc := entries.getD k 0x1FFF8
    let old := smGet {} fr.ctxs k
    let c : Ctx := { pc := BitVec.ofNat 64 pc, srseed := old.srseed, srseq := old.srseq,
                     run := if pc = 0x1FFF8 then .halted else .running }
    (k, c)
  { ctxs := ((List.range 64).map ctxOf).filter fun (x : Nat × Ctx) => decide (x.2 ≠ {})
    istore := fr.istore, cstore := fr.cstore, crush := fr.crush, ovf := fr.ovf, beads := fr.beads }

/-- A region at step launch. -/
def Region.launched (r : Region) : Region :=
  { r with
    stepNo := r.stepNo + 1, run := .stepping, nleadLast := r.nlead, planned := false, hold := none, readies := [], faultN := 0, faultRecs := [], faulted := false
    noEnd := false, noDigest := false, att := [], samp0 := {}, samp1 := {}, colls := [], started := [], reruns := 0, kvWrites := []
    trace := (match r.traceNext with | some x => some x | none => r.trace), traceNext := none
    groups := r.groups.map fun (x : Nat × Group) => (x.1, { x.2 with halted := false }) }

/-- Launch the step: its halves are Active, engines are idle, contexts start, and no write of an earlier step is noted (R147, R467). -/
def State.launch (s : State) (n : Nat) : State :=
  let r := s.region n
  let entries := match r.image with | some im => im.entries | none => []
  let s := s.wakeRegion n
  let s := { s with races := s.races.filter fun e => match e.writer with
    | .context w => !r.holdsFrame s.nv w.frame.val
    | .unit m | .copy m => decide (m ≠ n) }
  let s := (r.frameList s.nv).foldl (fun (s : State) f => s.modFrame f fun fr => fr.launched entries) s
  let s := (List.range 4).foldl (fun (s : State) e =>
    if r.holdsEngine e then s.modEngine e fun x => { x with busy := false, desc := 0, sampler := false } else s) s
  s.modRegion n Region.launched

/-- Order 9: a step with work launches at once, or, in a serving group of more than one module, at the agreed value, for
which READY goes out, also while a hold keeps the region (R290, R399, R408, R419). -/
def State.orderNine (s : State) (n : Nat) : State :=
  if !s.mayPlan n then s
  else if (s.sharedLaunch n).isNone then (if s.mayLaunch n then s.launch n else s)
  else
    let s := s.modRegion n fun r => { r with planned := true }
    if s.isLocked then s.sendReady n else s

/-! ## The boundary -/

/-- A frame's accepted jobs and transfers have completed (R149). -/
def Frame.drained (fr : Frame) : Bool :=
  fr.deckQueue.isEmpty && fr.inFlight.isEmpty && fr.course.isNone && fr.delivered.isEmpty && fr.dmaQueue.isEmpty &&
  fr.attQueue.isEmpty && fr.dmaActive.isEmpty

/-- The region's compute has ended (R148, R149, R375). -/
def State.computeEnded (s : State) (n : Nat) : Bool :=
  let r := s.region n
  let fs := r.frameList s.nv
  match r.run with
  | .waiting => true
  | .stepping =>
    (fs.all fun f => (s.frame f).partEnded) && s.collsDone n &&
    fs.all fun f => (s.frame f).vslots.all fun (x : Nat × VState) => decide (x.2 ≠ .pending) && decide (x.2 ≠ .bad)
  | .stopping => fs.all fun f => (s.frame f).drained

/-- Orders 4 to 9, of which a region that is being removed keeps only the update of its SRV_ registers. Commands that waited for the
last release complete with order 4 (R312), so that the registers show it (R510). -/
def State.ordersOn (s : State) (n : Nat) : State :=
  if !(s.region n).live then s.finishDrains
  else if (s.region n).removing then s.finishDrains.takeShot n
  else (((((s.releaseEnded n).finishDrains.orderFive n).orderSix n).orderEight n).orderNine n)

/-- Orders 1 to 9 of Table 9-4; a boundary that waits repeats orders 3 to 9, and of order 2 what R350 and R353 have it do. The postings
of a boundary are one batch (R440); clock caps that are due take effect (R472). -/
def State.boundary (s : State) (n : Nat) (env : BoundaryEnv) : State :=
  let s := s.beginBatch.applyCaps
  let s := if (s.region n).run = .waiting then s.unplan n else s
  let s := if (s.region n).live ∧ (s.region n).run ≠ .waiting then (s.orderOne n env).raiseAlert else s
  let s := if (s.region n).live then (s.orderTwo n).restoreRegion n else s
  let s := (s.readyVariants n).orderThree n
  let s := s.ordersOn n
  let s := if s.moving n then s.wakeRegion n else s
  s.pushHandoff.endBatch

/-- STEP_BOUNDARY: region n's compute has ended, or its boundary waits: orders 1 to 9 (R289). A region whose planned step
awaits the agreed launch value has no boundary, unless a hold keeps it (R290, R408). In Warm and Lull none runs (Table 16-2). -/
def execStepBoundary (rid : Fin 4) (env : BoundaryEnv) (s : State) : Host.Outcome State Fault Refusal :=
  let r := s.region rid.val
  .next (
    if s.awake && (!r.planned || s.onHold rid.val) && (r.live || !r.bcmds.isEmpty) && s.computeEnded rid.val then s.boundary rid.val env else s)

/-- The value at which the members of the serving group launch: the latest ready tick plus 5 µs; none while one is missing
(R290, R399). -/
def State.launchValue (s : State) (n : Nat) : Option Nat :=
  match s.sharedLaunch n with
  | none => none
  | some (_, g) =>
    let rs := (s.region n).readies
    if (s.modules g.d).all fun m => rs.any fun x => decide (x.1 = m) then
      some ((rs.map fun x => x.2.toNat).foldl max 0 + 5000)
    else none

/-- GROUP_LAUNCH: the global counter has reached the agreed value, and the planned step launches (R290). -/
def execGroupLaunch (rid : Fin 4) (s : State) : Host.Outcome State Fault Refusal :=
  .next (
    match s.launchValue rid.val with
    | some v =>
      if s.isReady && (s.region rid.val).planned && s.mayLaunch rid.val && decide (v ≤ s.gc.toNat) then s.launch rid.val else s
    | none => s)

/-- STEP_HOLD_RELEASE: the global counter has reached UNTIL: the hold ends and the step may launch; one that is planned in a
serving group then launches at the later of UNTIL and the agreed value (R408). -/
def execStepHoldRelease (rid : Fin 4) (s : State) : Host.Outcome State Fault Refusal :=
  .next (
    match (s.region rid.val).hold with
    | none => s
    | some u =>
      if s.awake && decide (u ≤ s.gc) then
        let s := s.modRegion rid.val fun r => { r with hold := none }
        if (s.region rid.val).run = .waiting ∧ !(s.region rid.val).planned then s.orderNine rid.val else s
      else s)

/-! ## Watchdogs (R150, R175, R212, R243, R293) -/

/-- The first attention descriptor of a region, in list order, that has not started though its frames are free and whose
engine's fault record names a frame: the condition of R212 that the watchdog bounds. -/
def State.lateDescriptor (s : State) (n f : Nat) : Option Nat :=
  (List.range (s.attList n).length).find? fun k =>
    ((s.region n).attRun k).isNone && decide (attCorner s.nv ((s.attDesc n k).getD []) ((attFramesOf s.nv ((s.attDesc n k).getD [])).headD 0) = f)

/-- The sampler descriptor of a region that has not started and whose fault record names a frame (R212, R325). -/
def State.lateSampler (s : State) (n f : Nat) : Option Nat :=
  (List.range 2).find? fun k =>
    decide (((s.region n).samp k).starts = 0) &&
    match s.sampDesc n k with
    | some w => decide (attCorner s.nv (sampRects w) ((attFramesOf s.nv (sampRects w)).headD 0) = f)
    | none => false

/-- STEP_WATCHDOG_EXPIRY: a wait has lasted longer than the step watchdog and faults with WAIT_TIMEOUT: the context's sync
instruction (R150), else a chain program of a job the context issued (R175), else, for the frame that engine records name,
a start condition of an attention or sampler descriptor (R212, R243, R325). -/
def execStepWatchdogExpiry (who : ThreadId) (s : State) : Host.Outcome State Fault Refusal :=
  let f := who.frame.val
  if s.nv.frames ≤ f then .fault .absentFrame else
  .next (
    match s.regionOfFrame f with
    | none => s
    | some n =>
      if (s.region n).run = .waiting then s
      else
        match (s.ctx who).run with
        | .blocked _ => s.programFault who (s.ctx who).pc .waitTimeout 0
        | _ =>
          let fr := s.frame f
          match fr.course.filter fun x => decide (x.job.who = who) with
          | some x =>
            s.timeOutChain f x
          | none =>
            match (if who.core = 0 ∧ who.ctx = 0 then (s.lateDescriptor n f).or (s.lateSampler n f) else none) with
            | some k => s.regionFault n (engineRecord FCode.waitTimeout.num f k 0)
            | none => s)

/-- STEP_TIMEOUT: the region's compute has run for four times its bound: it stops with STEP_TIMEOUT (R293). The record's
place is what no rule gives (log 35). -/
def execStepTimeout (rid : Fin 4) (s : State) : Host.Outcome State Fault Refusal :=
  .next (
    if (s.region rid.val).run = .stepping then
      let (v, s) := s.takeFree
      s.regionFault rid.val (faultRecord (.other 0x14) (threadOf (Fin.ofNat 384 (v.toNat / 64)) (v.toNat % 64)) (v >>> 16) 0)
    else s)

/-- PEER_FETCH: a fetch from a peer has completed; its nodes are verified at the next boundary, and the request may enter a
step (R274). -/
def execPeerFetch (rid : Fin 4) (ridx : Fin 32768) (nodes : List FetchedNode) (s : State) : Host.Outcome State Fault Refusal :=
  let q := s.req ridx.val
  .next (
    if s.isReady && q.fetching && decide (q.region = rid.val) then
      s.modReq ridx.val fun q => { q with fetching := false, fetched := nodes }
    else s)

end Sys2Proof.Machine
end

