-- ==== Sys2Proof/Machine/Submit.lean ====
section
/-! DEFINITION. Ring entries as the device fetches them (14: R425, R427 to R432; 15: R445, R448, R449, R452) and the acceptance of a
request (09: R285, R287, Table 9-3; 10: R319, R321; 11: R343, R353; 14: R430). -/

namespace Sys2Proof.Machine

/-! ## Fetch -/

/-- OPC of an entry (R429). -/
def opc (e : Entry) : Nat := fld (wordAt e 0) 7 0

/-- The OPC values that Tables 14-7 and 15-10 assign. -/
def opcAssigned (c : Nat) : Bool :=
  decide (c = 1) || (decide (0x10 ≤ c) && decide (c ≤ 0x18)) || (decide (0x20 ≤ c) && decide (c ≤ 0x22)) ||
  (decide (0x30 ≤ c) && decide (c ≤ 0x36)) || (decide (0x40 ≤ c) && decide (c ≤ 0x46)) ||
  (decide (0x50 ≤ c) && decide (c ≤ 0x52)) || decide (c = 0x60) || decide (c = 0x61)

/-- The device fetches its next entry from the queue (R427, R428, R432). -/
def State.mayFetch (s : State) (q : Nat) : Bool := s.isReady && decide (s.nextFetch = some q)

/-- Fetch an entry: the row is the fetch, and does nothing while it is not the queue's turn (log 14). Its OPC names its row: an assigned OPC that is not the row's names another row, and a reserved one is
refused with MALFORMED (R429). An UNBOUND queue refuses every entry (R448). -/
def State.takeEntry (s : State) (q : Fin 8192) (e : Entry) (code : Nat) (f : State → State) :
    Host.Outcome State Fault Refusal :=
  if opc e ≠ code ∧ opcAssigned (opc e) then .refused .otherRow
  else if !s.mayFetch q.val then .next s
  else
    let t := s.outOfRest.readEntry q.val
    .next (
      if (t.queue q.val).role = .unbound then t.refuse q.val (hostTag e) Status.roleDenied
      else if opc e ≠ code ∨ fld (wordAt e 0) 31 8 ≠ 0 then t.refuse q.val (hostTag e) Status.malformed
      else f t)

/-! ## Who may issue a command (R445, R449, Table 15-4) -/

/-- Who may issue a command. -/
inductive Authority where
  | all                       -- any bound queue
  | served                    -- any bound queue; what it names is judged by the command
  | owner                     -- owner-only (R445)
  | first                     -- queue 0 only (R443, R461)
  | memory (rid : Nat) (now : Bool)   -- the owner on a region that is not sealed, the tenant of a sealed region on its own; `now`:
                                      -- the command runs at once (R525)
deriving DecidableEq, Repr

/-- A creation of region n that was fetched and not yet applied (R525). -/
def isCreation (b : BCmd) : Bool := match b.cmd with | .regionCreate _ _ _ => true | _ => false

/-- What a waiting command makes of a region, of which it is known whether it exists and is sealed (R525). -/
def afterCmd (x : Option Bool) (b : BCmd) : Option Bool :=
  match b.cmd with
  | .regionRemove _ _ => none
  | .regionCreate _ e _ => x.or (some (bitAt (wordAt e 1) 10))
  | _ => x

/-- The region as a command fetched now finds it at the boundary: whether it exists then, and whether it is sealed (R452, R525). -/
def State.foreseen (s : State) (n : Nat) : Option Bool :=
  let r := s.region n
  r.bcmds.foldl afterCmd (if r.live && !r.removing then some r.sealed else none)

/-- The region is sealed, now or, for a command that a boundary applies, when the removals and creations before it have been applied
(R452, R525). -/
def State.sealedRegion (s : State) (n : Nat) (now : Bool) : Bool :=
  let r := s.region n
  if now then r.live && r.sealed else (s.foreseen n).getD (r.live && r.sealed)

/-- A command that waits for a boundary finds its region, or its creation ahead of it (R525). -/
def State.expected (s : State) (n : Nat) : Bool := (s.region n).live || (s.region n).bcmds.any isCreation

/-- The status that denies a command on a queue, if any. -/
def State.denied (s : State) (q : Nat) (a : Authority) : Option Nat :=
  let x := s.queue q
  match x.role, a with
  | .unbound, _ => some Status.roleDenied
  | _, .all => none
  | _, .served => none
  | .tenant, .memory n now =>
    if x.brid ≠ n then some Status.roleDenied
    else if s.sealedRegion n now || !(if now then (s.region n).live else s.expected n) then none
    else some Status.roleDenied
  | .tenant, _ => some Status.roleDenied
  | .owner, .memory n now => if s.sealedRegion n now then some Status.sealedDeny else none
  | .owner, .owner => if s.ownerGate then none else some Status.notOwner
  | .owner, .first => if q = 0 then none else some Status.roleDenied

/-- A command: fetch, authority, form, and then what it does. `mal` is the status of a payload malformed under R11. -/
def State.command (s : State) (q : Fin 8192) (e : Entry) (code : Nat) (a : State → Authority) (mal : Nat) (bad : State → Bool)
    (f : State → State) : Host.Outcome State Fault Refusal :=
  s.takeEntry q e code fun t =>
    match t.denied q.val (a t) with
    | some st => t.cmdDone q.val (hostTag e) st []
    | none =>
      if bad t then
        if mal = Status.malformed then t.refuse q.val (hostTag e) mal else t.cmdDone q.val (hostTag e) mal []
      else f t

/-- A command on region n that a boundary applies (R433, R525). -/
def State.atBoundary (s : State) (q : Fin 8192) (e : Entry) (n : Nat) (c : Instr) : State :=
  if s.expected n then s.modRegion n fun r => { r with bcmds := r.bcmds ++ [{ queue := q.val, hosttag := hostTag e, cmd := c }] }
  else s.cmdDone q.val (hostTag e) Status.noRegion []

/-! ## Requests -/

/-- The lowest index whose entry is FREE (R285). -/
def lowestFree : Nat → SMap Req → Nat
  | k, [] => k
  | k, (i, q) :: r => if i = k ∧ q.state ≠ .free then lowestFree (k + 1) r else if i < k then lowestFree k r else k

/-- The fields of a request entry (Table 14-5). -/
def requestOf (e : Entry) : Req :=
  let w := wordAt e
  { cls := fld (w 1) 2 0, region := fld (w 1) 4 3, handoff := bitAt (w 1) 5, hosttag := hostTag e, promptLen := fld (w 1) 24 6
    budget := fld (w 1) 34 25, kmax := fld (w 1) 38 35, shareLen := fld (w 1) 57 39, domain := fld (w 2) 15 0
    variant := fld (w 2) 28 16, layout := fld (w 2) 36 29, handle := w 3, ptag := BitVec.ofNat 32 (fld (w 4) 31 0)
    sampler := (List.range 10).map fun k => w (8 + k) }

/-- NSTOPSEQ is above 0: the stop sequences are read. -/
def needsStops (q : Req) : Bool := decide (0 < (sampBlock q.sampler).nstopseq)

/-- MALFORMED (R11, R425, R429, R430). -/
def badRequest (e : Entry) (rid : Nat) (tokens stops : HostRead) : Bool :=
  let q := requestOf e
  let w := wordAt e
  decide (fld (w 1) 63 58 ≠ 0) || decide (fld (w 2) 63 37 ≠ 0) || decide (fld (w 4) 63 32 ≠ 0) || decide (w 7 ≠ 0) ||
  !zeroFrom e 18 || decide (q.region ≠ rid) || decide (fld (w 5) 1 0 ≠ 0) || decide (4096 < q.variant) ||
  (decide (0 < q.promptLen) && tokens.isNone) || (needsStops q && stops.isNone)

/-- The request takes part in ring attention and carries what it may not (R279). -/
def Region.ringPrefix (r : Region) (q : Req) : Bool :=
  r.ringDesc.isSome && (decide (q.variant ≠ 0) || decide (q.shareLen ≠ 0) || decide (q.handle ≠ 0))

/-- VLEN of a request's variant. DESIGN CHOICE: 0 of one that is not loaded (log 217). -/
def Region.vlen (r : Region) (q : Req) : Nat := if q.variant = 0 then 0 else match r.variant? q.variant with | some v => v.vlen | none => 0

/-- Table 9-3, in its order. A region that no port in use can serve counts as having no partner (R339, R346). -/
def State.tableRefusal (s : State) (qn : Nat) (q : Req) : Option Nat :=
  let x := s.queue qn
  let r := s.region x.rid
  let guar := r.guaranteed q.cls
  let c := match r.setup with | some u => u.classes.getD q.cls {} | none => {}
  let held := (s.live x.rid).filter fun i => decide ((s.req i).cls = q.cls)
  let draft := r.geom1.isSome && (match r.image with | some im => im.hasDraft | none => false)
  if !r.live then some Status.noRegion
  else if x.disabled || r.disabled || (q.handoff && (s.ho.disabled || (s.layerPort x.rid 0).isNone)) then some Status.disabled
  else if r.setup.isNone || r.geom0.isNone then some Status.noSetup
  else if 32768 ≤ lowestFree 0 s.reqs then some Status.tableFull
  else if q.promptLen = 0 ∨ 262144 < r.vlen q + q.promptLen + q.budget + q.kmax ∨ (guar = true ∧ c.maxprompt < q.promptLen) then
    some Status.promptRange
  else if 512 < q.budget ∨ 8 < q.kmax ∨ (0 < q.kmax ∧ draft = false) then some Status.budgetRange
  else if guar = true ∧ c.maxreq ≤ held.length then some Status.classFull
  else if q.variant ≠ 0 ∧ (r.variant? q.variant).isNone then some Status.variantUnknown
  else if r.ringPrefix q then some Status.ringPrefix
  else none

/-- The refusals after Table 9-3: DOMAIN_DENY, SEALED_DENY of a handoff, and those of R343. -/
def State.laterRefusal (s : State) (qn : Nat) (q : Req) : Option Nat :=
  let x := s.queue qn
  let r := s.region x.rid
  if x.role = .tenant ∧ (q.domain < x.domlo ∨ x.domhi < q.domain) then some Status.domainDeny
  else if !q.handoff then none
  else if r.sealed then some Status.sealedDeny
  else
    match s.layout? q.layout with
    | none => some Status.layoutUnknown
    | some d =>
      if d.rid ≠ x.rid then some Status.layoutUnknown
      else if d.length < (q.ptag.toNat + 1) * d.slotsize ∨
          d.nbs r.layers < ceilDiv (r.vlen q + q.promptLen + q.budget) d.dpp then some Status.ptagRange
      else none

/-- The first refusal that holds, in the order of R285. -/
def State.requestRefusal (s : State) (qn : Nat) (e : Entry) (tokens stops : HostRead) : Option Nat :=
  let x := s.queue qn
  let q := requestOf e
  if x.role = .owner ∧ s.sealedRegion x.rid true then some Status.sealedDeny
  else if badRequest e x.rid tokens stops then some Status.malformed
  else if badSampler q.sampler then some Status.samplerMalformed
  else (s.tableRefusal qn q).or (s.laterRefusal qn q)

/-- The 32-bit identifiers of a byte string. -/
def idsOf : Nat → List Byte → List W32
  | 0, _ => []
  | n + 1, bs => BitVec.ofNat 32 (leNat (bs.take 4)) :: idsOf n (bs.drop 4)

/-- An accepted request takes the lowest FREE entry (R285), its stop sequences go into its sampler record (R321), and it
is tried for an earmark (R287). -/
def State.acceptRequest (s : State) (qn : Nat) (e : Entry) (tokens stops : HostRead) : State :=
  let x := s.queue qn
  let n := x.rid
  let r := s.region n
  let q := requestOf e
  let i := lowestFree 0 s.reqs
  let c := match r.setup with | some u => u.classes.getD q.cls {} | none => {}
  let s := s.setReq i { q with
    state := .queued, queue := qn, region := n, besteff := !r.guaranteed q.cls, kcur := q.kmax, arrival := s.gc
    ttftdl := s.gc + BitVec.ofNat 64 c.ttft, tbt := c.tbt, order := s.hif.fetchOrder, vlen := r.vlen q
    tokens := idsOf q.promptLen (hostBytes tokens), pthdr := s.headerAddr n i 0, ring := r.ringDesc.isSome
    failed := q.handoff && !s.ho.up }
  let s := { s with hif := { s.hif with fetchOrder := s.hif.fetchOrder + 1 } }
  let s := if needsStops q then s.writeOwn [(s.recordAddr n i + 32768, (hostBytes stops).take 512)] else s
  s.tryEarmark i

/-- REQUEST: a submission is accepted, or refused with the first refusal that holds (R285). -/
def execRequest (q : Fin 8192) (e : Entry) (tokens stops : HostRead) (s : State) : Host.Outcome State Fault Refusal :=
  s.takeEntry q e 0x01 fun t =>
    match t.requestRefusal q.val e tokens stops with
    | some st => t.refuse q.val (hostTag e) st
    | none => t.acceptRequest q.val e tokens stops

end Sys2Proof.Machine
end

