-- ==== Sys2Proof/Machine/Commands.lean ====
section
/-! DEFINITION. The ring commands of serving, pages, images, copies, handoff and groups (08: R281; 09: R295, R309 to R314; 11: R337,
R339, R340; 12: R364; 13: R408, R413; 14: R433 to R435, R525). A payload field whose bits no table gives takes a word of its own
(log 39). -/

namespace Sys2Proof.Machine

/-! ## Helpers -/

/-- The region that a queue serves (R425). -/
def State.ridOf (s : State) (q : Fin 8192) : Nat := (s.queue q.val).rid

/-- Word k of an entry as a number. -/
def wn (e : Entry) (k : Nat) : Nat := (wordAt e k).toNat

/-- A command of the region of its queue that a boundary applies: Table 15-4 gives region memory to the owner where the region is
not sealed, and to the tenant where it is. -/
def State.regionCommand (s : State) (q : Fin 8192) (e : Entry) (code mal : Nat) (bad : Bool) (c : Instr) :
    Host.Outcome State Fault Refusal :=
  s.command q e code (fun t => .memory (t.ridOf q) false) mal (fun _ => bad) fun t => t.atBoundary q e (t.ridOf q) c

/-- A command that names its region in word 1 (Table 9-6; log 39). -/
def State.namedCommand (s : State) (q : Fin 8192) (e : Entry) (code mal : Nat) (bad : Bool) (c : Instr) :
    Host.Outcome State Fault Refusal :=
  s.command q e code (fun _ => .memory (wn e 1 % 4) false) mal (fun _ => bad) fun t => t.atBoundary q e (wn e 1 % 4) c

/-! ## Serving -/

/-- SERVE_SETUP: waits for order 3 (R295, R297). -/
def execServeSetup (q : Fin 8192) (e : Entry) (s : State) : Host.Outcome State Fault Refusal :=
  s.namedCommand q e 0x30 Status.setupMalformed (badSetup e) (.serveSetup q e)

/-- STEP_HOLD: waits for order 3 (R408). -/
def execStepHold (q : Fin 8192) (e : Entry) (s : State) : Host.Outcome State Fault Refusal :=
  s.namedCommand q e 0x35 Status.setupMalformed (decide (4 ≤ wn e 1) || !zeroFrom e 3) (.stepHold q e)

/-- DIGEST_TRACE: waits for order 3 (R413). -/
def execDigestTrace (q : Fin 8192) (e : Entry) (s : State) : Host.Outcome State Fault Refusal :=
  s.namedCommand q e 0x36 Status.setupMalformed
    (decide (4 ≤ wn e 1) || decide (4096 ≤ wn e 2) || decide (65536 ≤ wn e 3) || !zeroFrom e 4) (.digestTrace q e)

/-- The request is one of the tenant's own: of its region, submitted on a TENANT queue of it (R314, Table 15-4). -/
def State.ownRequest (s : State) (x : Queue) (i : Nat) : Bool :=
  let r := s.req i
  decide (r.state ≠ .free) && decide (r.region = x.brid) && decide ((s.queue r.queue).role = .tenant) &&
  decide ((s.queue r.queue).brid = x.brid)

/-- What denies CANCEL or QUERY of an entry on a queue (R314). -/
def State.deniedEntry (s : State) (q : Fin 8192) (i : Nat) : Option Nat :=
  let x := s.queue q.val
  if x.role = .tenant then (if s.ownRequest x i then none else some Status.roleDenied)
  else if (s.req i).state ≠ .free ∧ (s.region (s.req i).region).sealed then some Status.sealedDeny
  else none

/-- CANCEL: waits for order 3 of the request's region; an entry that is FREE has no region, and the command completes at once
(R309, R314). -/
def execCancel (q : Fin 8192) (e : Entry) (s : State) : Host.Outcome State Fault Refusal :=
  s.command q e 0x31 (fun _ => .served) Status.malformed
    (fun _ => decide (32768 ≤ wn e 1) || decide (2 ^ 32 ≤ wn e 2) || !zeroFrom e 3)
    fun t =>
      match t.deniedEntry q (wn e 1) with
      | some st => t.cmdDone q.val (hostTag e) st []
      | none =>
        let r := t.req (wn e 1)
        if r.state = .free then t.cmdDone q.val (hostTag e) Status.notCancelled []
        else t.modRegion r.region fun x => { x with
          bcmds := x.bcmds ++ [{ queue := q.val, hosttag := hostTag e, cmd := .cancel q e }] }

/-- Words 0 to 15 of a request-table entry (Table 9-1). -/
def Req.words (r : Req) : List W64 :=
  let n := fun (xs : List (Nat × Nat)) => BitVec.ofNat 64 ((xs.map fun x => x.1 * 2 ^ x.2).foldl (· + ·) 0)
  let st := match r.state with | .free => 0 | .queued => 1 | .prompt => 2 | .lead => 3 | .handover => 4 | .ended => 5
  if r.state = .free then List.replicate 16 0
  else
    [n [(st, 0), (r.cls, 4), (r.region, 7), (b2n r.handoff, 9), (b2n r.late, 10), (b2n r.demoted, 11), (b2n r.besteff, 12),
        (b2n r.earmark, 13), (r.queue, 14), (r.hosttag.toNat, 32)],
     n [(r.promptLen, 0), (r.seqlen, 19)],
     n [(r.budget, 0), (r.generated, 10), (r.kmax, 20), (r.kcur, 24), (r.shareLen, 28)],
     n [(r.pthdr, 0)], n [(r.domain, 0), (r.variant, 16)], r.handle, r.arrival, r.ttftdl, n [(r.tbt, 0)], r.firsttok, r.lasttok,
     n [(r.maxgap, 0), (r.gapmiss, 32)], n [(r.ptag.toNat, 0), (r.layout, 32)], n [(r.endstat.toNat, 0)], 0, 0]

/-- QUERY: words 0 to 15 of the named entry, at once (R314). -/
def execQuery (q : Fin 8192) (e : Entry) (s : State) : Host.Outcome State Fault Refusal :=
  s.command q e 0x34 (fun _ => .served) Status.malformed (fun _ => decide (32768 ≤ wn e 1) || !zeroFrom e 2) fun t =>
    match t.deniedEntry q (wn e 1) with
    | some st => t.cmdDone q.val (hostTag e) st []
    | none => t.cmdDone q.val (hostTag e) Status.ok (t.req (wn e 1)).words

/-- KIND, TARGET and the reserved bits of DISABLE and ENABLE. -/
def badTarget (e : Entry) : Bool :=
  match wn e 1 with
  | 0 => decide (8192 ≤ wn e 2)
  | 1 => decide (4 ≤ wn e 2)
  | 2 => decide (wn e 2 ≠ 0)
  | _ => true

/-- What denies DISABLE or ENABLE: a tenant of a sealed region may name its own queues and region (Table 15-4); a region that does
not exist (R525). -/
def State.deniedTarget (s : State) (q : Fin 8192) (kind target : Nat) : Option Nat :=
  let x := s.queue q.val
  let own := (s.region x.brid).sealed &&
    (match kind with
     | 0 => decide ((s.queue target).role = .tenant) && decide ((s.queue target).brid = x.brid)
     | 1 => decide (target = x.brid)
     | _ => false)
  if x.role = .tenant ∧ own = false then some Status.roleDenied
  else if kind = 1 ∧ (s.region target).live = false then some Status.noRegion
  else none

/-- Set or clear the disabled state of a target. DESIGN CHOICE: clearing it lifts the forced disable of a region that contains a
lost frame, link or package too (log 164). -/
def State.setDisabled (s : State) (kind target : Nat) (b : Bool) : State :=
  match kind with
  | 0 => s.modQueue target fun x => { x with disabled := b }
  | 1 => s.modRegion target fun r => { r with disabled := b }
  | _ => { s with ho := { s.ho with disabled := b } }

/-- A DISABLE waits for the target's last release (R312). -/
def State.addDrain (s : State) (kind target : Nat) (b : BCmd) : State :=
  match kind with
  | 0 => s.modQueue target fun x => { x with drain := x.drain ++ [b] }
  | 1 => (s.modRegion target fun r => { r with drains := r.drains ++ [b] }).takeShot target
  | _ => { s with ho := { s.ho with drains := s.ho.drains ++ [b] } }

/-- With FORCE, order 3 of each region with requests of the target ends them (R313). -/
def State.addForce (s : State) (f : Req → Bool) (b : BCmd) : State :=
  (List.range 4).foldl (fun (s : State) n =>
    if s.reqs.any fun (x : Nat × Req) => decide (x.2.region = n) && decide (x.2.state ≠ .free) && f x.2 then
      s.modRegion n fun r => { r with bcmds := r.bcmds ++ [b] }
    else s) s

/-- DISABLE: the target refuses new submissions at once; the command completes when its last accepted request is released
(R310 to R313). -/
def execDisable (q : Fin 8192) (e : Entry) (s : State) : Host.Outcome State Fault Refusal :=
  s.command q e 0x32 (fun _ => .served) Status.malformed (fun _ => badTarget e || decide (2 ≤ wn e 3) || !zeroFrom e 4) fun t =>
    match t.deniedTarget q (wn e 1) (wn e 2) with
    | some st => t.cmdDone q.val (hostTag e) st []
    | none =>
      let b : BCmd := { queue := q.val, hosttag := hostTag e, cmd := .disable q e, upTo := t.hif.fetchOrder }
      let f := targetOf (wn e 1) (wn e 2)
      let t := t.setDisabled (wn e 1) (wn e 2) true
      if t.noneLeft f b then t.cmdDone q.val (hostTag e) Status.ok []
      else
        let t := t.addDrain (wn e 1) (wn e 2) b
        if wn e 3 = 1 then t.addForce f b else t

/-- ENABLE reverses DISABLE, at once (R310; a forced disable too, log 164). -/
def execEnable (q : Fin 8192) (e : Entry) (s : State) : Host.Outcome State Fault Refusal :=
  s.command q e 0x33 (fun _ => .served) Status.malformed (fun _ => badTarget e || !zeroFrom e 3) fun t =>
    match t.deniedTarget q (wn e 1) (wn e 2) with
    | some st => t.cmdDone q.val (hostTag e) st []
    | none => (t.setDisabled (wn e 1) (wn e 2) false).cmdDone q.val (hostTag e) Status.ok []

/-! ## Page-table commands (Table 8-8) -/

/-- SLOT, BASE and NPAGES out of their ranges. -/
def badRange (e : Entry) : Bool :=
  decide (2 ≤ wn e 1) || decide (2 ^ 48 ≤ wn e 2) || decide (wn e 3 = 0) || decide (2 ^ 24 < wn e 3) || !zeroFrom e 4

/-- A variant number out of its range (R277). DESIGN CHOICE: it is malformed under R11, so that VARIANT_LOAD and VARIANT_UNLOAD answer it
with PT_CMD_MALFORMED, not with VARIANT_INVALID or VARIANT_UNKNOWN (log 206). -/
def badVariant (e : Entry) : Bool := decide (wn e 1 = 0) || decide (4096 < wn e 1)

/-- KV_GEOMETRY: waits for order 3 (R244). -/
def execKvGeometry (q : Fin 8192) (e : Entry) (s : State) : Host.Outcome State Fault Refusal :=
  s.regionCommand q e 0x40 Status.ptCmdMalformed (!zeroFrom e 2) (.kvGeometry q e)

/-- POOL_ADD: waits for order 3 (R260). -/
def execPoolAdd (q : Fin 8192) (e : Entry) (s : State) : Host.Outcome State Fault Refusal :=
  s.regionCommand q e 0x41 Status.ptCmdMalformed (badRange e || decide (wn e 2 % 4096 ≠ 0)) (.poolAdd q e)

/-- POOL_REMOVE: waits for order 3 (R260). -/
def execPoolRemove (q : Fin 8192) (e : Entry) (s : State) : Host.Outcome State Fault Refusal :=
  s.regionCommand q e 0x42 Status.ptCmdMalformed (badRange e) (.poolRemove q e)

/-- VARIANT_LOAD: waits for order 3 (R277). -/
def execVariantLoad (q : Fin 8192) (e : Entry) (data : HostRead) (s : State) : Host.Outcome State Fault Refusal :=
  s.regionCommand q e 0x43 Status.ptCmdMalformed (badVariant e || !zeroFrom e 4) (.variantLoad q e data)

/-- VARIANT_UNLOAD: waits for order 3 (R278). -/
def execVariantUnload (q : Fin 8192) (e : Entry) (s : State) : Host.Outcome State Fault Refusal :=
  s.regionCommand q e 0x44 Status.ptCmdMalformed (badVariant e || !zeroFrom e 2) (.variantUnload q e)

/-- PREFIX_FLUSH: waits for order 3 (R273). -/
def execPrefixFlush (q : Fin 8192) (e : Entry) (s : State) : Host.Outcome State Fault Refusal :=
  s.regionCommand q e 0x45 Status.ptCmdMalformed (decide (65536 ≤ wn e 1) || decide (2 ≤ wn e 2) || !zeroFrom e 3) (.prefixFlush q e)

/-- HANDLE_RELEASE: waits for order 3 (R275, R281). HANDLE 0 is bound nowhere, so it is answered HANDLE_UNKNOWN there. -/
def execHandleRelease (q : Fin 8192) (e : Entry) (s : State) : Host.Outcome State Fault Refusal :=
  s.regionCommand q e 0x46 Status.ptCmdMalformed (!zeroFrom e 2) (.handleRelease q e)

/-! ## Copies and images (R433 to R435) -/

/-- IMAGE_LOAD: waits for order 3 (R435). -/
def execImageLoad (q : Fin 8192) (e : Entry) (img : HostRead) (s : State) : Host.Outcome State Fault Refusal :=
  s.regionCommand q e 0x22 Status.malformed (decide (2 ^ 32 ≤ wn e 2) || !zeroFrom e 3) (.imageLoad q e img)

/-- An address in one of a region's two windows (R196). -/
def State.inWindow (s : State) (n a : Nat) : Bool :=
  match s.place a with
  | .tier1 k _ => decide (k = n)
  | .tier2 k _ => decide (k = n)
  | .store _ _ => false
  | .nowhere => false

/-- Whether a copy may touch an address: what the region reaches, and with DIAG its control and sampler areas too (R434). -/
def State.copyReach (s : State) (n : Nat) (diag : Bool) (a : Nat) : Bool :=
  decide (s.reach n a = .ok) || (diag && s.inWindow n a)

/-- Every address of a range passes a test that can change only at multiples of 64 KiB. -/
def wholeRange (f : Nat → Bool) (a len : Nat) : Bool :=
  decide (len = 0) ||
  (f a && f (a + len - 1) && (List.range ((len - 1) / 0x10000)).all fun i => f ((a / 0x10000 + i + 1) * 0x10000))

/-- Numbers of the equal blocks from a base that a range touches. -/
def touched (base size count a len : Nat) : List Nat :=
  if len = 0 ∨ a + len ≤ base ∨ base + size * count ≤ a then []
  else
    let lo := (a - base) / size
    let hi := min (count - 1) ((a + len - 1 - base) / size)
    (List.range (hi + 1 - lo)).map (lo + ·)

/-- A store that did not come from the ordered changes of R256: each table that it lands in gets a new live generation (R257). -/
def State.rawStore (s : State) (n a len : Nat) : State :=
  let s := (touched ((s.region n).ctlBase n) 64 65536 a len).foldl (fun (s : State) k => s.bumpGen n (k / 2) (k % 2)) s
  ((s.region n).tblocks.filter fun b => !b.scrubbing && rangesMeet (a, len) (s.blockAddr n b.n, 4096)).foldl
    (fun (s : State) b => s.bumpGen n b.ridx b.slot) s

/-- Reserved bits of COPY_IN and COPY_OUT. -/
def badCopy (e : Entry) : Bool := decide (fld (wordAt e 2) 63 48 ≠ 0) || decide (fld (wordAt e 3) 63 41 ≠ 0) || !zeroFrom e 4

/-- What denies a copy (R434, R447, R452): DIAG on a queue that may not set it, or of a sealed region; no region; a range out of
reach. -/
def State.copyRefusal (s : State) (q : Fin 8192) (e : Entry) : Option Nat :=
  let n := s.ridOf q
  let diag := bitAt (wordAt e 3) 40
  let a := fld (wordAt e 2) 47 0
  let len := fld (wordAt e 3) 39 0
  if diag ∧ (s.region n).sealed then some Status.sealedDeny
  else if diag ∧ !(s.queue q.val).diagok then some Status.roleDenied
  else if !(s.region n).live then some Status.noRegion
  else if wn e 1 % 4 ≠ 0 ∨ a % 4 ≠ 0 ∨ len % 4 ≠ 0 ∨ wholeRange (s.copyReach n diag) a len = false then some Status.copyRange
  else none

/-- COPY_IN: host bytes to region memory, at once; accesses of a step that runs race with it (R433, R434). A read of host memory that fails moves nothing and completes with
MALFORMED, as R430 gives for a request. -/
def execCopyIn (q : Fin 8192) (e : Entry) (data : HostRead) (s : State) : Host.Outcome State Fault Refusal :=
  s.command q e 0x20 (fun t => .memory (t.ridOf q) true) Status.malformed (fun _ => badCopy e) fun t =>
    match t.copyRefusal q e, data with
    | some st, _ => t.cmdDone q.val (hostTag e) st []
    | none, none => t.cmdDone q.val (hostTag e) Status.malformed []
    | none, some bs =>
      let n := t.ridOf q
      let a := fld (wordAt e 2) 47 0
      let len := fld (wordAt e 3) 39 0
      let t := (t.wakeRegion n).copyMem n [(a, bs.take len)]
      let t := if bitAt (wordAt e 3) 40 then t.rawStore n a len else t
      t.cmdDone q.val (hostTag e) Status.ok []

/-- The lost granules of a region with the code of their controller (R488). -/
def State.lostWithCode (s : State) (n : Nat) : List (Nat × Nat × Nat) :=
  let r := s.region n
  let l1 := r.t1List
  let l2 := r.t2List
  (l1.mapIdx fun i c => (s.t1 c).lost.map fun off =>
    (packageCode false c, t1Base n + placeInverse l1.length i 256 (off / 256 * 256), 256)).flatten ++
  (l2.mapIdx fun i c => (s.t2 c).lost.map fun off =>
    (packageCode true c, t2Base n + placeInverse l2.length i 1024 (off / 1024 * 1024), 1024)).flatten

/-- COPY_OUT: region memory to host memory, at once; it races with the writes of a step that runs; a lost granule is copied as zeros, with MEM_LOST (R433, R434, R488). -/
def execCopyOut (q : Fin 8192) (e : Entry) (s : State) : Host.Outcome State Fault Refusal :=
  s.command q e 0x21 (fun t => .memory (t.ridOf q) true) Status.malformed (fun _ => badCopy e) fun t =>
    match t.copyRefusal q e with
    | some st => t.cmdDone q.val (hostTag e) st []
    | none =>
      let n := t.ridOf q
      let a := fld (wordAt e 2) 47 0
      let len := fld (wordAt e 3) 39 0
      let lost := (t.lostWithCode n).filter fun g => rangesMeet (a, len) (g.2.1, g.2.2)
      let t := lost.foldl (fun (t : State) g => t.postErrFor n 0x0104 g.1 g.2.1) (t.wakeRegion n)
      let x := if (t.region n).run = .waiting then (readBytes t.mem a len, t) else t.readRaced (.host n) a len
      (x.2.sendTlp (x.2.queueVia q.val) (.hostWrite false (wordAt e 1) x.1)).cmdDone q.val (hostTag e) Status.ok []

/-! ## The partner (R337, R339, R340) -/

/-- The 14 words of the pairing record. -/
def pairingOf (e : Entry) : List W64 := (List.range 14).map fun k => wordAt e (k + 1)

/-- A pairing record malformed under R11 (Table 11-2). -/
def badPairing (e : Entry) : Bool :=
  let w := fun k => wordAt e (k + 1)
  decide (fld (w 0) 1 0 = 0) || decide (fld (w 0) 6 2 = 0) || decide (fld (w 0) 63 39 ≠ 0) || decide (w 1 ≠ 0) ||
  decide (fld (w 6) 63 48 ≠ 0) || decide (fld (w 12) 63 48 ≠ 0) || !zeroFrom e 15

/-- PARTNER_PAIR: pairs one partner and opens its connections (R337, R338). -/
def execPartnerPair (q : Fin 8192) (e : Entry) (s : State) : Host.Outcome State Fault Refusal :=
  s.command q e 0x50 (fun _ => .owner) Status.partnerMalformed (fun _ => badPairing e) fun t =>
    if t.ho.pairing.isSome then t.cmdDone q.val (hostTag e) Status.partnerPaired []
    else (t.pair (pairingOf e)).cmdDone q.val (hostTag e) Status.ok []

/-- Every request with HANDOFF = 1 is FREE. -/
def State.noHandoff (s : State) : Bool := s.reqs.all fun (x : Nat × Req) => decide (x.2.state = .free) || !x.2.handoff

/-- PARTNER_UNPAIR: closes the connections and removes the pairing, unless a request with HANDOFF = 1 is not FREE (R339). -/
def execPartnerUnpair (q : Fin 8192) (e : Entry) (s : State) : Host.Outcome State Fault Refusal :=
  s.command q e 0x51 (fun _ => .owner) Status.malformed (fun _ => !zeroFrom e 1) fun t =>
    if t.noHandoff then t.unpair.cmdDone q.val (hostTag e) Status.ok []
    else t.cmdDone q.val (hostTag e) Status.partnerBusy []

/-- LAYOUT_INVALID (R340). -/
def State.badLayout (s : State) (w : List W64) : Bool :=
  let d := layoutFields w
  let g := fun k hi lo => fld (wordAt w k) hi lo
  decide (g 2 63 32 ≠ 0) || decide (g 3 63 40 ≠ 0) || decide (g 4 63 48 ≠ 0) || decide (g 5 63 48 ≠ 0) || decide (wordAt w 6 ≠ 0) ||
  decide (wordAt w 7 ≠ 0) || decide (4 < g 4 7 5) || !isPageFmt d.dfmt || decide (d.dpstride % 64 ≠ 0) ||
  decide (d.slotsize % 4096 ≠ 0) ||
  (match (s.region d.rid).geom0 with
   | none => true
   | some x =>
     decide (d.dpstride < 2 * x.kvh * d.dpp * x.hd * (fmtBits d.dfmt / 8)) || decide (d.slotsize < x.nl * d.dpstride) ||
     (d.rotk && !wholeRange (s.inWindow d.rid) d.thaddr (x.hd * 4)))

/-- LAYOUT_SET: sets a layout descriptor (R340). -/
def execLayoutSet (q : Fin 8192) (e : Entry) (s : State) : Host.Outcome State Fault Refusal :=
  s.command q e 0x52 (fun _ => .owner) Status.malformed (fun _ => decide (256 ≤ wn e 1) || !zeroFrom e 10) fun t =>
    let k := wn e 1
    let w := (List.range 8).map fun j => wordAt e (j + 2)
    if t.reqs.any fun (x : Nat × Req) => decide (x.2.state ≠ .free) && decide (x.2.layout = k) then
      t.cmdDone q.val (hostTag e) Status.layoutBusy []
    else if t.badLayout w then t.cmdDone q.val (hostTag e) Status.layoutInvalid []
    else
      ({ t with ho := { t.ho with layouts := smPut t.ho.layouts k w } }).cmdDone q.val (hostTag e) Status.ok []

/-! ## Groups (R364, R452) -/

/-- GROUP_SET: waits for order 3 of the region it names; a sealed region's group stays within the module (R364, R452). -/
def execGroupSet (q : Fin 8192) (e : Entry) (s : State) : Host.Outcome State Fault Refusal :=
  s.command q e 0x60 (fun _ => .owner) Status.groupMalformed (fun _ => !zeroFrom e 3) fun t =>
    let n := fld (wordAt e 1) 13 12
    if t.sealedRegion n false ∧ fld (wordAt e 1) 17 15 ≠ 0 then t.cmdDone q.val (hostTag e) Status.sealedDeny []
    else t.atBoundary q e n (.groupSet q e)

/-- GROUP_CLEAR: waits for order 3 of the region it names (R364). -/
def execGroupClear (q : Fin 8192) (e : Entry) (s : State) : Host.Outcome State Fault Refusal :=
  s.command q e 0x61 (fun _ => .owner) Status.groupMalformed (fun _ => decide (fld (wordAt e 1) 63 14 ≠ 0) || !zeroFrom e 2)
    fun t => t.atBoundary q e (fld (wordAt e 1) 13 12) (.groupClear q e)

end Sys2Proof.Machine
end

