-- ==== Sys2Proof/Machine/Vector.lean ====
section
/-! DEFINITION. The vector class (04: R119, R120, R130, R131; 02: R68 to R74). -/

namespace Sys2Proof.Machine

/-! ## Shared forms -/

/-- FP64, FP32, INT32. -/
def tyArith : List Nat := [0x01, 0x00, 0x12]

/-- FP64, FP32. -/
def tyFloat : List Nat := [0x01, 0x00]

/-- FP64, FP32, E4M3, E5M2. -/
def tySign : List Nat := [0x01, 0x00, 0x04, 0x05]

/-- FP64, FP32, INT32, E4M3, E5M2. -/
def tyOrder : List Nat := [0x01, 0x00, 0x12, 0x04, 0x05]

/-- A 16-, 32- or 64-bit type, or E4M3 or E5M2. -/
def tyAny : List Nat := [0x00, 0x01, 0x02, 0x03, 0x04, 0x05, 0x12]

/-- Element width of an instruction's type. -/
def widthOf (i : Insn) : Nat := fmtBits i.ty.toNat

/-- Number of elements. -/
def countOf (i : Insn) : Nat := 2048 / widthOf i

/-- The lane mask of an instruction. -/
def maskOf (c : Ctx) (i : Insn) : W64 := c.getM i.mask.toNat

/-- Flags of the active results. -/
def activeFlags (m : W64) (n : Nat) (rs : List (Nat × Nat)) : Nat :=
  orFlags (rs.mapIdx fun k r => if activeAt m n k then r.2 else 0)

/-- Write the active elements of v_d and raise their flags (R120). -/
def Ctx.putLanes (c : Ctx) (i : Insn) (rs : List (Nat × Nat)) : Ctx :=
  let w := widthOf i
  let m := maskOf c i
  (c.setV i.d (vecOf w (mergeActive m (countOf i) (vecElems w (c.getV i.d)) (rs.map (·.1))))).raise
    (activeFlags m (countOf i) rs)

/-- v_d := f v_a, element by element. -/
def vecU (s : State) (w : ThreadId) (i : Insn) (types : List Nat) (f : Ctx → Nat → Nat × Nat) :
    Host.Outcome State Fault Refusal :=
  s.issue w (({ d := true, a := true, mask := true, types := types } : Form).fits i) false fun c =>
    s.retire w (c.putLanes i ((vecElems (widthOf i) (c.getV i.a)).map (f c)))

/-- v_d := f v_a v_b, element by element. -/
def vecB (s : State) (w : ThreadId) (i : Insn) (types : List Nat) (f : Ctx → Nat → Nat → Nat × Nat) :
    Host.Outcome State Fault Refusal :=
  s.issue w (({ d := true, a := true, b := true, mask := true, types := types } : Form).fits i) false fun c =>
    s.retire w (c.putLanes i
      (List.zipWith (f c) (vecElems (widthOf i) (c.getV i.a)) (vecElems (widthOf i) (c.getV i.b))))

/-- An arithmetic operation of an element type: IEEE on the floating types, modulo 2^w on INT32 (R131). -/
def arithOp (i : Insn) (fl : FFmt → Nat → Nat → Nat × Nat) (int : Nat → Nat → Nat) (a b : Nat) : Nat × Nat :=
  match etypeOf i.ty.toNat with
  | some (.flt f) => fl f a b
  | some (.int w) => (int a b % 2 ^ w, 0)
  | none => (0, 0)

/-- A sign-bit operation of an element type. -/
def signOp (i : Insn) (g : Nat → Nat → Nat) (a : Nat) : Nat × Nat := (g (2 ^ (widthOf i - 1)) a, 0)

/-- Signed order of two 32-bit patterns. -/
def lt32 (a b : Nat) : Bool := decide (signedOf 32 a < signedOf 32 b)

/-! ## Arithmetic -/

/-- VADD. -/
def execVadd (who : ThreadId) (i : Insn) (s : State) : Host.Outcome State Fault Refusal :=
  vecB s who i tyArith fun c => arithOp i (fun f a b => f.add c.rm a b) (fun a b => a + b)

/-- VSUB. -/
def execVsub (who : ThreadId) (i : Insn) (s : State) : Host.Outcome State Fault Refusal :=
  vecB s who i tyArith fun c => arithOp i (fun f a b => f.sub c.rm a b) (fun a b => a + (2 ^ 32 - b))

/-- VMUL. -/
def execVmul (who : ThreadId) (i : Insn) (s : State) : Host.Outcome State Fault Refusal :=
  vecB s who i tyArith fun c => arithOp i (fun f a b => f.mul c.rm a b) (fun a b => a * b)

/-- The format of a floating type; FP32 for any other code (callers check first). -/
def fltOf (i : Insn) : FFmt :=
  match etypeOf i.ty.toNat with
  | some (.flt f) => f
  | _ => fmtFP32

/-- VFMA: v_a × v_b + v_c with one rounding. -/
def execVfma (who : ThreadId) (i : Insn) (s : State) : Host.Outcome State Fault Refusal :=
  s.issue who (({ d := true, a := true, b := true, c := true, mask := true, types := tyFloat } : Form).fits i) false fun c =>
    let es := fun r => vecElems (widthOf i) (c.getV r)
    s.retire who (c.putLanes i
      (List.zipWith (fun (p : Nat × Nat) z => (fltOf i).fma c.rm p.1 p.2 z) ((es i.a).zip (es i.b)) (es i.c)))

/-- VDIV. -/
def execVdiv (who : ThreadId) (i : Insn) (s : State) : Host.Outcome State Fault Refusal :=
  vecB s who i tyFloat fun c a b => (fltOf i).div c.rm a b

/-- VSQRT. -/
def execVsqrt (who : ThreadId) (i : Insn) (s : State) : Host.Outcome State Fault Refusal :=
  vecU s who i tyFloat fun c a => (fltOf i).sqrt c.rm a

/-- VMIN: IEEE 754-2019 minimum; signed on INT32. -/
def execVmin (who : ThreadId) (i : Insn) (s : State) : Host.Outcome State Fault Refusal :=
  vecB s who i tyOrder fun _ => arithOp i (fun f a b => f.minmax false a b) (fun a b => if lt32 b a then b else a)

/-- VMAX: IEEE 754-2019 maximum; signed on INT32. -/
def execVmax (who : ThreadId) (i : Insn) (s : State) : Host.Outcome State Fault Refusal :=
  vecB s who i tyOrder fun _ => arithOp i (fun f a b => f.minmax true a b) (fun a b => if lt32 a b then b else a)

/-! ## Sign-bit operations (R74) -/

/-- VNEG. -/
def execVneg (who : ThreadId) (i : Insn) (s : State) : Host.Outcome State Fault Refusal :=
  vecU s who i tySign fun _ => signOp i (fun sb a => a ^^^ sb)

/-- VABS. -/
def execVabs (who : ThreadId) (i : Insn) (s : State) : Host.Outcome State Fault Refusal :=
  vecU s who i tySign fun _ => signOp i (fun sb a => a % sb)

/-- VCSGN: v_a with the sign of v_b. -/
def execVcsgn (who : ThreadId) (i : Insn) (s : State) : Host.Outcome State Fault Refusal :=
  vecB s who i tySign fun _ a b => signOp i (fun sb a => a % sb + b / sb * sb) a

/-! ## Compare, select, move -/

/-- The compare of two elements, with its flags (R131). -/
def compareOp (i : Insn) (a b : Nat) : Bool × Nat :=
  match etypeOf i.ty.toNat with
  | some (.flt f) => f.compare (i.imm.toNat % 8) a b
  | _ =>
    let lt := lt32 a b
    let gt := lt32 b a
    (match i.imm.toNat % 8 with
     | 0 => !lt && !gt
     | 1 => lt || gt
     | 2 => lt
     | 3 => !gt
     | 4 => gt
     | 5 => !lt
     | 6 => false
     | _ => true, 0)

/-- Mask bit j of a compare's result, from the results of n elements: the element's own bit (R120). Where several elements share
a bit and differ, and at the odd bit of an FP64 element, the bit is `free j` (log 21). -/
def cmpBit (rs : List (Bool × Nat)) (n : Nat) (free : Nat → Bool) (j : Nat) : Bool :=
  if n < 64 then (if j % 2 = 0 then (rs.getD (j / 2) (false, 0)).1 else free j)
  else
    let g := ((rs.drop (n / 64 * j)).take (n / 64)).map (·.1)
    if g.all (fun b => b) then true else if g.all (fun b => !b) then false else free j

/-- The word whose bit j is `f j`. -/
def wordOfBits (f : Nat → Bool) : W64 := BitVec.ofNat 64 (packCodes 1 ((List.range 64).map fun j => b2n (f j)))

/-- VCMP: m_d := per-element compare. -/
def execVcmp (who : ThreadId) (i : Insn) (s : State) : Host.Outcome State Fault Refusal :=
  s.issue who (({ d := true, a := true, b := true, mask := true, imm := true, dIsMask := true, types := tyOrder } : Form).fits i
      && decide (i.imm.toNat < 8)) false fun c =>
    let w := widthOf i
    let n := countOf i
    let rs := List.zipWith (compareOp i) (vecElems w (c.getV i.a)) (vecElems w (c.getV i.b))
    let m := maskOf c i
    let old := c.getM i.d.toNat
    let free := Config.cmpShared i.ty.toNat (i.imm.toNat % 8) (c.getV i.a) (c.getV i.b)
    let new := wordOfBits fun j => if bitAt m (if n < 64 then j / 2 * 2 else j) then cmpBit rs n free j else bitAt old j
    s.retire who ((c.setM i.d.toNat new).raise (activeFlags m n (rs.map fun r => (0, r.2))))

/-- VSEL: v_d := MASK ? v_a : v_b. -/
def execVsel (who : ThreadId) (i : Insn) (s : State) : Host.Outcome State Fault Refusal :=
  s.issue who (({ d := true, a := true, b := true, mask := true, types := tyAny } : Form).fits i) false fun c =>
    let w := widthOf i
    s.retire who (c.setV i.d (vecOf w
      (mergeActive (maskOf c i) (countOf i) (vecElems w (c.getV i.b)) (vecElems w (c.getV i.a)))))

/-- VMOV. -/
def execVmov (who : ThreadId) (i : Insn) (s : State) : Host.Outcome State Fault Refusal :=
  vecU s who i tyAny fun _ a => (a, 0)

/-- VBCAST: s_a in every element. -/
def execVbcast (who : ThreadId) (i : Insn) (s : State) : Host.Outcome State Fault Refusal :=
  s.issue who (({ d := true, a := true, mask := true, types := tyAny } : Form).fits i) false fun c =>
    s.retire who (c.putLanes i ((List.range (countOf i)).map fun _ => ((c.getS i.a).toNat % 2 ^ widthOf i, 0)))

/-- VLANE: element i := i. -/
def execVlane (who : ThreadId) (i : Insn) (s : State) : Host.Outcome State Fault Refusal :=
  s.issue who (({ d := true, mask := true, types := [0x12] } : Form).fits i) false fun c =>
    s.retire who (c.putLanes i ((List.range (countOf i)).map fun k => (k, 0)))

/-! ## Bitwise and shifts -/

/-- VAND. -/
def execVand (who : ThreadId) (i : Insn) (s : State) : Host.Outcome State Fault Refusal :=
  vecB s who i [0x12] fun _ a b => (a &&& b, 0)

/-- VOR. -/
def execVor (who : ThreadId) (i : Insn) (s : State) : Host.Outcome State Fault Refusal :=
  vecB s who i [0x12] fun _ a b => (a ||| b, 0)

/-- VXOR. -/
def execVxor (who : ThreadId) (i : Insn) (s : State) : Host.Outcome State Fault Refusal :=
  vecB s who i [0x12] fun _ a b => (a ^^^ b, 0)

/-- A shift of a 32-bit element; by 32 or more the result is free (log 18). -/
def shift32 (k : Nat) (f : W32 → Nat → W32) (a b : Nat) : Nat :=
  (if b < 32 then f (BitVec.ofNat 32 a) b else Config.wideShift32 k (BitVec.ofNat 32 a) (BitVec.ofNat 32 b)).toNat

/-- VSHL. -/
def execVshl (who : ThreadId) (i : Insn) (s : State) : Host.Outcome State Fault Refusal :=
  vecB s who i [0x12] fun _ a b => (shift32 0 (fun x n => x <<< n) a b, 0)

/-- VSHR, logical (log 22). -/
def execVshr (who : ThreadId) (i : Insn) (s : State) : Host.Outcome State Fault Refusal :=
  vecB s who i [0x12] fun _ a b => (shift32 1 (fun x n => x >>> n) a b, 0)

/-! ## Reduction and permutation -/

/-- One level of the pairwise tree (R131), with its flags. -/
def pairSums (f : Nat → Nat → Nat × Nat) : List Nat → List Nat × Nat
  | a :: b :: r => let t := pairSums f r; let x := f a b; (x.1 :: t.1, x.2 ||| t.2)
  | r => (r, 0)

/-- `n` levels of the pairwise tree. -/
def treeSum (f : Nat → Nat → Nat × Nat) : Nat → List Nat → Nat × Nat
  | 0, xs => (xs.headD 0, 0)
  | n + 1, xs => let p := pairSums f xs; let t := treeSum f n p.1; (t.1, p.2 ||| t.2)

/-- VRSUM: the pairwise tree over the active elements; an inactive one contributes −0 or 0 (R131). -/
def execVrsum (who : ThreadId) (i : Insn) (s : State) : Host.Outcome State Fault Refusal :=
  s.issue who (({ d := true, a := true, mask := true, types := [0x00, 0x12] } : Form).fits i) false fun c =>
    let float := decide (i.ty = 0)
    let xs := (vecElems 32 (c.getV i.a)).mapIdx fun k x =>
      if activeAt (maskOf c i) 64 k then x else if float then 0x80000000 else 0
    let t := treeSum (fun a b => if float then fmtFP32.add .rne a b else ((a + b) % 2 ^ 32, 0)) 6 xs
    s.retire who ((c.setS i.d (BitVec.ofNat 64 t.1)).raise t.2)

/-- VPERM: element i := v_a[v_b[i] mod N]. -/
def execVperm (who : ThreadId) (i : Insn) (s : State) : Host.Outcome State Fault Refusal :=
  s.issue who (({ d := true, a := true, b := true, mask := true, types := tyAny } : Form).fits i) false fun c =>
    let w := widthOf i
    let a := vecElems w (c.getV i.a)
    s.retire who (c.putLanes i ((vecElems w (c.getV i.b)).map fun k => (a.getD (k % countOf i) 0, 0)))

end Sys2Proof.Machine
end

