-- ==== Sys2Proof/Machine/Convert.lean ====
section
/-! DEFINITION. The convert class (04: Table 4-5, R132 to R134; 02: R49 to R70). -/

namespace Sys2Proof.Machine

/-- The IMM field of the convert class (Table 4-5). -/
structure CvtImm where
  dfmt : Nat
  rm : Nat
  ovm : Bool
  part : Nat
  rsv : Nat
deriving DecidableEq, Repr

/-- Read the fields of a convert's IMM. -/
def cvtImm (i : Insn) : CvtImm :=
  { dfmt := fld i.imm 21 17, rm := fld i.imm 16 14, ovm := bitAt i.imm 13, part := fld i.imm 12 9, rsv := fld i.imm 8 0 }

/-- Whether an RM code is allowed for a reckoner convert to a format (R49). -/
def cvtRmOk (rm fmt : Nat) : Bool := decide (rm ≤ 5) || (decide (rm = 6) && srAllowed fmt)

/-- The rounding of element j of a convert (R49, R52, R133). -/
def cvtMode (c : Ctx) (w : ThreadId) (i : Insn) (rm j : Nat) : RMode :=
  match rm with
  | 5 => c.rm
  | 6 =>
    .sr (philox16 (philox c.srseed.toNat (j / 8) c.srseq.toNat ((c.getS i.c).toNat % 2 ^ 32) (threadNo w)) (j % 8))
  | k => rmOf k

/-- The context after a convert: SRSEQ counts the SR converts (R133). -/
def Ctx.afterCvt (c : Ctx) (rm : Nat) : Ctx := if rm = 6 then { c with srseq := c.srseq + 1 } else c

/-- Whether a word is a well-formed CVT (R126, R132, R133). Where the wider width is no multiple of the narrower one, as for the
6-bit formats, the number of parts, like the number of elements, is rounded down (log 147). -/
def cvtOk (i : Insn) : Bool :=
  let m := cvtImm i
  match etypeOf i.ty.toNat, etypeOf m.dfmt with
  | some s, some d =>
    decide (m.rsv = 0) && cvtRmOk m.rm m.dfmt &&
    decide (m.part < max s.width d.width / min s.width d.width) &&
    (decide (m.rm = 6) || decide (i.c = 0)) && decide (i.b = 0) && !i.v
  | _, _ => false

/-- Results that R54 counts, among the active. -/
def countedActive (mask : W64) (n : Nat) (rs : List Conv) : Nat :=
  ((rs.mapIdx fun k r => activeAt mask n k && r.counted).filter fun b => b).length

/-- CVT (R132). -/
def execCvt (who : ThreadId) (i : Insn) (s : State) : Host.Outcome State Fault Refusal :=
  s.issue who (cvtOk i) false fun c =>
    let m := cvtImm i
    match etypeOf i.ty.toNat, etypeOf m.dfmt with
    | some st, some dt =>
      let n := 2048 / max st.width dt.width
      let src := (vecElems st.width (c.getV i.a)).drop (if st.width < dt.width then n * m.part else 0)
      let rs := (src.take n).mapIdx fun j x => convert st dt (cvtMode c who i m.rm j) m.ovm x
      let mask := maskOf c i
      let old := vecElems dt.width (c.getV i.d)
      let off := if dt.width < st.width then n * m.part else 0
      let new := old.take off ++ mergeActive mask n ((old.drop off).take n) (rs.map (·.bits)) ++ old.drop (off + n)
      let fl := activeFlags mask n (rs.map fun r => (r.bits, r.flags))
      (s.countFrame who.frame.val 0 (countedActive mask n rs)).retire who
        (((c.setV i.d (vecOf dt.width new)).raise fl).afterCvt m.rm)
    | _, _ => s

/-- Whether a word is a well-formed VQBLK: FP32 source, a block target, PART 0 (R134). -/
def vqblkOk (i : Insn) : Bool :=
  let m := cvtImm i
  decide (i.ty = 0) && (blockFmt m.dfmt).isSome && decide (m.rsv = 0) && decide (m.part = 0) && cvtRmOk m.rm m.dfmt &&
  (decide (m.rm = 6) || decide (i.c = 0)) && !i.v

/-- VQBLK: two blocks of v_a into v_d, scales and offsets into s_b (R134). -/
def execVqblk (who : ThreadId) (i : Insn) (s : State) : Host.Outcome State Fault Refusal :=
  s.issue who (vqblkOk i) false fun c =>
    let m := cvtImm i
    match blockFmt m.dfmt with
    | none => s
    | some b =>
      let xs := (vecElems 32 (c.getV i.a)).mapIdx fun k x =>
        if activeAt (maskOf c i) 64 k then fmtFP32.decode x else .fin false 0 0
      let b0 := b.encode (fun j => cvtMode c who i m.rm j) m.ovm (xs.take 32)
      let b1 := b.encode (fun j => cvtMode c who i m.rm (32 + j)) m.ovm (xs.drop 32)
      let v := packCodes b.bits (b0.codes ++ b1.codes)
      let side := b0.scale + 2 ^ 8 * b1.scale + (if b.offs then 2 ^ 16 * b0.offs + 2 ^ 24 * b1.offs else 0)
      (s.countFrame who.frame.val (b0.crush + b1.crush) (b0.ovf + b1.ovf)).retire who
        (((c.setV i.d (BitVec.ofNat 2048 v)).setS i.b (BitVec.ofNat 64 side)).afterCvt m.rm)

/-- Whether a word is a well-formed VDQBLK (R134). -/
def vdqblkOk (i : Insn) : Bool :=
  let m := cvtImm i
  decide (i.ty = 0) && (blockFmt m.dfmt).isSome && decide (m.rsv = 0) && decide (m.part = 0) && decide (m.rm ≤ 5) &&
  decide (i.c = 0) && !i.v

/-- VDQBLK: two blocks of v_a, with scales and offsets from s_b, into the 64 FP32 elements of v_d (R43, R134). -/
def execVdqblk (who : ThreadId) (i : Insn) (s : State) : Host.Outcome State Fault Refusal :=
  s.issue who (vdqblkOk i) false fun c =>
    let m := cvtImm i
    match blockFmt m.dfmt with
    | none => s
    | some b =>
      let side := (c.getS i.b).toNat
      let rs := (codesOf b.bits 64 (c.getV i.a).toNat).mapIdx fun k x =>
        let blk := k / 32
        b.toF32 (cvtMode c who i m.rm k) m.ovm ((side >>> (8 * blk)) % 256) ((side >>> (16 + 8 * blk)) % 256) (k % 32) x
      (s.countFrame who.frame.val 0 (countedActive (maskOf c i) 64 rs)).retire who
        (c.putLanes i (rs.map fun r => (r.bits, r.flags)))

end Sys2Proof.Machine
end

