-- ==== Sys2Proof/Machine/Errors.lean ====
section
/-! DEFINITION. Mesh packets and detected errors (06: R181, R185, R188, R193, R199; 01: R26, R35; 17: R486 to R489, R492, R494,
R495). -/

namespace Sys2Proof.Machine

/-! ## Mesh packets (R26, R181, R193) -/

/-- Place of a position along its physical row, from the outer West edge to the outer East edge. -/
def lineOf (p : Pos) : Nat := match p.half with | .west => 12 - p.pcol.val | .east => 13 + p.pcol.val

/-- The position at a place of a row. -/
def onLine (row : Fin 16) (x : Nat) : Pos :=
  if x ≤ 12 then { half := .west, prow := row, pcol := Fin.ofNat 13 (12 - x) }
  else { half := .east, prow := row, pcol := Fin.ofNat 13 (x - 13) }

/-- The numbers from a to b, whichever is larger. -/
def between (a b : Nat) : List Nat :=
  if a ≤ b then (List.range (b + 1 - a)).map (a + ·) else (List.range (a + 1 - b)).map (a - ·)

/-- The routers that a packet passes: along its row to the destination column, pass-through routers included, then along
the column (R26, R27, R181). None when the source, the frame at the turn, the destination or a frame of the column between is out
of service: no rule routes such a packet (log 163). -/
def State.route (s : State) (p : Packet) : Option (List Pos) :=
  let src := s.positionOf (frameAt s.nv p.srcCol p.srcRow.val)
  let turn := s.positionOf (frameAt s.nv p.dstCol p.srcRow.val)
  match src, turn with
  | some a, some b =>
    let row := (between (lineOf a) (lineOf b)).map (onLine p.srcRow)
    let col := (between p.srcRow.val p.dstRow.val).drop 1 |>.map fun r => s.positionOf (frameAt s.nv p.dstCol r)
    if col.contains none then none else some (row ++ col.filterMap fun x => x)
  | _, _ => none

/-- MESH_PACKET: a packet travels in dimension order. The first router whose region identifier differs from the packet's tag
discards it and posts MESH_EDGE, and the tagged region's requests in flight end at its next boundary (R193); otherwise it
is delivered. A Warm half whose router it reaches becomes Active, also where it is discarded there (R467). DESIGN CHOICE: a packet without a route is dropped, with no
event (log 163). -/
def execMeshPacket (p : Packet) (s : State) : Host.Outcome State Fault Refusal :=
  if s.nv.cols ≤ p.srcCol ∨ s.nv.cols ≤ p.dstCol then .fault .absentFrame else
  .next (
    if !s.isReady then s
    else
      match s.route p with
      | none => s
      | some path =>
        let tag := p.tag.val
        let wake := fun (s : State) (ps : List Pos) => ps.foldl (fun (s : State) x => s.wakeHalf x.half) s
        match path.find? fun x => decide (s.regionAt x ≠ some tag) with
        | some x =>
          let s := wake s (path.takeWhile (fun x => decide (s.regionAt x = some tag)) ++ [x])
          let s := { s with mesh := { s.mesh with discards := s.mesh.discards + 1 } }
          let s := s.postErrAmong [some tag, s.regionAt x] 0x0011 (posIndex x) 0
          if (s.region tag).live then s.modRegion tag fun r => { r with abortAll := true } else s
        | none => (wake s path).emit (.meshDeliver p))

/-- MESH_FLIT_ERROR: a flit failed its CRC. A good replay was transient; otherwise the link is retrained at the next
boundary, and `lasting` says whether it still fails then (R487, Table 17-2). -/
def execMeshFlitError (src dst : Pos) (replayOk lasting : Bool) (s : State) : Host.Outcome State Fault Refusal :=
  .next (
    if !s.isReady then s
    else if replayOk then s.countCe
    else if s.map.retrain.any (fun x => decide (x.1 = src) && decide (x.2.1 = dst)) then s
    else { s with map := { s.map with retrain := s.map.retrain ++ [(src, dst, lasting)] } })

/-! ## Lost data (R488) -/

/-- A region faults with a code that concerns no one context: the record's frame, core, context and pc are what no rule gives
(log 35). -/
def State.looseFault (s : State) (n : Nat) (code : FCode) (addr : Nat) : State :=
  let (v, s) := s.takeFree
  s.regionFault n (faultRecord code (threadOf (Fin.ofNat 384 (v.toNat / 64)) (v.toNat % 64)) (v >>> 16) addr)

/-- The region and window address of a package offset, where a region holds the package (R199). -/
def State.granuleAt (s : State) (tier2 : Bool) (c off : Nat) : Option (Nat × Nat) :=
  let g := if tier2 then 1024 else 256
  match (List.range 4).find? fun n => (s.region n).holdsPackage tier2 c with
  | none => none
  | some n =>
    let l := if tier2 then (s.region n).t2List else (s.region n).t1List
    let base := if tier2 then t2Base n else t1Base n
    some (n, base + placeInverse l.length (l.idxOf c) g (off / g * g))

/-- Mark a granule lost: it is recorded, joins its controller's list in arrival order and reads as zeros; when the list is full the
package in use is lasting-faulty (R488, R498, R508). A granule lost beside a full list is not listed (log 76). -/
def State.markLost (s : State) (tier2 : Bool) (c off : Nat) : State :=
  let g := if tier2 then 1024 else 256
  let o := off / g * g
  let lost := if tier2 then (s.t2 c).lost else (s.t1 c).lost
  if lost.contains o then s
  else
    let s := s.recordFault (.granule tier2 c o)
    let used := if !tier2 && decide ((s.t1 c).state = 2) then 24 else c
    let s := if lost.length = 1023 then s.packageFault tier2 used false else s
    let s := if 1024 ≤ lost.length then s
      else if tier2 then s.modT2 c fun x => { x with lost := x.lost ++ [o] } else s.modT1 c fun x => { x with lost := x.lost ++ [o] }
    match s.granuleAt tier2 c o with
    | some (_, a) => { s with mem := zeroBytes s.mem a g }
    | none => s

/-- What lost data does to who reads it (R486, R488); the copy to a spare goes on, and the mark is taken over at its end (R494). -/
def State.readerLoses (s : State) (reader : Reader) (code addr : Nat) : State :=
  match reader with
  | .migration => s
  | .step rid => s.looseFault rid.val (.other 0x1B) addr
  | .handoff i => if (s.req i).state = .free then s else s.modReq i fun r => { r with failed := true }
  | .copyOut rid => s.postErrFor rid.val 0x0104 code addr
  | .walk i =>
    if (s.req i).state = .free ∨ (s.req i).state = .ended then s
    else (s.modReq i fun r => { r with walkInvalid := true }).modRegion (s.req i).region fun r =>
      r.modStep i fun x => { x with invalid := true }

/-- MEMORY_READ_ERROR: a tier read failed its protection. The link retry is counted; a re-read that succeeds was transient,
and otherwise the granule is lost (R487, R488). -/
def execMemoryReadError (tier2 : Bool) (ctrl : Fin 25) (off addr : Nat) (reader : Reader) (retryOk : Bool) (s : State) :
    Host.Outcome State Fault Refusal :=
  .next (
    if !s.isReady || (tier2 && decide (12 ≤ ctrl.val)) then s
    else
      let s := if tier2 then s.modT2 ctrl.val fun x => { x with retry := satAdd x.retry 1 }
        else s.modT1 ctrl.val fun x => { x with retry := satAdd x.retry 1 }
      if retryOk then s.countCe
      else
        let c := if !tier2 && decide (ctrl.val = 24) && decide ((s.t1 24).state = 2) then s.mc.serves.toNat else ctrl.val
        ((s.markLost tier2 c off).readerLoses reader (packageCode tier2 c) addr).raiseAlert)

/-- A word's row is replaced at the next boundary (R492). -/
def State.rowDue (s : State) (u : SramUnit) (row : Nat) : State :=
  if s.map.rowsDue.contains (u, row) then s
  else { s with map := { s.map with rowsDue := s.map.rowsDue ++ [(u, row)] } }

/-- A lost word of a frame's store, or of its code or chain segment, is zero (R488, R492). -/
def State.zeroWord (s : State) (u : SramUnit) (addr : Nat) : State :=
  match u with
  | .frameStore f _ =>
    if storeAddr f.val 0 ≤ addr ∧ addr < storeAddr f.val storeSize then { s with mem := zeroBytes s.mem (addr / 8 * 8) 8 } else s
  | .instrStore f => s.modFrame f.val fun fr => { fr with istore := smSet 0 fr.istore (addr / 8) 0 }
  | .chainStore f => s.modFrame f.val fun fr => { fr with cstore := smSet 0 fr.cstore (addr / 8) 0 }
  | .staging _ | .seamFifo _ _ _ | .coreMemory _ _ | .requestTable _ | .walkCache _ => s

/-- An entry of a half's walk cache failed its parity: it is dropped, and the walk that met it finds its way through the page table
again (R486). -/
def State.dropWalkEntry (s : State) (h : Half) (i : Nat) : State :=
  match h with
  | .west => { s with att := { s.att with wcW := s.att.wcW.eraseIdx i } }
  | .east => { s with att := { s.att with wcE := s.att.wcE.eraseIdx i } }

/-- SRAM_ERROR: an SRAM read showed an error. A good retry was transient; a word that needs correction again has its row
replaced; a word that stays uncorrectable has lost its data, which is copied as zero, and a request-table entry whose
both copies are bad ends its request (R486 to R488, R492). A walk cache drops the entry, and the walk, repeated, has made the fault
transient. -/
def execSramError (u : SramUnit) (row addr : Nat) (reader : Reader) (o : RetryOutcome) (s : State) :
    Host.Outcome State Fault Refusal :=
  if !unitExists s.nv u then .fault .absentFrame else
  .next (
    if !s.isReady then s
    else
      match u with
      | .walkCache h => (s.dropWalkEntry h row).countCe
      | _ =>
      match o with
      | .corrected => s.countCe
      | .lastingCorrectable => s.rowDue u row
      | .lastingLost =>
        let s := s.rowDue u row
        match u with
        | .requestTable i =>
          if (s.req i).state = .free ∨ (s.req i).state = .ended then s else s.modReq i fun r => { r with abort := true }
        | _ => (s.zeroWord u addr).readerLoses reader (unitCode u) addr)

/-- FRAME_PARITY_ERROR: the frame's region stops with FRAME_ERROR, and the frame awaits its known-answer test (R489). -/
def execFrameParityError (f : Fin 384) (s : State) : Host.Outcome State Fault Refusal :=
  if s.nv.frames ≤ f.val then .fault .absentFrame else
  .next (
    if !s.isReady then s
    else
      let s := match s.positionOf f.val with
        | some p => if s.map.tests.contains p then s else { s with map := { s.map with tests := s.map.tests ++ [p] } }
        | none => s
      match s.regionOfFrame f.val with
      | some n =>
        let (v, s) := s.takeFree
        s.regionFault n (faultRecord (.other 0x1C) (threadOf f (v.toNat % 64)) (v >>> 6) (v.toNat / 2 ^ 16))
      | none => s)

/-! ## The spare GDDR7 package (R494, R495) -/

/-- GDDR_MIGRATION_DONE: every granule has been copied; what could not be read is lost in the spare's copy, and the switch
waits for the first boundary (R494). -/
def execGddrMigrationDone (s : State) : Host.Outcome State Fault Refusal :=
  .next (
    if s.isReady && decide ((s.t1 24).state = 1) && !s.mc.copyDone then
      let l := (s.t1 s.mc.serves.toNat).lost
      ({ s with mc := { s.mc with copyDone := true } }).modT1 24 fun x => { x with lost := l }
    else s)

/-- PACKAGE_LASTING_FAULT: a memory package is lasting-faulty: it migrates to the spare, or is lost (R494, R495). -/
def execPackageLastingFault (tier2 : Bool) (ctrl : Fin 25) (s : State) : Host.Outcome State Fault Refusal :=
  .next (if !s.isReady || (tier2 && decide (12 ≤ ctrl.val)) then s else (s.packageFault tier2 ctrl.val false).raiseAlert)

end Sys2Proof.Machine
end

