-- ==== Sys2Proof/Machine/Reset.lean ====
section
/-! DEFINITION. Resets, start-up, pins and the sideband bus (16: R476 to R485, Tables 16-4 to 16-7; 17: R497, R498; 19: R512,
R513, R516 to R520). -/

namespace Sys2Proof.Machine

/-! ## Resets (R476 to R480, Table 16-5) -/

/-- Both handoff links down, as they are until stage 0x6 has trained them (Table 16-6). -/
def Handoff.unlinked : Handoff := { port0 := { linkUp := false }, port1 := { linkUp := false } }

/-- What a power-on reset (`por`) or a module reset leaves: fuses and module flash, the pins, the keeper's own state, and what
Table 16-5 keeps. The token challenge is a new free value (Table 15-8); ALERT# stays low until GET_STATUS has been read (R520). -/
def State.afterReset (s : State) (por : Bool) (cause : BitVec 3) : State :=
  { pending := s.pending, out := s.out, nv := s.nv, freeCtr := s.freeCtr + 1
    gc := if por then 0 else s.gc
    sys := {
      stage := if por then 0 else 1, lastreset := cause, perst := s.sys.perst && !s.sys.earlyDeassert, present := s.sys.present
      homodeGround := !por && s.sys.homodeGround, mapgen := 0, sbAddr := s.sys.sbAddr }
    pwr := { energy := if por then 0 else s.pwr.energy, plateHot := s.pwr.plateHot, alert := s.pwr.alert }
    ho := Handoff.unlinked
    sec := { debug := !por && (s.sec.debug || s.sec.unlocking), chal := s.freeCtr, running := none } }

/-- A power-on reset: start-up begins at stage 0x0 (R477, R512). -/
def State.powerOn (s : State) (cause : BitVec 3) : State := s.afterReset true cause

/-- A THERMTRIP has not been left by a power-on reset of R477. -/
def State.trip (s : State) : Bool := s.pwr.thermLatched || s.pwr.psLatched

/-- A module reset while the module is held off for over-voltage: the keeper resets what it keeps, and nothing starts up before the
input returns (R513, R519, log 199). -/
def State.heldReset (s : State) (cause : BitVec 3) : State :=
  let t := s.afterReset false cause
  { t with pwr := s.pwr, sys := { t.sys with stage := 0 } }

/-- A module reset: start-up begins at stage 0x1 (R476, R480). Where it cuts stage 0x0 short, whether HOMODE had been sampled by then is
open (R517, log 42). -/
def State.moduleReset (s : State) (cause : BitVec 3) : State :=
  if s.pwr.rail = .overHold ∧ !s.trip then s.heldReset cause
  else if s.pwr.rail ≠ .on then s
  else if s.sys.stage = 0 then
    let (v, s) := s.takeFree
    let t := s.afterReset false cause
    { t with sys := { t.sys with homodeGround := decide (v.toNat % 2 = 1) } }
  else s.afterReset false cause

/-- POWER_ON_RESET: the input has stayed in its range for 5 ms (R512). -/
def execPowerOnReset (s : State) : Host.Outcome State Fault Refusal := .next (s.powerOn 0)

/-- Power goes off both halves, the seam strip and the memory packages: their contents, requests and links are lost (R474,
R513). -/
def State.powerOff (s : State) (rail : Rail) (cause : BitVec 2) : State :=
  { s with
    mem := [], regions := [], reqs := [], frames := [], att := {}, fab := {}, ho := Handoff.unlinked, mesh := {}, hif := {}, mc := {}
    races := [], atLull := none
    sec := { debug := s.sec.debug || s.sec.unlocking, chal := s.sec.chal, running := none }
    sys := { s.sys with stage := 0, mapgen := 0, keeperExpiry := none }
    pwr := { s.pwr with
      rail := rail, offcause := cause, lull := false, capsDue := false
      west := { tj := s.pwr.west.tj }, east := { tj := s.pwr.east.tj } } }

/-- UNDER_VOLTAGE_OFF: the input fell below 30.5 V for 20 µs: the keeper's rail goes too, and with it the latches (R477,
R513). -/
def execUnderVoltageOff (s : State) : Host.Outcome State Fault Refusal :=
  let s := s.powerOff .off 0
  .next { s with
    pwr := { s.pwr with thermLatched := false, psLatched := false, plateHot := false, alert := false }
    sys := { s.sys with sbAddr := none } }

/-- OVER_VOLTAGE_OFF: the input rose above 40.5 V for 20 µs: only the keeper runs, and holds the module off, a tripped one too
(R513). -/
def execOverVoltageOff (s : State) : Host.Outcome State Fault Refusal :=
  .next (
    match s.pwr.rail with
    | .on | .tripped => (s.powerOff .overHold 3).raiseAlert
    | .off | .overHold => s)

/-- INPUT_RETURN: after an over-voltage, the input has been back in range for 5 ms: a power-on reset follows (R513), but a module that
had tripped stays tripped, for R477 gives the only ways out (log 199). -/
def execInputReturn (s : State) : Host.Outcome State Fault Refusal :=
  .next (
    if s.pwr.rail ≠ .overHold then s
    else if s.trip then { s with pwr := { s.pwr with rail := .tripped, offcause := if s.pwr.psLatched then 2 else 1 } }
    else s.powerOn 0)

/-- THERMTRIP: a junction at 125 °C or a power-stage fault removes power; only the keeper runs (R474, R475, R477). -/
def execThermtrip (powerStage : Bool) (s : State) : Host.Outcome State Fault Refusal :=
  .next (
    if s.pwr.rail = .on then
      let s := s.powerOff .tripped (if powerStage then 2 else 1)
      ({ s with pwr := { s.pwr with
        thermLatched := s.pwr.thermLatched || !powerStage, psLatched := s.pwr.psLatched || powerStage } }).raiseAlert
    else s)

/-- PERST_ASSERT: the module is held in module reset while PERST# is asserted (R476, R516). -/
def execPerstAssert (s : State) : Host.Outcome State Fault Refusal :=
  .next (({ s with sys := { s.sys with perst := true, earlyDeassert := false } }).moduleReset 1)

/-- PERST_DEASSERT: one that arrives before stage 0x1 counts as arriving at its start (R516). -/
def execPerstDeassert (s : State) : Host.Outcome State Fault Refusal :=
  .next (
    if s.pwr.rail = .on ∧ s.sys.stage = 0 then { s with sys := { s.sys with earlyDeassert := true } }
    else { s with sys := { s.sys with perst := false } })

/-- PRESENT_MATE: the module is fully seated and may drive the PCIE group (R516). -/
def execPresentMate (s : State) : Host.Outcome State Fault Refusal :=
  .next { s with sys := { s.sys with present := true } }

/-- MODULE_RESET: a module reset for one of the causes of Table 16-4, by its LASTRESET code. -/
def execModuleReset (cause : BitVec 3) (s : State) : Host.Outcome State Fault Refusal :=
  .next (if 1 ≤ cause.toNat ∧ cause.toNat ≤ 4 then s.moduleReset cause else s)

/-- The queue bindings, which a Function Level Reset keeps, with every other queue register at its reset value. -/
def Queue.bindingOnly (q : Queue) : Queue :=
  { role := q.role, brid := q.brid, stream := q.stream, diagok := q.diagok, domlo := q.domlo, domhi := q.domhi }

/-- The host interface after a Function Level Reset (R478, R479). -/
def Hif.afterFlr (h : Hif) : Hif :=
  { queues := (h.queues.map fun (x : Nat × Queue) => (x.1, x.2.bindingOnly)).filter fun (x : Nat × Queue) => decide (x.2 ≠ {})
    width := h.width, speed := h.speed, flit := h.flit }

/-- A region at a Function Level Reset: its compute stops with no fault record, a step that is planned is not launched, and nothing of
its rings is left (R479). -/
def Region.afterFlr (r : Region) : Region :=
  { r with
    noEnd := true, noDigest := r.noDigest || decide (r.run ≠ .waiting), planned := false, readies := []
    stepReqs := if r.run = .waiting then [] else r.stepReqs, digest := [], traces := [], digWait := [], bcmds := [], drains := []
    removals := [] }

/-- The actions of R479. In Lull the registers show the reset (log 68). -/
def State.functionLevelReset (s : State) : State :=
  let s := (List.range 4).foldl State.stopRegion s
  let t : State := { s with
    regions := s.regions.map fun (x : Nat × Region) => (x.1, x.2.afterFlr)
    reqs := s.reqs.map fun (x : Nat × Req) =>
      (x.1, { x.2 with noPost := true, abort := x.2.abort || (decide (x.2.state ≠ .free) && decide (x.2.state ≠ .ended)) })
    ho := { s.ho with drains := [] }
    hif := s.hif.afterFlr
    sec := { s.sec with sessions := [], linkIde := {}, selIde := [], chal := s.freeCtr }
    freeCtr := s.freeCtr + 1 }
  { t with atLull := t.atLull.map fun _ => t.view }

/-- FUNCTION_LEVEL_RESET: R479 when READY; during start-up after stage 0x3, start-up restarts at stage 0x3 (R480). -/
def execFunctionLevelReset (s : State) : Host.Outcome State Fault Refusal :=
  .next (
    if s.isReady then s.functionLevelReset
    else if s.hostUp ∧ 3 ≤ s.sys.stage.toNat then
      let t := s.functionLevelReset
      { t with sys := { t.sys with stage := 3 } }
    else s)

/-- KEEPER_WATCHDOG_EXPIRY: the keeper restarts; a second expiry within 1 s resets the module (R497). -/
def execKeeperWatchdogExpiry (s : State) : Host.Outcome State Fault Refusal :=
  .next (
    if s.pwr.rail = .off then s
    else
      match s.sys.keeperExpiry with
      | some t =>
        if (s.gc - t).toNat ≤ 1000000000 then ({ s with sys := { s.sys with keeperExpiry := none } }).moduleReset 4
        else { s with sys := { s.sys with keeperExpiry := some s.gc } }
      | none => { s with sys := { s.sys with keeperExpiry := some s.gc } })

/-! ## Start-up (R482 to R485) -/

/-- The image in flash is acceptable (R455): what flash holds was written under R456 or R458, and its SVN is still at least
the fuses. -/
def NonVol.acceptable (nv : NonVol) : Option FwImage := nv.fw.filter fun f => decide (nv.rollback ≤ f.svn)

/-- A row is remapped to a spare row. -/
def State.remapRow (s : State) (u : SramUnit) (row : Nat) : State :=
  { s with map := { s.map with rows := s.map.rows ++ [(u, row)] } }

/-- Apply one record of the fault history to the map, the spare rows, the lanes and the control cores (R24, R484, R498); a start-up
that an FLR began anew finds what it has applied before. Packages have their stage, and a granule's data went with the memory
(log 80). -/
def State.applyHistory (s : State) (k : FaultKind) : State :=
  match k with
  | .frame p => if s.usable p then s.retireMap p else s
  | .row none u row => s.remapRow u row
  | .row (some p) u row => match s.logicalAt p with | some f => s.remapRow (unitAtFrame u f) row | none => s
  | .noSpareRow _ _ => { s with sys := { s.sys with extraDegraded := true } }
  | .granule _ _ _ => s
  | .handoffLane port lane => s.modHoPort port fun x => x.loseLane lane
  | .link a b => { s with map := { s.map with lostLinks := s.map.lostLinks ++ [(a, b)] } }
  | .core n =>
    if s.sys.cores[n]? = some .retired then s
    else
    let cs := setAt s.sys.cores n .retired
    let cs := match cs.findIdx? fun c => decide (c = .spare) with | some k => setAt cs k .service | none => cs
    { s with sys := { s.sys with cores := cs } }
  | .lane port lane => s.modPort port fun p =>
    if p.bad.contains lane then p else { p with bad := p.bad ++ [lane], spare := spareUsed (p.bad ++ [lane]) }
  | .package _ _ => s

/-- Stage 0x4: the map is built from the fuses and the history, then spare rows are brought in for the rows that failed twice, and
the frames that failed twice, or have no spare row left, are retired; the generation reads 2 at READY (R24, R484, R492, R506). -/
def State.selfTest (s : State) (rep : StageReport) : State :=
  let s := { s with map := {}, mem := [], frames := [], races := [] }
  let s := (s.nv.history.map (·.1)).foldl State.applyHistory s
  let due := rep.failedRows.eraseDups.filter fun x => unitExists s.nv x.1 && hasRows x.1
  let s := s.mendRows due (rep.failedFrames ++ s.exhausted due)
  { s with sys := { s.sys with mapgen := 2 } }

/-- Stage 0x5: lost and replaced packages of the history, then those that failed training twice (R484). -/
def State.trainMemory (s : State) (rep : StageReport) : State :=
  let s := (s.nv.history.map (·.1)).foldl (fun (s : State) k => match k with
    | .package t c => if s.knownFaulty t c then s else s.packageDown t c true
    | _ => s) s
  let s := rep.failedT1.foldl (fun (s : State) c => s.packageFault false c.val true) s
  rep.failedT2.foldl (fun (s : State) c => s.packageFault true c.val true) s

/-- Stage 0x6: the handoff PHYs are trained in the lane mode set by strapping, without waiting for a partner; a port that has lost a lane
of that mode stays down (R493, Table 16-6). -/
def State.trainHandoff (s : State) (port : Nat) : State :=
  s.modHoPort port fun x => { x with linkUp := (x.lanesLost.filter s.usesLane).isEmpty }

/-- The next stage. -/
def State.toStage (s : State) (n : BitVec 4) : State := { s with sys := { s.sys with stage := n } }

/-- STARTUP_STAGE_DONE: the work of the current stage is complete (Table 16-6). Nothing goes on past stage 0x0 while PERST#
is asserted (R516), and stage 0x2 ends only with recovery (R458). -/
def execStartupStageDone (rep : StageReport) (s : State) : Host.Outcome State Fault Refusal :=
  .next (
    if s.pwr.rail ≠ .on then s
    else
      match s.sys.stage.toNat with
      | 0 =>
        let s := { s with sys := { s.sys with
          homodeGround := rep.homodeGround, perst := s.sys.perst && !s.sys.earlyDeassert, earlyDeassert := false } }
        s.toStage 1
      | 1 =>
        if s.sys.perst then s
        else
          let s := { s with hif := { s.hif with width := rep.linkWidth, speed := rep.linkSpeed, flit := rep.linkFlit } }
          match s.nv.acceptable with
          | some f => ({ s with sec := { s.sec with running := some f, recovery := false } }).toStage 3
          | none => ({ s with sec := { s.sec with running := none, recovery := true } }).toStage 2
      | 3 => if s.sys.perst then s else s.toStage 4
      | 4 => if s.sys.perst then s else ((s.selfTest rep).toStage 5).raiseAlert
      | 5 => if s.sys.perst then s else ((s.trainMemory rep).toStage 6).raiseAlert
      | 6 =>
        if s.sys.perst then s
        else (((s.trainHandoff 0).trainHandoff 1).toStage 7).raiseAlert
      | _ => s)

/-! ## Status words (Tables 16-7, 17-3, 18-3) -/

/-- SYS_STATUS. -/
def State.sysStatus (s : State) : Nat :=
  s.sys.stage.toNat + 16 * b2n (decide (s.sys.stage = 7)) + 32 * b2n s.isDegraded + 64 * s.sys.lastreset.toNat

/-- A half is below its cap under Table 16-3. -/
def State.below (s : State) (h : Half) : Bool := (s.half h).throttled && decide ((s.cap h).toNat < (s.half h).step.toNat)

/-- PWR_STATE. -/
def State.pwrState (s : State) : Nat :=
  s.moduleState + 4 * b2n s.pwr.west.active + 8 * b2n s.pwr.east.active + 16 * s.pwr.west.step.toNat +
  64 * s.pwr.east.step.toNat + 256 * b2n (s.below .west || s.below .east)

/-- PWR_TEMP. -/
def State.pwrTemp (s : State) : Nat :=
  s.pwr.west.tj.toNat + 2 ^ 8 * s.pwr.east.tj.toNat + 2 ^ 16 * s.pwr.stj.toNat + 2 ^ 24 * s.pwr.plate.toNat

/-- PWR_POWER. -/
def State.pwrPower (s : State) : Nat := s.pwr.input.toNat

/-- PWR_ENERGY, in millijoules. -/
def State.pwrEnergy (s : State) : Nat := s.pwr.energy / 1000000 % 2 ^ 64

/-- SYS_SPARE. -/
def State.sysSpare (s : State) : Nat :=
  s.frameSpares + 2 ^ 6 * b2n (s.sys.cores.contains .spare) + 2 ^ 7 * b2n (decide ((s.t1 24).state = 0)) +
  2 ^ 8 * min 63 s.map.lostCols.length + 2 ^ 14 * (s.sys.cores.filter fun c => decide (c = .service)).length +
  2 ^ 17 * b2n s.packageLost

/-- SYS_IDENT. -/
def State.sysIdent (s : State) : Nat :=
  b2n s.nv.grade352 + 2 * s.nv.frames + 2 ^ 10 * s.nv.dierev.toNat + 2 ^ 14 * s.nv.modrev.toNat

/-- SYS_FWVER. -/
def State.sysFwver (s : State) : Nat := match s.sec.running with | some f => f.version.toNat | none => 0

/-! ## The sideband bus (Table 19-6) -/

/-- The keeper answers in every power state with the keeper's rail up (R518); a command on the bus is a wake event (R470). -/
def State.sbReply (s : State) (ws : List Nat) : State :=
  if s.pwr.rail = .off then s else (s.emit (.sideband (ws.map (BitVec.ofNat 64)))).wakeUp

/-- GET_STATUS: status, power, temperature, spares, OFFCAUSE and the causes of ALERT#, which is released when none remains
(R518, R520). -/
def execGetStatus (s : State) : Host.Outcome State Fault Refusal :=
  let t := s.sbReply [s.sysStatus, s.pwrState, s.pwrTemp, s.pwrPower, s.sysSpare, s.pwr.offcause.toNat, s.alertCauses]
  .next (if s.pwr.rail = .off then s else { t with pwr := { t.pwr with alert := decide (s.alertCauses ≠ 0) } })

/-- GET_ENERGY (R518). -/
def execGetEnergy (s : State) : Host.Outcome State Fault Refusal := .next (s.sbReply [s.pwrEnergy])

/-- GET_IDENT (R518). -/
def execGetIdent (s : State) : Host.Outcome State Fault Refusal :=
  .next (s.sbReply [s.sysIdent, s.nv.serial.toNat, s.sysFwver])

/-- Every junction reading and PLATE is at most 60 °C. -/
def State.cooled (s : State) : Bool :=
  decide (s.pwr.west.tj.toNat ≤ 60) && decide (s.pwr.east.tj.toNat ≤ 60) && decide (s.pwr.stj.toNat ≤ 60) &&
  decide (s.pwr.plate.toNat ≤ 60)

/-- RESET: acknowledged, then a module reset; after a THERMTRIP a power-on reset, or an MCTP error while it is not yet safe
(R477, R518, R519). -/
def execReset (s : State) : Host.Outcome State Fault Refusal :=
  .next (match s.pwr.rail with
    | .off => s
    | .tripped =>
      if s.cooled && !s.pwr.psLatched then (s.emit (.sideband [0x10])).powerOn 5 else s.emit .sidebandError
    | .on => (s.emit (.sideband [0x10])).moduleReset 2
    | .overHold => if s.trip then s.emit .sidebandError else (s.emit (.sideband [0x10])).moduleReset 2)

/-- WAKE: acknowledged; a wake event (R470, R518). -/
def execWake (s : State) : Host.Outcome State Fault Refusal := .next (s.sbReply [0x11])

/-- The codes of Table 19-6, each of which has a row of its own. -/
def sbCodes : List Byte := [0x01, 0x02, 0x03, 0x10, 0x11]

/-- The module takes a dynamic address on the sideband bus; one that has an address keeps it (Table 19-5, log 200). -/
def State.takeAddress (s : State) (a : BitVec 7) : State :=
  { s with sys := { s.sys with sbAddr := s.sys.sbAddr.or (some a) } }

/-- What a command on the sideband bus does that no row of its own carries (R518): a message with a code that Table 19-6 does not have is
answered with an MCTP error (one that it has is answered by its own row), and ENTDAA and SETAASA assign the dynamic address. -/
def State.sbCommand (s : State) (c : SbCommand) : State :=
  if s.pwr.rail = .off then s
  else
    match c with
    | .message code => if sbCodes.contains code then s else s.emit .sidebandError
    | .entdaa a => s.takeAddress a
    | .setaasa => s.takeAddress 0x5A

/-- WAKE_EVENT: one of the wake events of R470 occurs; a command on the sideband bus is acted on (R518). -/
def execWakeEvent (cause : WakeCause) (s : State) : Host.Outcome State Fault Refusal :=
  match cause with
  | .sideband c => .next (s.sbCommand c).wakeUp
  | .doorbell | .barWrite | .cell | .thermal | .alarm => .next s.wakeUp

end Sys2Proof.Machine
end

