-- ==== Sys2Proof/Machine/Security.lean ====
section
/-! DEFINITION. Secrecy, keys and attestation (15): ownership, queue bindings, regions' commands, firmware, reports, tokens, SPDM
sessions and IDE (R422, R442 to R462). -/

namespace Sys2Proof.Machine

/-- The first n bytes of a string, filled up with zeros. -/
def fit (n : Nat) (bs : List Byte) : List Byte := (bs.take n) ++ List.replicate (n - bs.length) 0

/-- The bytes of `n` words of an entry from word k on (R7). -/
def wordBytes (e : Entry) (k n : Nat) : List Byte := (List.range n).flatMap fun i => leBytes 8 (wordAt e (k + i)).toNat

/-! ## Ownership (R443 to R446) -/

/-- The open session whose requester key may be enrolled: the one with mutual authentication (R443). -/
def State.candidate (s : State) : Option Session := s.sec.sessions.find? fun x => decide (x.kind = .ownership)

/-- OWN_ENROLL: stores the requester key of the open session (R443). -/
def execOwnEnroll (q : Fin 8192) (e : Entry) (s : State) : Host.Outcome State Fault Refusal :=
  s.command q e 0x10 (fun _ => .first) Status.malformed
    (fun _ => ((wordBytes e 1 8).drop 57).any (fun b => decide (b ≠ 0)) || !zeroFrom e 9) fun t =>
    let key := (wordBytes e 1 8).take 57
    if t.nv.ownerKey.isSome then t.cmdDone q.val (hostTag e) Status.ownerSet []
    else if (t.candidate.map (·.key)) ≠ some key then t.cmdDone q.val (hostTag e) Status.ownerKeyMismatch []
    else ({ t with nv := { t.nv with ownerKey := some key } }).cmdDone q.val (hostTag e) Status.ok []

/-- An unbound queue: its binding at reset values. -/
def Queue.unbind (x : Queue) : Queue := { x with role := .unbound, brid := 0, stream := 0, diagok := false, domlo := 0, domhi := 0 }

/-- The trained ports retrain, and no longer with authentication (R446). -/
def State.retrainPorts (s : State) : State :=
  let down := s.fab.ports.map fun (x : Nat × Port) => (x.1, { x.2 with up := false, lanes := 0, auth := false, held := false, retrying := false })
  let was := (s.port s.parentPort).up
  let s := { s with fab := { s.fab with ports := down.filter fun (x : Nat × Port) => decide (x.2 ≠ ({} : Port)) } }
  if was && !s.isRoot then s.unlock else s

/-- The owner is gone (R446): key, regions at their next boundary, bindings, CAK and fabric key, pairing and layouts. The session
ends with the completion. -/
def State.dropOwner (s : State) : State :=
  let s := { s with nv := { s.nv with ownerKey := none } }
  let qs := s.hif.queues.map fun (x : Nat × Queue) => (x.1, if x.1 = 0 then x.2 else x.2.unbind)
  let s := { s with
    regions := s.regions.map fun (x : Nat × Region) => (x.1, if x.2.live then { x.2 with removing := true, disabled := true } else x.2)
    hif := { s.hif with queues := qs.filter fun (x : Nat × Queue) => decide (x.2 ≠ ({} : Queue)) } }
  let keyed := s.sec.fabricKey.isSome
  let s := { s with sec := { s.sec with cak := none, fabricKey := none } }
  let s := if keyed then s.retrainPorts else s
  let s := s.unpair
  let unkey := fun (x : HoPort) => { x with sak := none }
  ({ s with ho := { s.ho with layouts := [] } }.modHoPort 0 unkey).modHoPort 1 unkey

/-- The session of an owner that has been dropped ends (R446). -/
def State.closeOwner (s : State) : State :=
  { s with sec := { s.sec with sessions := s.sec.sessions.filter fun x => decide (x.kind ≠ .ownership) } }

/-- OWN_RELEASE (R446). -/
def execOwnRelease (q : Fin 8192) (e : Entry) (s : State) : Host.Outcome State Fault Refusal :=
  s.command q e 0x11 (fun _ => .owner) Status.malformed (fun _ => !zeroFrom e 1) fun t =>
    (t.dropOwner.cmdDone q.val (hostTag e) Status.ok []).closeOwner

/-! ## Regions and bindings (R194, R447, R450, R452) -/

/-- REGION_CREATE: waits for the next boundary (R194, R450). -/
def execRegionCreate (q : Fin 8192) (e : Entry) (blob : HostRead) (s : State) : Host.Outcome State Fault Refusal :=
  s.command q e 0x12 (fun _ => .owner) Status.malformed (fun _ => !zeroFrom e 3) fun t =>
    t.modRegion (fld (wordAt e 1) 1 0) fun r => { r with
      bcmds := r.bcmds ++ [{ queue := q.val, hosttag := hostTag e, cmd := .regionCreate q e blob }] }

/-- REGION_REMOVE: waits for the next boundary (R194). -/
def execRegionRemove (q : Fin 8192) (e : Entry) (s : State) : Host.Outcome State Fault Refusal :=
  s.command q e 0x13 (fun _ => .owner) Status.malformed (fun _ => decide (4 ≤ wn e 1) || !zeroFrom e 2) fun t =>
    t.atBoundary q e (wn e 1) (.regionRemove q e)

/-- QUEUE_BIND malformed (R447, Table 15-3). -/
def badBind (w : W64) : Bool :=
  decide (fld w 12 0 = 0) || decide (fld w 14 13 = 3) || (bitAt w 19 && decide (fld w 14 13 ≠ 1)) ||
  decide (fld w 51 36 < fld w 35 20) || decide (fld w 63 52 ≠ 0)

/-- A selective stream that was keyed in a tenant session of the region (R452). -/
def State.tenantStream (s : State) (n k : Nat) : Bool := s.streamKeyed k (s.region n).tpub

/-- QUEUE_BIND: sets the binding of a queue that is not enabled (R447, R452, R507). -/
def execQueueBind (q : Fin 8192) (e : Entry) (s : State) : Host.Outcome State Fault Refusal :=
  s.command q e 0x14 (fun _ => .owner) Status.malformed (fun _ => badBind (wordAt e 1) || !zeroFrom e 2) fun t =>
    let w := wordAt e 1
    let k := fld w 12 0
    let n := fld w 16 15
    if (t.queue k).en then t.cmdDone q.val (hostTag e) Status.queueEnabled []
    else if fld w 14 13 = 2 ∧ (t.region n).sealed ∧ t.tenantStream n (fld w 18 17) = false then
      t.cmdDone q.val (hostTag e) Status.streamInvalid []
    else
      (t.modQueue k fun x => { x with
        role := if fld w 14 13 = 0 then .unbound else if fld w 14 13 = 1 then .owner else .tenant
        brid := n, stream := fld w 18 17, diagok := bitAt w 19, domlo := fld w 35 20, domhi := fld w 51 36 }).cmdDone
          q.val (hostTag e) Status.ok []

/-! ## Firmware (R455 to R458) -/

/-- How the ROM judges an image. -/
inductive FwCheck where
  | good (f : FwImage)
  | badSignature
  | lowSvn
deriving DecidableEq, Repr

/-- The checks of R455 on an image of a number of bytes: magic, a signing-key slot of Table 15-7 that is not revoked and whose key
agrees with its fused digest, the signature, and SVN. -/
def checkImage (rollback : Nat) (b : List Byte) (length : Nat) : FwCheck :=
  let b := b.take length
  let body := leNat ((b.drop 16).take 8)
  let svn := leNat ((b.drop 8).take 1)
  let d := shake256 (b.take 64 ++ (b.drop 256).take body) 64
  let slot := leNat ((b.drop 9).take 1)
  let k := Config.signingKey slot
  if leNat (b.take 4) ≠ 0x4D573246 ∨ b.length < 256 + body ∨ 64 < svn ∨ 1 < slot ∨ Config.slotRevoked slot = true ∨
      shake256 k (Config.signingDigest slot).length ≠ Config.signingDigest slot ∨
      Config.ed448Verify k d ((b.drop 64).take 114) = false then .badSignature
  else if svn < rollback then .lowSvn
  else .good { version := BitVec.ofNat 32 (leNat ((b.drop 4).take 4)), svn := svn, digest := d }

/-- FW_UPDATE: an image that R455 accepts replaces the one in flash and runs from the next reset. A write of flash that is
interrupted leaves no acceptable image, and the command does not complete (R456, R458). -/
def execFwUpdate (q : Fin 8192) (e : Entry) (img : HostRead) (flashOk : Bool) (s : State) : Host.Outcome State Fault Refusal :=
  s.command q e 0x15 (fun _ => .owner) Status.malformed (fun _ => decide (2 ^ 32 ≤ wn e 2) || !zeroFrom e 3 || img.isNone) fun t =>
    match checkImage t.nv.rollback (hostBytes img) (wn e 2) with
    | .badSignature => t.cmdDone q.val (hostTag e) Status.imageRejected []
    | .lowSvn => t.cmdDone q.val (hostTag e) Status.svnLow []
    | .good f =>
      if flashOk then ({ t with nv := { t.nv with fw := some f } }).cmdDone q.val (hostTag e) Status.ok []
      else { t with nv := { t.nv with fw := none } }

/-- SVN_COMMIT: rollback fuses are blown up to the running image's SVN (R457). -/
def execSvnCommit (q : Fin 8192) (e : Entry) (s : State) : Host.Outcome State Fault Refusal :=
  s.command q e 0x16 (fun _ => .owner) Status.malformed (fun _ => !zeroFrom e 1) fun t =>
    ({ t with nv := { t.nv with rollback := max t.nv.rollback t.fwSvn } }).cmdDone q.val (hostTag e) Status.ok []

/-! ## Reports and measurements (R442, R451, R459, R460) -/

/-- The seed of the identity key (Table 15-2). -/
def identitySeed : List Byte := shake256 (Config.dus ++ [0x69, 0x64]) 57

/-- The seed of the alias key (Table 15-2); a debug unlock in course has erased the one with dbg = 0 (R462). -/
def State.aliasSeed (s : State) : List Byte :=
  shake256 (Config.dus ++ s.fwD ++ leBytes 1 s.fwSvn ++ [BitVec.ofNat 8 (b2n (s.sec.debug || s.sec.unlocking))]) 57

/-- The X.509 certificate of the alias key, signed by the identity key (R442). -/
def State.aliasCertificate (s : State) : List Byte :=
  let body := Config.x509Body (Config.ed448Public identitySeed) (Config.ed448Public s.aliasSeed)
  body ++ Config.ed448Sign identitySeed body

/-- The chain of certificate slot 0: Silbor's root, the identity key, the alias key (R460). -/
def State.certificateChain (s : State) : List Byte := Config.silborCertificates ++ s.aliasCertificate

/-- OWNERID (Table 15-9). -/
def State.ownerId (s : State) : List Byte := match s.nv.ownerKey with | some k => shake256 k 32 | none => List.replicate 32 0

/-- Region n in a report: its descriptor, presence, sealing and SEAL_ID. -/
def State.regionReport (s : State) (n : Nat) : List Byte :=
  let r := s.region n
  leBytes 8 r.descriptor.toNat ++ leBytes 8 (b2n r.live + 2 * b2n r.sealed) ++ fit 32 r.sealId

/-- Bytes 0 to 511 of the signed report (Table 15-9). -/
def State.reportBody (s : State) (nonce : List Byte) : List Byte :=
  leBytes 4 0x52503246 ++ leBytes 4 1 ++ fit 32 nonce ++ leBytes 8 s.gc.toNat ++ leBytes 8 s.nv.serial.toNat ++
  leBytes 1 (b2n s.nv.grade352) ++ leBytes 1 s.fwSvn ++ leBytes 1 s.nv.rollback ++
  leBytes 1 (b2n s.nv.ownerKey.isSome + 2 * b2n s.ownerSession + 4 * b2n s.sec.debug) ++ leBytes 4 0 ++
  fit 64 Config.romDigest ++ fit 64 s.fwD ++ s.ownerId ++ List.replicate 32 0 ++
  (List.range 4).flatMap s.regionReport ++ fit 56 (Config.x448Public s.wrapPrivate) ++ List.replicate 8 0

/-- The signed report. -/
def State.report (s : State) (nonce : List Byte) : List Byte :=
  s.reportBody nonce ++ fit 114 (Config.ed448Sign s.aliasSeed (s.reportBody nonce)) ++ List.replicate 14 0

/-- REPORT: writes the signed report to host memory (R459). -/
def execReport (q : Fin 8192) (e : Entry) (s : State) : Host.Outcome State Fault Refusal :=
  s.command q e 0x17 (fun _ => .all) Status.malformed (fun _ => !zeroFrom e 6) fun t =>
    (t.sendTlp (t.queueVia q.val) (.hostWrite false (wordAt e 1) (t.report (wordBytes e 2 4)))).cmdDone q.val (hostTag e) Status.ok []

/-- Measurement block k, 1 to 9 (R460). -/
def State.measurement (s : State) (k : Nat) : List Byte :=
  match k with
  | 1 => fit 64 Config.romDigest
  | 2 => fit 64 s.fwD
  | 3 => leBytes 1 s.fwSvn ++ leBytes 1 s.nv.rollback ++ leBytes 1 (b2n s.sec.debug)
  | 4 | 5 | 6 | 7 => s.regionReport (k - 4)
  | 8 => s.ownerId
  | _ => fit 56 (Config.x448Public s.wrapPrivate)

/-- SPDM can be spoken: over the sideband through the keeper, or over DOE once the link is served (R460, R483). -/
def State.spdmUp (s : State) (sideband : Bool) : Bool :=
  if sideband then decide (s.pwr.rail ≠ .off) else s.hostUp && decide (3 ≤ s.sys.stage.toNat)

/-- A message over the sideband bus is a wake event (R470). -/
def State.spdmHeard (s : State) (sideband : Bool) : State := if sideband then s.wakeUp else s

/-- The measurement blocks that a request names: their count, one of them, or all (R460). -/
def State.measurementBlocks (s : State) (k : Nat) : Option (List Byte) :=
  if k = 0 then some [9]
  else if k ≤ 9 then some (s.measurement k)
  else if k = 255 then some (((List.range 9).map (· + 1)).flatMap s.measurement)
  else none

/-- The answer of the responder (R460), in the codes of the SPDM specification (log 176): versions 1.2 and 1.3; the capabilities CERT,
CHAL, MEAS with signature, ENCRYPT, MAC, MUT_AUTH, KEY_EX, HBEAT and KEY_UPD; Ed448, SHA3-512, secp384r1 and AES-256-GCM; certificate slot
0; a challenge and measurements signed with the alias key. -/
def State.spdmAnswer (s : State) (g : SpdmGet) : Option (List Byte) :=
  let signed := fun (bs nonce : List Byte) => bs ++ Config.ed448Sign s.aliasSeed (bs ++ nonce)
  match g with
  | .version => some [0x12, 0x13]
  | .capabilities => some (leBytes 4 0x63D6)
  | .algorithms => some (leBytes 4 0x800 ++ leBytes 4 0x20 ++ leBytes 2 0x10 ++ leBytes 2 0x2)
  | .certificate slot => if slot = 0 then some s.certificateChain else none
  | .challenge slot nonce => if slot = 0 then some (signed s.certificateChain nonce) else none
  | .measurements block nonce => (s.measurementBlocks block.toNat).map fun bs => signed bs nonce
  | .keyUpdate id => if s.sec.sessions.any fun x => decide (x.id = id) then some [] else none

/-- A session takes its next keys (R460). -/
def State.spdmRekey (s : State) (g : SpdmGet) : State :=
  match g with
  | .keyUpdate id => { s with sec := { s.sec with
      sessions := s.sec.sessions.map fun x => if x.id = id then { x with keyNo := x.keyNo + 1 } else x } }
  | _ => s

/-- SPDM_GET_MEASUREMENTS: a request of the SPDM responder, measurement blocks signed with the alias key among them (R460). -/
def execSpdmGetMeasurements (sideband : Bool) (g : SpdmGet) (s : State) : Host.Outcome State Fault Refusal :=
  .next (
    if !s.spdmUp sideband then s
    else
      match s.spdmAnswer g with
      | some bs => ((s.spdmHeard sideband).spdmRekey g).emit (.spdm bs)
      | none => (s.spdmHeard sideband).emit .spdmError)

/-! ## Tokens (R461, R462) -/

/-- A token that R461 accepts: its KIND. -/
def State.tokenKind (s : State) (b : List Byte) : Option Nat :=
  let kind := leNat (b.take 1)
  if b.length ≠ 192 ∨ ((b.drop 1).take 7).any (fun x => decide (x ≠ 0)) ∨ ((b.drop 24).take 54).any (fun x => decide (x ≠ 0)) ∨
      leNat ((b.drop 8).take 8) ≠ s.nv.serial.toNat ∨ leNat ((b.drop 16).take 8) ≠ (Config.free64 s.sec.chal).toNat ∨
      Config.ed448Verify Config.tokenKey (b.take 78) (b.drop 78) = false ∨ (kind ≠ 1 ∧ kind ≠ 2) then none
  else some kind

/-- A new token challenge (Table 15-8). -/
def State.newChallenge (s : State) : State := { s with sec := { s.sec with chal := s.freeCtr }, freeCtr := s.freeCtr + 1 }

/-- Debug is unlocked (R462): compute stops, requests in flight are to end with ABORTED, keys are erased, so that what stands in memory
can no longer be read, sessions close, regions go at their next boundary, and DEBUG is set when the last is gone. -/
def State.unlockDebug (s : State) : State :=
  let s := (List.range 4).foldl State.stopRegion s.scramble
  { s with
    regions := s.regions.map fun (x : Nat × Region) =>
      (x.1, if x.2.live then { x.2 with noEnd := true, abortAll := true, removing := true, disabled := true } else x.2)
    mc := { s.mc with keys := [] }
    sec := { s.sec with sessions := [], linkIde := {}, selIde := [], cak := none, unlocking := true } }.finishUnlock

/-- SILBOR_TOKEN: debug unlock under an ownership session, or owner reset (R461, R462). -/
def execSilborToken (q : Fin 8192) (e : Entry) (tok : HostRead) (s : State) : Host.Outcome State Fault Refusal :=
  s.command q e 0x18 (fun _ => .first) Status.malformed (fun _ => !zeroFrom e 2 || tok.isNone) fun t =>
    match t.tokenKind (hostBytes tok) with
    | some 1 =>
      if t.ownerSession then t.newChallenge.unlockDebug.cmdDone q.val (hostTag e) Status.ok []
      else t.cmdDone q.val (hostTag e) Status.notOwner []
    | some _ => (t.newChallenge.dropOwner.cmdDone q.val (hostTag e) Status.ok []).closeOwner
    | none => t.cmdDone q.val (hostTag e) Status.tokenInvalid []

/-! ## SPDM sessions (R443, R444, R460) -/

/-- The kind of session that a requester gets: the owner's; while no owner key is stored, whoever may enrol; a sealed region's tenant;
or attestation only. Sessions over the sideband are attestation only. -/
def State.sessionKind (s : State) (sideband mutualAuth : Bool) (key : List Byte) : SessKind :=
  if sideband || !mutualAuth then .attestation
  else if s.nv.ownerKey = some key then .ownership
  else if (List.range 4).any fun n => (s.region n).sealed && decide ((s.region n).tpub = key) then .tenant
  else if s.nv.ownerKey.isNone then .ownership
  else .attestation

/-- Sessions of each kind at once (R460). -/
def SessKind.limit : SessKind → Nat
  | .ownership => 1
  | .tenant => 4
  | .attestation => 2

/-- SPDM_KEY_EXCHANGE: a session opens; a new ownership session ends the earlier one (R443, R444, R460). -/
def execSpdmKeyExchange (sideband mutualAuth : Bool) (key : List Byte) (s : State) : Host.Outcome State Fault Refusal :=
  let k := s.sessionKind sideband mutualAuth key
  let old := s.sec.sessions.filter fun x => decide (k ≠ .ownership) || decide (x.kind ≠ .ownership)
  .next (
    if !s.spdmUp sideband then s
    else if k.limit ≤ (old.filter fun x => decide (x.kind = k)).length then (s.spdmHeard sideband).emit .spdmError
    else
      let s := s.spdmHeard sideband
      let new : Session := { id := s.sec.nextSess, kind := k, key := key, sideband := sideband }
      ({ s with sec := { s.sec with sessions := old ++ [new], nextSess := s.sec.nextSess + 1 } }).emit
        (.spdm (leBytes 4 s.sec.nextSess)))

/-- Close a session; nothing else changes (R444). -/
def State.closeSession (s : State) (id : Nat) : State :=
  { s with sec := { s.sec with sessions := s.sec.sessions.filter fun x => decide (x.id ≠ id) } }

/-- END_SESSION (R444). -/
def execEndSession (id : Nat) (s : State) : Host.Outcome State Fault Refusal :=
  .next (match s.sec.sessions.find? fun x => decide (x.id = id) with
    | some x => ((s.spdmHeard x.sideband).closeSession id).emit (.spdm [])
    | none => s.emit .spdmError)

/-- SPDM_HEARTBEAT_EXPIRY: a missed heartbeat closes its session (R444). -/
def execSpdmHeartbeatExpiry (id : Nat) (s : State) : Host.Outcome State Fault Refusal := .next (s.closeSession id)

/-- An open session over DOE with authority: the owner's or a tenant's (R453, R460). -/
def State.authSession (s : State) (id : Nat) : Option Session :=
  s.sec.sessions.find? fun x => decide (x.id = id) && !x.sideband &&
    ((decide (x.kind = .ownership) && decide (s.nv.ownerKey = some x.key)) ||
     (decide (x.kind = .tenant) && (List.range 4).any fun n => (s.region n).sealed && decide ((s.region n).tpub = x.key)))

/-- Replace an IDE stream's state. -/
def State.setIde (s : State) (k : IdeStream) (x : Ide) : State :=
  match k with
  | .link => { s with sec := { s.sec with linkIde := x } }
  | .selective k => { s with sec := { s.sec with selIde := smSet {} s.sec.selIde k.val x } }

/-- Whether a session may key a stream: the link stream in an ownership session only, a selective stream in the session that keyed
it first, and in no later one (Table 15-6). -/
def State.mayKey (s : State) (k : IdeStream) (x : Session) : Bool :=
  match k with
  | .link => decide (x.kind = .ownership)
  | .selective _ => match (s.ide k).session with | none => true | some id => decide (id = x.id)

/-- KEY_PROG: a key set is delivered for a stream (R422, R453). -/
def execKeyProg (session : Nat) (stream : IdeStream) (keys : List Byte) (s : State) : Host.Outcome State Fault Refusal :=
  .next (
    match s.authSession session with
    | none => s.emit .spdmError
    | some x =>
      if s.mayKey stream x then
        (s.setIde stream { s.ide stream with pending := keys, owner := some x.key, session := some x.id }).emit (.spdm [])
      else s.emit .spdmError)

/-- K_SET_GO: the stream switches to the key set delivered (R453). -/
def execKSetGo (session : Nat) (stream : IdeStream) (s : State) : Host.Outcome State Fault Refusal :=
  .next (
    match s.authSession session with
    | none => s.emit .spdmError
    | some x =>
      let i := s.ide stream
      if s.mayKey stream x && !i.pending.isEmpty then
        (s.setIde stream { i with enabled := true, current := i.pending, pending := [] }).emit (.spdm [])
      else s.emit .spdmError)

/-- VENDOR_DEFINED_REQUEST: the owner delivers the CAK or the fabric key inside its session (R452). -/
def execVendorDefinedRequest (session : Nat) (secret : VendorSecret) (s : State) : Host.Outcome State Fault Refusal :=
  .next (
    match (s.authSession session).filter fun x => decide (x.kind = .ownership) with
    | none => s.emit .spdmError
    | some _ =>
      let s := match secret with
        | .cak ckn key => { s with sec := { s.sec with cak := some (ckn, key) } }
        | .fabricKey key => { s with sec := { s.sec with fabricKey := some key } }
      s.emit (.spdm []))

/-- TLP_OUTSIDE_IDE: while an IDE stream is enabled, a TLP outside an established stream is discarded (R422). -/
def execTlpOutsideIde (s : State) : Host.Outcome State Fault Refusal :=
  .next (
    if s.ideOn then
      { s with sec := { s.sec with tlpDiscards := s.sec.tlpDiscards + 1 } }
    else s)

end Sys2Proof.Machine
end

