-- ==== Sys2Proof/Machine/Registers.lean ====
section
/-! DEFINITION. The set-up registers and the doorbells (00: R12 to R15; 14: R423 to R427, R437, R439, R440, Table 14-10; 15: R448, R458;
16: R469, R470, R472, R481, R483; 18: R499 to R510, Tables 18-1 to 18-13). -/

namespace Sys2Proof.Machine

/-! ## The map (Table 18-1) -/

/-- The registers of BAR0. -/
inductive Reg where
  | sysIdent | sysStatus | sysReset | sysSpare | sysCe | gcLo | gcHi | serialLo | serialHi | fwver | mapgen
  | frameMap (i : Nat)
  | hifLink | errbLo | errbHi | errcfg | errlost
  | digbLo (n : Nat) | digbHi (n : Nat) | digcfg (n : Nat)
  | qsqbLo (q : Nat) | qsqbHi (q : Nat) | qcqbLo (q : Nat) | qcqbHi (q : Nat)
  | qcfg (q : Nat) | qstat (q : Nat) | qbind (q : Nat) | qdom (q : Nat)
  | memQual | memStat (tier2 : Bool) (c : Nat) | memCe (tier2 : Bool) (c : Nat) | memRetry (tier2 : Bool) (c : Nat)
  | lostsel | lostLo | lostHi
  | fabCoord | fabLink | gcsync | statSel | lagLo | lagHi | skew (b : Nat)
  | portstat (k : Nat) | portpeer (k : Nat) | replay (k : Nat)
  | secState | chalLo | chalHi | recovLo | recovHi | recovLen | recovCtl | ownerId (j : Nat)
  | pwrState | pwrCtl | pwrLimit | pwrTemp | pwrPower | energyLo | energyHi
  | srv (n k : Nat)
  | attStat (e : Nat) | attBlocks (e : Nat) | attSkipped (e : Nat) | wcmiss (h : Half)
  | msix (i : Nat) | pba (i : Nat)
deriving DecidableEq, Repr

/-- The SYS_ and HIF_ registers at an offset (Tables 18-2, 18-4). -/
def regSys (o : Nat) : Option Reg :=
  if o = 0x0 then some .sysIdent
  else if o = 0x4 then some .sysStatus
  else if o = 0x8 then some .sysReset
  else if o = 0xC then some .sysSpare
  else if o = 0x10 then some .sysCe
  else if o = 0x18 then some .gcLo
  else if o = 0x1C then some .gcHi
  else if o = 0x20 then some .serialLo
  else if o = 0x24 then some .serialHi
  else if o = 0x28 then some .fwver
  else if o = 0x2C then some .mapgen
  else if 0x1000 ≤ o ∧ o < 0x1680 then some (.frameMap ((o - 0x1000) / 4))
  else if o = 0x400000 then some .hifLink
  else if o = 0x400100 then some .errbLo
  else if o = 0x400104 then some .errbHi
  else if o = 0x400108 then some .errcfg
  else if o = 0x40010C then some .errlost
  else if 0x400200 ≤ o ∧ o < 0x400240 then
    (match o % 16 with | 0 => some (.digbLo ((o - 0x400200) / 16)) | 4 => some (.digbHi ((o - 0x400200) / 16))
                       | 8 => some (.digcfg ((o - 0x400200) / 16)) | _ => none)
  else if 0x410000 ≤ o ∧ o < 0x450000 then
    let q := (o - 0x410000) / 32
    (match o % 32 with
     | 0 => some (.qsqbLo q) | 4 => some (.qsqbHi q) | 8 => some (.qcqbLo q) | 12 => some (.qcqbHi q)
     | 16 => some (.qcfg q) | 20 => some (.qstat q) | 24 => some (.qbind q) | _ => some (.qdom q))
  else none

/-- The MEM_, FAB_ and SEC_ registers (Tables 18-6, 18-8, 18-10). -/
def regMem (o : Nat) : Option Reg :=
  if o = 0x500000 then some .memQual
  else if 0x500100 ≤ o ∧ o < 0x500290 then
    let c := (o - 0x500100) / 16
    (match o % 16 with | 0 => some (.memStat false c) | 4 => some (.memCe false c) | 8 => some (.memRetry false c) | _ => none)
  else if 0x500300 ≤ o ∧ o < 0x5003C0 then
    let c := (o - 0x500300) / 16
    (match o % 16 with | 0 => some (.memStat true c) | 4 => some (.memCe true c) | 8 => some (.memRetry true c) | _ => none)
  else if o = 0x500400 then some .lostsel
  else if o = 0x500404 then some .lostLo
  else if o = 0x500408 then some .lostHi
  else if o = 0x600000 then some .fabCoord
  else if o = 0x600004 then some .fabLink
  else if o = 0x600008 then some .gcsync
  else if o = 0x600010 then some .statSel
  else if o = 0x600014 then some .lagLo
  else if o = 0x600018 then some .lagHi
  else if 0x600020 ≤ o ∧ o < 0x600040 then some (.skew ((o - 0x600020) / 4))
  else if 0x600100 ≤ o ∧ o < 0x6001C0 then
    let k := (o - 0x600100) / 16
    (match o % 16 with | 0 => some (.portstat k) | 4 => some (.portpeer k) | 8 => some (.replay k) | _ => none)
  else if o = 0x700000 then some .secState
  else if o = 0x700004 then some .chalLo
  else if o = 0x700008 then some .chalHi
  else if o = 0x700010 then some .recovLo
  else if o = 0x700014 then some .recovHi
  else if o = 0x700018 then some .recovLen
  else if o = 0x70001C then some .recovCtl
  else if 0x700040 ≤ o ∧ o < 0x700060 then some (.ownerId ((o - 0x700040) / 4))
  else none

/-- The PWR_, SRV_ and ATT_ registers and the MSI-X structures (Tables 18-11 to 18-13, 14-2). -/
def regPwr (o : Nat) : Option Reg :=
  if o = 0x800000 then some .pwrState
  else if o = 0x800004 then some .pwrCtl
  else if o = 0x800008 then some .pwrLimit
  else if o = 0x80000C then some .pwrTemp
  else if o = 0x800010 then some .pwrPower
  else if o = 0x800018 then some .energyLo
  else if o = 0x80001C then some .energyHi
  else if 0x900000 ≤ o ∧ o < 0x900400 ∧ o % 256 < 0x28 then some (.srv ((o - 0x900000) / 256) (o % 256 / 4))
  else if 0xA00000 ≤ o ∧ o < 0xA00100 then
    let e := (o - 0xA00000) / 64
    (match o % 64 with | 0 => some (.attStat e) | 4 => some (.attBlocks e) | 8 => some (.attSkipped e) | _ => none)
  else if o = 0xA00100 then some (.wcmiss .west)
  else if o = 0xA00104 then some (.wcmiss .east)
  else if 0xF00000 ≤ o ∧ o < 0xF08000 then some (.msix ((o - 0xF00000) / 4))
  else if 0xF08000 ≤ o ∧ o < 0xF08100 then some (.pba ((o - 0xF08000) / 4))
  else none

/-- The register at a 4-byte-aligned offset; none where this map assigns none (R500). -/
def regAt (o : Nat) : Option Reg := (regSys o).or ((regMem o).or (regPwr o))

/-- The SEC_ registers and SYS_STATUS, which alone decode before READY (R483). -/
def Reg.early : Reg → Bool
  | .sysStatus | .secState | .chalLo | .chalHi | .recovLo | .recovHi | .recovLen | .recovCtl | .ownerId _ => true
  | _ => false

/-- The _HI register of a pair, by its _LO register (R13). -/
def Reg.hi? : Reg → Option Reg
  | .gcLo => some .gcHi
  | .serialLo => some .serialHi
  | .errbLo => some .errbHi
  | .digbLo n => some (.digbHi n)
  | .qsqbLo q => some (.qsqbHi q)
  | .qcqbLo q => some (.qcqbHi q)
  | .lostLo => some .lostHi
  | .lagLo => some .lagHi
  | .chalLo => some .chalHi
  | .recovLo => some .recovHi
  | .energyLo => some .energyHi
  | _ => none

/-- A _HI register. -/
def Reg.isHi : Reg → Bool
  | .gcHi | .serialHi | .errbHi | .digbHi _ | .qsqbHi _ | .qcqbHi _ | .lostHi | .lagHi | .chalHi | .recovHi | .energyHi => true
  | _ => false

/-! ## Values -/

/-- A field of a number placed at a bit. -/
def at' (v bit : Nat) : Nat := v * 2 ^ bit

/-- SYS_FRAME_MAP i (Table 18-3). -/
def State.frameMapWord (s : State) (i : Nat) : Nat :=
  let p := posOf i
  if s.nv.isFused p then 2
  else if s.map.retired.contains p then 3
  else
    match (s.assigned p.half p.prow.val).find? fun x => decide (x.2 = p) with
    | some x => at' x.1 2
    | none => 1

/-- HIF_QCFG. -/
def Queue.cfgWord (x : Queue) : Nat := x.sqsz + at' x.cqsz 4 + at' x.vector 8 + at' (b2n x.ien) 19 + at' x.rid 20 + at' (b2n x.en) 31

/-- HIF_ERRCFG and HIF_DIGCFG. -/
def Ring.cfgWord (r : Ring) : Nat := r.sz + at' r.vector 4 + at' (b2n r.ien) 15 + at' (b2n r.en) 31

/-- HIF_QBIND (Table 18-5). -/
def Queue.bindWord (x : Queue) : Nat :=
  (match x.role with | .unbound => 0 | .owner => 1 | .tenant => 2) + at' x.brid 2 + at' x.stream 4 + at' (b2n x.diagok) 6

/-- The list entry that MEM_LOSTSEL selects (R508). -/
def State.lostEntry (s : State) : Option Nat :=
  let w := s.mc.lostsel
  let c := fld w 4 0
  let l := if bitAt w 5 then (if c < 12 then (s.t2 c).lost else []) else (if c < 25 then (s.t1 c).lost else [])
  l[fld w 15 6]?

/-- The group that FAB_STAT_SEL selects (R509). -/
def State.statGroup (s : State) : Option Group := (s.region (fld s.fab.statsel 13 12)).group? (fld s.fab.statsel 11 0)

/-- SEC_STATE (Table 15-8). -/
def State.secState (s : State) : Nat :=
  b2n s.nv.ownerKey.isSome + at' (b2n s.ownerSession) 1 + at' (b2n s.sec.debug) 2 + at' (b2n s.sec.recovery) 3 +
  ((List.range 4).map fun n => at' (b2n (s.region n).sealed) (4 + n)).foldl (· + ·) 0 + at' s.fwSvn 8 + at' s.nv.rollback 16

/-- An SRV_ register of a region; of a sealed one only EXISTS and SEALED (R505). -/
def State.srvWord (s : State) (n k : Nat) : Nat :=
  let r := s.region n
  let v := match k with
    | 0 => r.shot.state | 1 => r.shot.step | 2 => r.shot.active | 3 => r.shot.freepg0 | 4 => r.shot.freepg1
    | 5 => r.shot.tblfree | 6 => r.shot.nodes | 7 => r.collide | 8 => r.hovf | 9 => r.latecnt | _ => 0
  if r.sealed then (if k = 0 then v.toNat % 4 else 0) else v.toNat

/-- The region that holds an attention engine. -/
def State.engineRegion (s : State) (e : Nat) : Option Nat := (List.range 4).find? fun n => (s.region n).holdsEngine e

/-- The engine lies in a sealed region, whose registers show nothing (R505). -/
def State.engineSealed (s : State) (e : Nat) : Bool := match s.engineRegion e with | some n => (s.region n).sealed | none => false

/-- ATT_STAT (Table 18-13). -/
def State.attStat (s : State) (e : Nat) : Nat :=
  match s.engineRegion e with
  | none => 0
  | some n => if (s.region n).sealed then 0 else
    let x := s.engine e
    1 + at' n 1 + at' (b2n x.busy) 3 + at' x.desc 4 + at' (b2n x.sampler) 14

/-- FAB_GCSYNC (Table 13-5). It shows the Reset column until FAB_COORD is written, also though the module is its own root then (R416, log
212). -/
def State.gcsync (s : State) : Nat :=
  if !s.fab.coordSet then 0 else
  b2n s.isLocked + at' (b2n s.isRoot) 1 + at' (if s.isRoot then 15 else s.parentPort) 2 +
  at' ((BitVec.ofInt 8 (max (-128) (min 127 s.fab.offset))).toNat) 6 + at' s.hops 14

/-- FAB_PORTSTAT (Table 18-9). -/
def Port.statWord (p : Port) : Nat := p.lanes + at' (b2n p.spare) 3 + at' (b2n p.auth) 4 + at' (b2n p.held) 5

/-- A memory controller by tier. -/
def State.ctrl (s : State) (tier2 : Bool) (c : Nat) : Ctrl := if tier2 then s.t2 c else s.t1 c

/-- MEM_T1STAT and MEM_T2STAT (Table 18-7). -/
def State.memStat (s : State) (tier2 : Bool) (c : Nat) : Nat :=
  (s.ctrl tier2 c).state.toNat + at' (s.ctrl tier2 c).lost.length 2 + at' (if c = 24 then s.mc.serves.toNat else 0) 13

/-- The low word of a 64-bit quantity. -/
def lo32 (w : W64) : Nat := w.toNat % 2 ^ 32

/-- The high word of a 64-bit quantity. -/
def hi32 (w : W64) : Nat := w.toNat / 2 ^ 32

/-- The current value of a register, before any latch. -/
def State.regValue (s : State) (r : Reg) : Nat :=
  match r with
  | .sysIdent => s.sysIdent
  | .sysStatus => s.sysStatus
  | .sysReset => 0
  | .sysSpare => s.sysSpare
  | .sysCe => s.sys.ceCount.toNat
  | .gcLo => lo32 s.gc
  | .gcHi => hi32 s.gc
  | .serialLo => lo32 s.nv.serial
  | .serialHi => hi32 s.nv.serial
  | .fwver => s.sysFwver
  | .mapgen => s.sys.mapgen.toNat
  | .frameMap i => s.frameMapWord i
  | .hifLink =>
    s.hif.width.toNat + at' s.hif.speed.toNat 5 + at' (b2n s.hif.flit) 8 + at' (b2n s.sec.linkIde.enabled) 9 +
    ((List.range 4).map fun k => at' (b2n (smGet {} s.sec.selIde k : Ide).enabled) (10 + k)).foldl (· + ·) 0
  | .errbLo => lo32 s.hif.err.base
  | .errbHi => hi32 s.hif.err.base
  | .errcfg => s.hif.err.cfgWord
  | .errlost => s.hif.err.lost.toNat
  | .digbLo n => lo32 (s.digRing n).base
  | .digbHi n => hi32 (s.digRing n).base
  | .digcfg n => (s.digRing n).cfgWord
  | .qsqbLo q => lo32 (s.queue q).sqb
  | .qsqbHi q => hi32 (s.queue q).sqb
  | .qcqbLo q => lo32 (s.queue q).cqb
  | .qcqbHi q => hi32 (s.queue q).cqb
  | .qcfg q => (s.queue q).cfgWord
  | .qstat q => (s.queue q).sqhead + at' (s.queue q).cqtail 16
  | .qbind q => (s.queue q).bindWord
  | .qdom q => (s.queue q).domlo + at' (s.queue q).domhi 16
  | .memQual => s.nv.qualT1.toNat + at' s.nv.qualT2.toNat 8
  | .memStat t c => s.memStat t c
  | .memCe t c => (s.ctrl t c).ce.toNat
  | .memRetry t c => (s.ctrl t c).retry.toNat
  | .lostsel => s.mc.lostsel.toNat
  | .lostLo => (s.lostEntry.getD 0) % 2 ^ 32
  | .lostHi => match s.lostEntry with | some o => o / 2 ^ 32 % 256 + 2 ^ 31 | none => 0
  | .fabCoord => s.fab.coord.toNat
  | .fabLink =>
    ((List.range 12).map fun k => at' (b2n (s.port k).up) k + at' (b2n (s.port k).spare) (12 + k)).foldl (· + ·) 0
  | .gcsync => s.gcsync
  | .statSel => s.fab.statsel.toNat
  | .lagLo => match s.statGroup with | some g => g.lagOrdinal.toNat | none => 0
  | .lagHi => match s.statGroup with | some g => g.lagMember.toNat + at' (b2n g.lagValid) 14 + at' (min 0x1FFFF (g.lagSkew / 8)) 15 | none => 0
  | .skew b => match s.statGroup with | some g => (smGet 0 g.skew b).toNat | none => 0
  | .portstat k => (s.port k).statWord
  | .portpeer k => (s.port k).peer.toNat + at' (s.port k).peerPort.toNat 14 + at' (b2n (s.port k).peerValid) 31
  | .replay k => (s.port k).replay.toNat
  | .secState => s.secState
  | .chalLo => lo32 (Config.free64 s.sec.chal)
  | .chalHi => hi32 (Config.free64 s.sec.chal)
  | .recovLo => lo32 s.sec.recovAddr
  | .recovHi => hi32 s.sec.recovAddr
  | .recovLen => s.sec.recovLen.toNat
  | .recovCtl => at' s.sec.recovResult.toNat 1
  | .ownerId j => leNat ((s.ownerId.drop (4 * j)).take 4)
  | .pwrState => s.pwrState
  | .pwrCtl => s.pwr.deepest.toNat + at' s.pwr.lulldly.toNat 2 + at' s.pwr.wmax.toNat 18 + at' s.pwr.emax.toNat 20
  | .pwrLimit => s.pwr.limit.toNat
  | .pwrTemp => s.pwrTemp
  | .pwrPower => s.pwrPower
  | .energyLo => s.pwrEnergy % 2 ^ 32
  | .energyHi => s.pwrEnergy / 2 ^ 32
  | .srv n k => s.srvWord n k
  | .attStat e => s.attStat e
  | .attBlocks e => if s.engineSealed e then 0 else (s.engine e).blocks.toNat
  | .attSkipped e => if s.engineSealed e then 0 else (s.engine e).skipped.toNat
  | .wcmiss .west => s.att.missW.toNat
  | .wcmiss .east => s.att.missE.toNat
  | .msix i => (s.msixWord i).toNat
  | .pba i => ((List.range 32).map fun b => at' (b2n (s.hif.msixPending.contains (32 * i + b))) b).foldl (· + ·) 0

/-- Registers that are read live in Lull (R504). -/
def Reg.live : Reg → Bool
  | .sysStatus | .gcLo | .gcHi | .gcsync | .pwrState | .pwrCtl | .pwrLimit | .pwrTemp | .pwrPower | .energyLo | .energyHi
  | .secState | .chalLo | .chalHi | .recovLo | .recovHi | .recovLen | .recovCtl | .ownerId _ => true
  | _ => false

/-- What a register shows: in Lull any that is not read live shows what it held at the entry (R504). -/
def State.shown (s : State) (r : Reg) : Nat :=
  match s.atLull with
  | none => s.regValue r
  | some v => if r.live then s.regValue r else (s.shownAs v).regValue r

/-- A read of an RC register takes the value it returns off the counter (R502); a sealed region's registers are not cleared
(R505). -/
def State.regTake (s : State) (r : Reg) (v : Nat) : State :=
  let off := fun (x : W32) => x - BitVec.ofNat 32 v
  match r with
  | .sysCe => { s with sys := { s.sys with ceCount := off s.sys.ceCount } }
  | .errlost => { s with hif := { s.hif with err := { s.hif.err with lost := off s.hif.err.lost } } }
  | .memCe t c => if t then s.modT2 c fun x => { x with ce := off x.ce } else s.modT1 c fun x => { x with ce := off x.ce }
  | .memRetry t c =>
    if t then s.modT2 c fun x => { x with retry := off x.retry } else s.modT1 c fun x => { x with retry := off x.retry }
  | .skew b =>
    if s.statGroup.isSome then
      s.modRegion (fld s.fab.statsel 13 12) fun x => x.modGroup (fld s.fab.statsel 11 0) fun g =>
        { g with skew := smSet 0 g.skew b (off (smGet 0 g.skew b)) }
    else s
  | .replay k => s.modPort k fun p => { p with replay := off p.replay }
  | .srv n k =>
    if (s.region n).sealed then s
    else
      match k with
      | 7 => s.modRegion n fun x => { x with collide := off x.collide }
      | 8 => s.modRegion n fun x => { x with hovf := off x.hovf }
      | 9 => s.modRegion n fun x => { x with latecnt := off x.latecnt }
      | _ => s
  | .attBlocks e => if s.engineSealed e then s else s.modEngine e fun x => { x with blocks := off x.blocks }
  | .attSkipped e => if s.engineSealed e then s else s.modEngine e fun x => { x with skipped := off x.skipped }
  | .wcmiss .west => { s with att := { s.att with missW := off s.att.missW } }
  | .wcmiss .east => { s with att := { s.att with missE := off s.att.missE } }
  | _ => s

/-- What a read clears: in Lull both what is shown and, for the time after the wake, the counter, which keeps what it has counted
since the entry (R502, R504). -/
def State.regClear (s : State) (r : Reg) : State :=
  let t := s.regTake r (s.shown r)
  match s.atLull with
  | none => t
  | some v => { t with atLull := some ((s.shownAs v).regTake r (s.shown r)).view }

/-! ## Reads (R12, R13, R500 to R505) -/

/-- The register that an access at an offset decodes now (R483). -/
def State.decoded (s : State) (o : Nat) : Option Reg := (regAt o).filter fun r => s.isReady || r.early

/-- A 32-bit read: the value, and the state after latches and clears. A _HI register shows what the latest read of its _LO latched
(R13). -/
def State.read32 (s : State) (o : Nat) : Nat × State :=
  match s.decoded o with
  | none => (0, s)
  | some r =>
    let v := if r.isHi then (match s.hif.latch.find? fun (x : Nat × W32) => decide (x.1 = o) with
      | some x => x.2.toNat
      | none => s.shown r) else s.shown r
    let s' := match r.hi? with
      | some h => { s with hif := { s.hif with latch := smPut s.hif.latch (o + 4) (BitVec.ofNat 32 (s.shown h)) } }
      | none => s
    (v, s'.regClear r)

/-- The access is an aligned 32-bit or 64-bit one (R12). -/
def accessOk (a : BarAccess) : Bool := (decide (a.bytes = 4) || decide (a.bytes = 8)) && decide (a.offset.toNat % a.bytes = 0)

/-- The BARs are decoded: the link is up, firmware or recovery has brought them up (R458, R482), and the function is in D0 (log 173). -/
def State.barUp (s : State) : Bool := s.hostUp && decide (2 ≤ s.sys.stage.toNat) && !s.hif.d3hot

/-- Answer a read. -/
def State.reply (s : State) (v : Nat) : State := s.sendTlp none (.readReply (BitVec.ofNat 64 v))

/-- A BAR decodes the access: BAR0 holds 16 MiB and BAR2 32 MiB (Table 14-2). -/
def BarIn (a : BarAccess) : Bool := a.bar2 || decide (a.offset.toNat < 2 ^ 24)

/-- Complete a request that no BAR decodes: Unsupported Request (R423). -/
def State.noBar (s : State) (a : W64) : State := s.sendTlp none (.unsupported a)

/-- A read of BAR0. A 64-bit read of a pair returns both halves of one value, and any other is two 32-bit reads, the lower offset
first (R501). A read of BAR2 returns 0 (R426). -/
def State.barRead (s : State) (a : BarAccess) : State :=
  let o := a.offset.toNat
  if !s.hostUp then s
  else if !s.barUp || !BarIn a then s.noBar (a.offset.setWidth 64)
  else if a.bar2 then s.reply 0
  else if !accessOk a then s.badAccess.reply 0
  else if a.bytes = 4 then
    let x := s.read32 o
    x.2.reply x.1
  else
    let x := s.read32 o
    let y := x.2.read32 (o + 4)
    y.2.reply (x.1 + 2 ^ 32 * y.1)

/-- RC_READ: the read of an RC register returns it and then clears it (R502). -/
def execRcRead (acc : BarAccess) (s : State) : Host.Outcome State Fault Refusal := .next (s.barRead acc)

/-- PAIR_LO_READ: the read of a _LO register latches its _HI (R13). -/
def execPairLoRead (acc : BarAccess) (s : State) : Host.Outcome State Fault Refusal := .next (s.barRead acc)

/-- MISALIGNED_REGISTER_READ: returns 0 and posts BAD_ACCESS (R12). -/
def execMisalignedRegisterRead (acc : BarAccess) (s : State) : Host.Outcome State Fault Refusal := .next (s.barRead acc)

/-! ## Writes -/

/-- A gated write takes effect only while an ownership session is open or no owner key is stored (R481, R503). -/
def State.gated (s : State) (f : State → State) : State := if s.ownerGate then f s else s.badAccess

/-- SYS_RESET (R481). -/
def State.writeSysReset (s : State) (v : W32) : State :=
  if s.ownerGate && decide (v = 0x52535421) then s.moduleReset 2 else s.badAccess

/-- PWR_CTL: the caps take effect at the next boundary of any region, or at once when no step is running (R472, R481). A reserved
encoding is no accepted write. -/
def State.writePwrCtl (s : State) (v : W32) : State :=
  s.gated fun s =>
    if fld v 1 0 = 3 ∨ fld v 19 18 = 3 ∨ fld v 21 20 = 3 then s.badAccess
    else
      let s := { s with pwr := { s.pwr with
        deepest := BitVec.ofNat 2 (fld v 1 0), lulldly := BitVec.ofNat 16 (fld v 17 2), wmax := BitVec.ofNat 2 (fld v 19 18)
        emax := BitVec.ofNat 2 (fld v 21 20), capsDue := true } }
      if s.noStep then s.applyCaps else s

/-- PWR_LIMIT: 600 to 1,650 W (R481, Table 16-7). -/
def State.writePwrLimit (s : State) (v : W32) : State :=
  s.gated fun s =>
    if fld v 10 0 < 600 ∨ 1650 < fld v 10 0 then s.badAccess
    else { s with pwr := { s.pwr with limit := BitVec.ofNat 11 (fld v 10 0) } }

/-- FAB_COORD: the first write after reset sets it, and a later one posts LOCK_WRITE (R14, R15, R360, R503). DESIGN
CHOICE: while the owner gate is closed, a later write posts BAD_ACCESS alone (log 162). -/
def State.writeCoord (s : State) (v : W32) : State :=
  s.gated fun s =>
    if s.fab.coordSet then s.postErr 0x0002 0 0
    else { s with fab := { s.fab with coord := BitVec.ofNat 32 (fld v 28 0), coordSet := true } }

/-- What a write of HIF_QCFG changes besides EN. -/
def Queue.configured (x : Queue) (v : W32) : Queue :=
  { x with sqsz := fld v 3 0, cqsz := fld v 7 4, vector := fld v 18 8, ien := bitAt v 19, rid := fld v 21 20 }

/-- Setting EN starts the queue empty (R425, R427). -/
def Queue.started (x : Queue) : Queue :=
  { x with en := true, sqhead := 0, cqtail := 0, phase := true, tail := 0, used := 0, reserved := 0 }

/-- HIF_QCFG (R424, R425, R448). -/
def State.writeQcfg (s : State) (q : Nat) (v : W32) : State :=
  let x := s.queue q
  if 12 < fld v 3 0 ∨ 12 < fld v 7 4 then s.badAccess
  else if x.en then
    let same := decide ((x.configured v).cfgWord = x.cfgWord)
    let s := if bitAt v 31 then s
      else if x.unfinished = 0 then s.setQueue q { x with en := false }
      else s.postErr 0x0004 q 0
    if same then s else s.badAccess
  else
    let y := x.configured v
    if !bitAt v 31 then s.setQueue q y
    else if x.role = .tenant ∧ y.rid ≠ x.brid then (s.setQueue q y).badAccess
    else s.setQueue q y.started

/-- A ring is set up; setting EN starts it empty, and clearing it drops digest entries that wait (R437, R439). -/
def Ring.configured (r : Ring) (v : W32) : Ring :=
  let r' := { r with sz := fld v 3 0, vector := fld v 14 4, ien := bitAt v 15, en := bitAt v 31 }
  if bitAt v 31 && !r.en then { r' with tail := 0, used := 0, phase := true } else r'

/-- HIF_ERRCFG (R437, R503). -/
def State.writeErrcfg (s : State) (v : W32) : State :=
  s.gated fun s =>
    if 10 < fld v 3 0 then s.badAccess else { s with hif := { s.hif with err := s.hif.err.configured v } }

/-- HIF_DIGCFG n (R437, R439, R503). -/
def State.writeDigcfg (s : State) (n : Nat) (v : W32) : State :=
  s.gated fun s =>
    if 10 < fld v 3 0 then s.badAccess else (s.setDigRing n ((s.digRing n).configured v)).pumpDigs n

/-- An MSI-X table word; clearing a vector's mask sends what is pending (R440, R500). -/
def State.writeMsix (s : State) (i : Nat) (v : W32) : State :=
  let w := if i % 4 = 3 then v &&& 1 else v
  State.sendPending { s with hif := { s.hif with msix := smSet 0 s.hif.msix i (w ^^^ (if i % 4 = 3 then 1 else 0)) } }

/-- The base of a ring: bits [63:12]. -/
def baseOf (hi lo : Nat) : W64 := BitVec.ofNat 64 (hi % 2 ^ 32 * 2 ^ 32 + lo / 4096 * 4096 % 2 ^ 32)

/-- A write of a pair's value, both halves at once (R13, R501). -/
def State.writePair (s : State) (r : Reg) (hi lo : Nat) : State :=
  match r with
  | .errbLo => s.gated fun s => { s with hif := { s.hif with err := { s.hif.err with base := baseOf hi lo } } }
  | .digbLo n => s.gated fun s => s.setDigRing n { s.digRing n with base := baseOf hi lo }
  | .qsqbLo q => if (s.queue q).en then s.badAccess else s.modQueue q fun x => { x with sqb := baseOf hi lo }
  | .qcqbLo q => if (s.queue q).en then s.badAccess else s.modQueue q fun x => { x with cqb := baseOf hi lo }
  | .recovLo =>
    if s.sec.recovery then { s with sec := { s.sec with recovAddr := BitVec.ofNat 64 (hi % 2 ^ 32 * 2 ^ 32 + lo % 2 ^ 32) } }
    else s.badAccess
  | _ => s

/-- Whether a write to a _HI register would be dropped, as one to its _LO would be. -/
def State.dropsHi (s : State) (r : Reg) : Bool :=
  match r with
  | .errbHi | .digbHi _ => !s.ownerGate
  | .qsqbHi q | .qcqbHi q => (s.queue q).en
  | .recovHi => !s.sec.recovery
  | _ => false

/-- A 32-bit write by the register's access code (R14, R15): read-only and read-clear fields ignore it, a _HI waits for its _LO
(R13), an offset without a register is refused with BAD_ACCESS (R500). -/
def State.write32 (s : State) (o : Nat) (v : W32) : State :=
  match s.decoded o with
  | none => s.badAccess
  | some r =>
    match r with
    | .sysReset => s.writeSysReset v
    | .pwrCtl => s.writePwrCtl v
    | .pwrLimit => s.writePwrLimit v
    | .fabCoord => s.writeCoord v
    | .errcfg => s.writeErrcfg v
    | .digcfg n => s.writeDigcfg n v
    | .qcfg q => s.writeQcfg q v
    | .qstat q => if (s.queue q).en then s.badAccess else s
    | .lostsel => { s with mc := { s.mc with lostsel := v.setWidth 16 } }
    | .statSel => { s with fab := { s.fab with statsel := v.setWidth 14 } }
    | .recovLen => if s.sec.recovery then { s with sec := { s.sec with recovLen := v } } else s.badAccess
    | .recovCtl => if s.sec.recovery then s else s.badAccess
    | .msix i => s.writeMsix i v
    | .errbHi | .digbHi _ | .qsqbHi _ | .qcqbHi _ | .recovHi =>
      if s.dropsHi r then s.badAccess else { s with hif := { s.hif with hiWait := smPut s.hif.hiWait o v } }
    | .errbLo | .digbLo _ | .qsqbLo _ | .qcqbLo _ | .recovLo =>
      let hi := match s.hif.hiWait.find? fun (x : Nat × W32) => decide (x.1 = o + 4), r.hi? with
        | some x, _ => x.2.toNat
        | none, some h => s.regValue h
        | none, none => 0
      ({ s with hif := { s.hif with hiWait := smDel s.hif.hiWait (o + 4) } }).writePair r hi v.toNat
    | _ => s

/-! ## Doorbells (R426, R427, R432) -/

/-- BAD_DOORBELL. -/
def State.badDoorbell (s : State) (q : Nat) : State := s.postErr 0x0003 q 0

/-- Entries still used after a head moves to a value, or none when the head lies beyond what has been written; on a full ring a head
at the oldest entry frees all of it. -/
def usedAfter (size tail used value : Nat) : Option Nat :=
  let left := (tail + size - value % size) % size
  if left ≤ used then some left else none

/-- SQTAIL: the entries up to the new tail are due; only the latest value counts (R427). Each is fetched when its row comes (log 14). -/
def State.ringSq (s : State) (q v : Nat) : State :=
  let x := s.queue q
  if !x.en || decide (x.sqSize ≤ v) then s.badDoorbell q
  else s.setQueue q { x with tail := v }

/-- CQHEAD: entries are freed; a DEMOTED that waits is posted first, and fetching goes on (R432). -/
def State.ringCq (s : State) (q v : Nat) : State :=
  let x := s.queue q
  if !x.en || decide (x.cqSize ≤ v) then s.badDoorbell q
  else
    match usedAfter x.cqSize x.cqtail x.used v with
    | none => s
    | some k => (s.setQueue q { x with used := k }).postHeld q

/-- DIGHEAD of the queue's region: entries are freed, and what waits is posted (R439). -/
def State.ringDig (s : State) (q v : Nat) : State :=
  let n := (s.queue q).rid
  let r := s.digRing n
  if ringSize r.sz ≤ v then s.badDoorbell q
  else
    match usedAfter (ringSize r.sz) r.tail r.used v with
    | none => s
    | some k => (s.setDigRing n { r with used := k }).pumpDigs n

/-- ERRHEAD: on queue 0 only, ignored elsewhere. -/
def State.ringErr (s : State) (q v : Nat) : State :=
  let r := s.hif.err
  if q ≠ 0 then s
  else if ringSize r.sz ≤ v then s.badDoorbell q
  else
    match usedAfter (ringSize r.sz) r.tail r.used v with
    | none => s
    | some k => { s with hif := { s.hif with err := { r with used := k } } }

/-- A write to a queue's doorbell page: an aligned 32-bit write to one of its words, and nothing else (R426). Before READY it is dropped
with BAD_ACCESS (R483). -/
def State.doorbell (s : State) (q : Nat) (w : DbWrite) : State :=
  if !s.hostUp then s
  else if !s.barUp then s.noBar (BitVec.ofNat 64 (4096 * q + w.offset.toNat))
  else if !s.isReady then s.badAccess
  else
    let s := s.wakeUp
    let v := w.value.toNat
    if w.bytes ≠ 4 ∨ 2 ^ 32 ≤ v then s.badDoorbell q
    else
      match w.offset.toNat with
      | 0 => s.ringSq q v
      | 4 => s.ringCq q v
      | 8 => s.ringDig q v
      | 12 => s.ringErr q v
      | _ => s.badDoorbell q

/-! ## Writes of the BARs -/

/-- A BAR0 write reaches the module: it wakes it (R470), or, before BAR0 is decoded, is not claimed (R423). Before READY only SYS_STATUS
and the SEC_ registers decode (R483). -/
def State.barWrite (s : State) (a : BarAccess) (v : W64) : State :=
  let o := a.offset.toNat
  if !s.hostUp then s
  else if !s.barUp || !BarIn a then s.noBar (a.offset.setWidth 64)
  else if a.bar2 then
    s.doorbell (a.offset.toNat / 4096) { offset := BitVec.ofNat 12 a.offset.toNat, bytes := a.bytes, value := v }
  else
    let s := s.wakeUp
    if !accessOk a then s.badAccess
    else if a.bytes = 4 then s.write32 o (v.setWidth 32)
    else
      match s.decoded o with
      | some r =>
        if r.hi?.isSome then
          ({ s with hif := { s.hif with hiWait := smDel s.hif.hiWait (o + 4) } }).writePair r (hi32 v) (lo32 v)
        else (s.write32 o (v.setWidth 32)).write32 (o + 4) ((v >>> 32).setWidth 32)
      | none => (s.write32 o (v.setWidth 32)).write32 (o + 4) ((v >>> 32).setWidth 32)

/-- REGISTER_WRITE: a BAR0 write, by its register's access code (R12 to R15, R500, R503). -/
def execRegisterWrite (acc : BarAccess) (value : W64) (s : State) : Host.Outcome State Fault Refusal := .next (s.barWrite acc value)

/-- A 32-bit write to an offset, as the rows for single registers carry it. -/
def State.barWrite4 (s : State) (o : Nat) (v : W32) : State :=
  s.barWrite { offset := BitVec.ofNat 25 o, bytes := 4 } (v.setWidth 64)

/-- SYS_RESET: the key resets the module, and any other write is dropped (R481). -/
def execSysReset (value : W32) (s : State) : Host.Outcome State Fault Refusal := .next (s.barWrite4 0x8 value)

/-- PWR_CTL (R472, R481). -/
def execPwrCtl (value : W32) (s : State) : Host.Outcome State Fault Refusal := .next (s.barWrite4 0x800004 value)

/-- PWR_LIMIT (R481). -/
def execPwrLimit (value : W32) (s : State) : Host.Outcome State Fault Refusal := .next (s.barWrite4 0x800008 value)

/-- FAB_COORD (R360, R503). -/
def execFabCoord (value : W32) (s : State) : Host.Outcome State Fault Refusal := .next (s.barWrite4 0x600000 value)

/-- QUEUE_ENABLE: a write of HIF_QCFG with EN = 1 (R424, R425, R448). -/
def execQueueEnable (q : Fin 8192) (value : W32) (s : State) : Host.Outcome State Fault Refusal :=
  .next (s.barWrite4 (0x410010 + 32 * q.val) (value ||| 0x80000000))

/-- QUEUE_DISABLE: a write of HIF_QCFG with EN = 0 (R424, R425). -/
def execQueueDisable (q : Fin 8192) (value : W32) (s : State) : Host.Outcome State Fault Refusal :=
  .next (s.barWrite4 (0x410010 + 32 * q.val) (value &&& 0x7FFFFFFF))

/-- RECOVERY_GO: the ROM fetches, checks and writes an image, and on success resets the module; outside recovery the write is dropped
(R458, Table 15-8). -/
def execRecoveryGo (img : HostRead) (flashOk : Bool) (s : State) : Host.Outcome State Fault Refusal :=
  let res := fun (s : State) (r : BitVec 3) => { s with sec := { s.sec with recovResult := r } }
  .next (
    if !s.hostUp then s
    else if !s.barUp then s.noBar 0x70001C
    else if !s.sec.recovery then s.wakeUp.badAccess
    else
      match img with
      | none => res s 4
      | some b =>
        match checkImage s.nv.rollback b s.sec.recovLen.toNat with
        | .badSignature => res s 2
        | .lowSvn => res s 3
        | .good f =>
          if flashOk then (res { s with nv := { s.nv with fw := some f } } 5).moduleReset 3
          else res { s with nv := { s.nv with fw := none } } 6)

/-! ## Doorbell rows -/

/-- SQTAIL (R427). -/
def execSqtail (q : Fin 8192) (w : DbWrite) (s : State) : Host.Outcome State Fault Refusal := .next (s.doorbell q.val w)

/-- CQHEAD (R432). -/
def execCqhead (q : Fin 8192) (w : DbWrite) (s : State) : Host.Outcome State Fault Refusal := .next (s.doorbell q.val w)

/-- DIGHEAD (R439). -/
def execDighead (q : Fin 8192) (w : DbWrite) (s : State) : Host.Outcome State Fault Refusal := .next (s.doorbell q.val w)

/-- ERRHEAD (R426). -/
def execErrhead (q : Fin 8192) (w : DbWrite) (s : State) : Host.Outcome State Fault Refusal := .next (s.doorbell q.val w)

/-! ## The rest of the function -/

/-- BAR_UNDECODED_ACCESS: Unsupported Request (R423). -/
def execBarUndecodedAccess (addr : W64) (s : State) : Host.Outcome State Fault Refusal :=
  .next (if s.hostUp then s.noBar addr else s)

/-- A double word of configuration space: class code 0x12_0000, a type 0 header of one function, the two BARs and no expansion ROM
(Tables 14-1, 14-2); the places are those of the PCI Express Base Specification (log 173). -/
def State.configValue (s : State) (k : Nat) : W32 :=
  let open' := Config.configWord k s.hif.cfg
  let wr := smGet 0 s.hif.cfg k
  match k with
  | 2 => 0x12000000 ||| (open' &&& 0xFF)
  | 3 => open' &&& 0xFF00FFFF
  | 4 => (wr &&& 0xFF000000) ||| 4
  | 5 => wr
  | 6 => (wr &&& 0xFE000000) ||| 4
  | 7 => wr
  | 8 | 9 | 12 => 0
  | _ => open'

/-- A configuration request once it is served (R421, R483). -/
def State.configAccess (s : State) (c : ConfigReq) : State :=
  match c with
  | .read k => s.sendTlp none (.configReply (s.configValue k.toNat))
  | .write k v => ({ s with hif := { s.hif with cfg := smPut s.hif.cfg k.toNat v } }).sendTlp none .configDone
  | .power d => ({ s with hif := { s.hif with d3hot := d } }).sendTlp none .configDone
  | .msixControl e m =>
    (State.sendPending { s with hif := { s.hif with msixOn := e, msixMask := m } }).sendTlp none .configDone

/-- CONFIGURATION_REQUEST: Configuration Request Retry Status until stage 0x3, and normal service from then on (R483). -/
def execConfigurationRequest (c : ConfigReq) (s : State) : Host.Outcome State Fault Refusal :=
  .next (
    if !s.hostUp then s
    else if s.sys.stage.toNat < 3 then s.sendTlp none .configRetry
    else s.configAccess c)

end Sys2Proof.Machine
end

