-- ==== Sys2Proof/Machine/RingAtt.lean ====
section
/-! DEFINITION. Ring attention's steps (07: R234 to R237). -/

namespace Sys2Proof.Machine

/-- What the ring steps of a run share: members, positions of a member, own ring position, and the request's table entry. -/
structure RingEnv where
  a : AttP
  t : List LtEntry
  x : LtEntry
  n : Nat
  p : Nat
  me : Nat
  len : Nat                        -- bytes of a shard
deriving DecidableEq, Repr

/-- The local shard in ring layout: for each KV head, each block's keys, position-major, then its values (R235, R236); zeros where a
row's walk fails, which ends the request (R254), and the address of a lost granule where one is met (R488). -/
def State.packShard (s : State) (e : RingEnv) (j : AttJob) (f : Nat) :
    List Byte × Option (FCode × Nat) × State :=
  let a := e.a
  let x := e.x
  let n := a.hd * (fmtBits a.kvfmt / 8)
  let items := (List.range a.kvh).flatMap fun h => (List.range (ceilDiv x.klen 128)).flatMap fun b =>
    (List.range 2).flatMap fun w => (List.range 128).map fun i => (h, w, 128 * b + i)
  items.foldl (fun (acc : List Byte × Option (FCode × Nat) × State) it =>
    let zeros := acc.1 ++ List.replicate n 0
    if it.2.2 < x.klen then
      match acc.2.2.kvPlace a j f x.ridx it.2.1 it.1 (ringPos a.shard e.n e.p e.me it.2.2) with
      | (.got addr, s) =>
        let r := s.kvLoad j.group.rid j.group.desc addr n
        (acc.1 ++ r.1, acc.2.1, r.2)
      | (.fails, s) => (zeros, acc.2.1, s)
      | (.stops c l, s) => (zeros, acc.2.1.or (some (c, l)), s)
    else (zeros, acc.2)) ([], none, s)

/-- Ring position of the member whose shard step i works on (R236). -/
def RingEnv.src (e : RingEnv) (i : Nat) : Nat := (e.me + e.n - i % e.n) % e.n

/-- First position of block b of the shard of step i (R235). -/
def RingEnv.posOf (e : RingEnv) (i b : Nat) : Nat := ringPos e.a.shard e.n e.p (e.src i) (128 * b)

/-- Blocks of the shard of step i that a row group can see, in increasing position (R220, R236, R237). -/
def RingEnv.seen (e : RingEnv) (g : RowGroup) (i : Nat) : List Nat :=
  let qmax := (fedRows e.a e.t g).foldl (fun q r => max q (ringPos e.a.shard e.n e.p e.me r.pos)) 0
  (List.range (ceilDiv e.x.klen 128)).filter fun b => !e.a.causal || decide (e.posOf i b ≤ qmax)

/-- First positions of all the blocks that a row group's work item sees in the ring steps of a run. -/
def RingEnv.itemPositions (e : RingEnv) (g : RowGroup) : List Nat :=
  ((List.range e.n).flatMap fun i => (e.a.itemOf e.t g).flatMap fun o => (e.seen o i).map (e.posOf i)).eraseDups

/-- The number of a block among those that a work item sees, in position order (R231, log 63). -/
def RingEnv.rank (e : RingEnv) (g : RowGroup) (i b : Nat) : Nat :=
  ((e.itemPositions g).filter fun p => decide (p < e.posOf i b)).length

/-- Ranks of the blocks that a row group sees in step i. -/
def RingEnv.ranks (e : RingEnv) (g : RowGroup) (i : Nat) : List Nat := (e.seen g i).map (e.rank g i)

/-- The plan of ring step i (R231, R236). -/
def RingEnv.plan (e : RingEnv) (i : Nat) : RunPlan :=
  let later := fun (g : RowGroup) => (List.range e.n).flatMap fun k => if i < k then e.ranks { g with part := 0 } k else []
  { a := e.a, ringStep := i, total := fun g => (e.itemPositions g).length
    blocks := fun g => (e.seen g i).map fun b =>
      { rank := e.rank g i b, kbase := 128 * b
        ring := some { buf := ringBuf e.a e.len i, idx := b, per := ceilDiv e.x.klen 128, n := e.n, p := e.p, me := e.me,
                       src := e.src i } }
    ends := fun g => !((later g).any fun k => e.a.inPart (e.itemPositions { g with part := 0 }).length g.part k)
    whole := fun g => (List.range e.n).flatMap (e.ranks g) }

/-- A transfer of an engine that still reads a ring buffer. -/
def AttMove.readsRing (buf : Nat) : AttMove → Bool
  | .fetch j _ _ => match j.ring with | some x => decide (x.buf = buf) | none => false
  | _ => false

/-- A frame's engine has a transfer to start that reads a ring buffer. -/
def Frame.readsRing (fr : Frame) (buf : Nat) : Bool :=
  (fr.attTodo.any fun x => match x with | .move m => m.readsRing buf | .job _ => false) ||
  fr.attQueue.any fun t => match t.att with | some m => m.readsRing buf | none => false

/-- Ring step i of descriptor n may begin: its shard is here and verified, and the buffer it will receive into is neither
read nor forwarded any more (R236). -/
def State.ringMayStart (s : State) (rid n i : Nat) (a : AttP) (run : AttRun) (members : Nat) (len : Nat) (fs : List Nat) : Bool :=
  decide ((s.region rid).run = .stepping) && decide (run.phase = .running) && decide (run.ringStep = i) && decide (i < members) &&
  (decide (i = 0) || run.ringGot.contains i) &&
  !(fs.any fun f => (s.frame f).readsRing (ringBuf a len (i + 1))) &&
  (decide (i = 0) || match (s.region rid).coll? (a.rord + BitVec.ofNat 32 (i - 1)) with
    | some c => c.done && decide (c.desc = 1024 + n)
    | none => false)

/-- Pack the local shard into ring buffer 0 (R236); an address fault, or lost data, ends the run (R243, R488). -/
def State.ringPack (s : State) (rid n : Nat) (e : RingEnv) (f : Nat) : State × Bool :=
  let probe : AttJob := { group := { rid := rid, desc := n, entry := 0, tile := 0, head := 0 }, step := .score, kbase := 0 }
  match s.rangeFault rid [(e.a.ringbuf, 2 * e.len)] with
  | some (code, addr) => (s.engineFault rid n f code addr, false)
  | none =>
    let r := (s.lookUnit rid).packShard e probe f
    let t := { r.2.2 with mem := s.mem }
    match r.2.1 with
    | some (code, addr) => (t.engineFault rid n f code addr, false)
    | none => (t.writeMem rid [(ringBuf e.a e.len 0, r.1)], true)

/-- RING_STEP_START: step i of a ring-attention descriptor begins: step 0 packs the local shard; the engine asks for the
shift under ordinal RORD + i and enters the work on the shard's visible blocks (R236, R237, R385). -/
def execRingStepStart (rid : Fin 4) (n : Fin 1024) (i : Nat) (s : State) : Host.Outcome State Fault Refusal :=
  let r := s.region rid.val
  .next (match s.attDesc rid.val n.val, r.attRun n.val with
    | some w, some run =>
      let a := attFields w
      let mods := s.ringMembers rid.val a.rgroup
      let len := s.shardBytes rid.val a
      let fs := attFramesOf s.nv w
      if !a.ring || !s.ringMayStart rid.val n.val i a run mods.length len fs then s
      else
        let s := s.modRegion rid.val fun r => { r with att := r.att.map fun x =>
          if x.desc = n.val then { x with ringStep := i + 1, ringN := mods.length } else x }
        match s.attTable rid.val a with
        | [] => s
        | x :: rest =>
          let e : RingEnv := { a := a, t := x :: rest, x := x, n := mods.length, p := (s.req x.ridx).promptLen,
                               me := mods.idxOf s.self, len := len }
          let packed := if i = 0 then s.ringPack rid.val n.val e (fs.headD 0) else (s, true)
          if !packed.2 then packed.1
          else
            let gangs := (a.gangs rid.val n.val e.t fun k => decide (k = 0)).map fun g => g.map fun it => it.filter fun y =>
              run.groups.contains y
            packed.1.enterForward w e.t (e.plan i) gangs
    | _, _ => s)

end Sys2Proof.Machine
end

