-- ==== Sys2Proof/Machine/VMem.lean ====
section
/-! DEFINITION. The vector memory class (04: R113, R120 to R124, R130). An instruction of which a lane faults performs
nothing (log 17). -/

namespace Sys2Proof.Machine

/-- VLD: 256 bytes at s_a + IMM × 64, aligned to 64 bytes. -/
def execVld (who : ThreadId) (i : Insn) (s : State) : Host.Outcome State Fault Refusal :=
  s.issue who (formDAI.fits i) false fun c =>
    let off := (c.getS i.a + simm i * 64).toNat
    match accessFault off 256 64 with
    | some code => s.programFault who c.pc code off
    | none => let x := s.loadBy who off 256; x.2.retire who (c.setV i.d (BitVec.ofNat 2048 x.1))

/-- VST: v_b to 256 bytes at s_a + IMM × 64 (log 23: the data register). -/
def execVst (who : ThreadId) (i : Insn) (s : State) : Host.Outcome State Fault Refusal :=
  s.issue who (({ a := true, b := true, imm := true } : Form).fits i) false fun c =>
    let off := (c.getS i.a + simm i * 64).toNat
    match s.storeFault who.frame.val off 256 64 with
    | some code => s.programFault who c.pc code off
    | none => (s.storeBy who off 256 (c.getV i.b).toNat).retire who c

/-- The active lanes of a gather, scatter or atomic: element index and byte offset s_a + v_b[i], v_b as unsigned INT32. -/
def laneAddrs (c : Ctx) (i : Insn) : List (Nat × Nat) :=
  ((List.range (countOf i)).filter fun k => activeAt (maskOf c i) (countOf i) k).map fun k =>
    (k, (c.getS i.a + BitVec.ofNat 64 ((vecElems 32 (c.getV i.b)).getD k 0)).toNat)

/-- The first fault among lanes, with its offset. -/
def firstFault (check : Nat → Option FCode) : List (Nat × Nat) → Option (FCode × Nat)
  | [] => none
  | (_, off) :: r => match check off with
    | some code => some (code, off)
    | none => firstFault check r

/-- Load the lanes in increasing order. -/
def gatherLanes (w : ThreadId) (n : Nat) : List (Nat × Nat) → State → List (Nat × Nat) × State
  | [], s => ([], s)
  | (k, off) :: r, s =>
    let x := s.loadBy w off n
    let t := gatherLanes w n r x.2
    ((k, x.1) :: t.1, t.2)

/-- The results by element of what the lanes loaded. -/
def laneResults (n : Nat) (ls : List (Nat × Nat)) : List (Nat × Nat) :=
  (List.range n).map fun k => match ls.find? fun l => l.1 = k with
    | some l => (l.2, 0)
    | none => (0, 0)

/-- VGATH: element i := bytes at s_a + v_b[i]. -/
def execVgath (who : ThreadId) (i : Insn) (s : State) : Host.Outcome State Fault Refusal :=
  s.issue who (({ d := true, a := true, b := true, mask := true, types := tyArith } : Form).fits i) false fun c =>
    let n := widthOf i / 8
    let ls := laneAddrs c i
    match firstFault (fun off => accessFault off n n) ls with
    | some (code, off) => s.programFault who c.pc code off
    | none =>
      let x := gatherLanes who n ls s
      x.2.retire who (c.putLanes i (laneResults (countOf i) x.1))

/-- Store the lanes in increasing order, so that the highest lane's value remains (R124). -/
def scatterLanes (s : State) (w : ThreadId) (n : Nat) (data : List Nat) : List (Nat × Nat) → State
  | [] => s
  | (k, off) :: r => scatterLanes (s.storeBy w off n (data.getD k 0)) w n data r

/-- VSCAT: bytes at s_a + v_b[i] := element i of v_c (log 23: the data register). -/
def execVscat (who : ThreadId) (i : Insn) (s : State) : Host.Outcome State Fault Refusal :=
  s.issue who (({ a := true, b := true, c := true, mask := true, types := tyArith } : Form).fits i) false fun c =>
    let n := widthOf i / 8
    let ls := laneAddrs c i
    match firstFault (fun off => s.storeFault who.frame.val off n n) ls with
    | some (code, off) => s.programFault who c.pc code off
    | none => (scatterLanes s who n (vecElems (widthOf i) (c.getV i.c)) ls).retire who c

/-- One lane after another of an atomic: the word becomes `f word v`; the words before, by lane, and the flags. -/
def atomicLanes (f : Nat → Nat → Nat × Nat) (w : ThreadId) (data : List Nat) :
    State → List (Nat × Nat) → State × List (Nat × Nat) × Nat
  | s, [] => (s, [], 0)
  | s, (k, off) :: r =>
    let old := s.loadStore w.frame.val off 4
    let x := f old (data.getD k 0)
    let t := atomicLanes f w data (s.storeBy w off 4 x.1) r
    (t.1, (k, old) :: t.2.1, x.2 ||| t.2.2)

/-- The order in which the lanes of an atomic arrive: lanes on one word arrive in an order that is left open. -/
def arrivalOrder (s : State) (ls : List (Nat × Nat)) : List (Nat × Nat) × State :=
  if hasDup (ls.map (·.2)) then (shuffle s.freeCtr ls, { s with freeCtr := s.freeCtr + ls.length }) else (ls, s)

/-- An atomic operation makes what other contexts have stored to its words, and nothing else of those stores, visible to its context
(R125). -/
def State.meetStores (s : State) (w : ThreadId) (offs : List Nat) : State :=
  { s with races := s.races.map fun e =>
      let ws := (offs.map fun off => storeAddr w.frame.val off).filter fun a => e.meets a 4
      if ws = [] then e else { e with met := e.met ++ ws.map fun a => (w, a) } }

/-- An atomic on 32-bit words at s_a + v_b[i] with the elements of v_c; `back` puts the words before the operation into
v_d. -/
def vecAtomic (s : State) (who : ThreadId) (i : Insn) (back v : Bool) (ty : Nat) (f : Nat → Nat → Nat × Nat) :
    Host.Outcome State Fault Refusal :=
  s.issue who (({ d := back, a := true, b := true, c := true, mask := true, v := v, types := [ty] } : Form).fits i) v fun c =>
    let ls := laneAddrs c i
    match firstFault (fun off => s.storeFault who.frame.val off 4 4) ls with
    | some (code, off) => s.programFault who c.pc code off
    | none =>
      let o := arrivalOrder s ls
      let t := atomicLanes f who (vecElems 32 (c.getV i.c)) o.2 o.1
      let c := if back then c.putLanes i (laneResults 64 t.2.1) else c
      (t.1.meetStores who (ls.map (·.2))).retire who (c.raise t.2.2)

/-- VAADD: word += v_c[i] modulo 2^32. -/
def execVaadd (who : ThreadId) (i : Insn) (s : State) : Host.Outcome State Fault Refusal :=
  vecAtomic s who i false false 0x12 fun a b => ((a + b) % 2 ^ 32, 0)

/-- VAADDR: as VAADD, and v_d[i] := the word before the add. -/
def execVaaddr (who : ThreadId) (i : Insn) (s : State) : Host.Outcome State Fault Refusal :=
  vecAtomic s who i true true 0x12 fun a b => ((a + b) % 2 ^ 32, 0)

/-- VFAADD: word := round_rne_fp32(word + v_c[i]). -/
def execVfaadd (who : ThreadId) (i : Insn) (s : State) : Host.Outcome State Fault Refusal :=
  vecAtomic s who i false true 0x00 fun a b => fmtFP32.add .rne a b

/-- VAMAX: word := max(word, v_c[i]), signed (INT32). -/
def execVamax (who : ThreadId) (i : Insn) (s : State) : Host.Outcome State Fault Refusal :=
  vecAtomic s who i false false 0x12 fun a b => (if lt32 a b then b else a, 0)

/-- SCLAIM: if the word at s_a is 0 it becomes s_b and s_d := 1, else s_d := 0 (log 24: a word of 32 bits). -/
def execSclaim (who : ThreadId) (i : Insn) (s : State) : Host.Outcome State Fault Refusal :=
  s.issue who (({ d := true, a := true, b := true, v := true } : Form).fits i) true fun c =>
    let off := (c.getS i.a).toNat
    match s.storeFault who.frame.val off 4 4 with
    | some code => s.programFault who c.pc code off
    | none =>
      let t := s.meetStores who [off]
      if s.loadStore who.frame.val off 4 = 0 then
        (t.storeBy who off 4 ((c.getS i.b).toNat % 2 ^ 32)).retire who (c.setS i.d 1)
      else t.retire who (c.setS i.d 0)

end Sys2Proof.Machine
end

