-- ==== Sys2Proof/Machine/Dispatch.lean ====
section
/-! DEFINITION. Every command to its meaning, one arm a row of spec/opcode_table.json. -/

namespace Sys2Proof.Machine

open Sys2Proof

/-- The effect of a command on everything but the queue. -/
def exec (i : Instr) (s : State) : Host.Outcome State Fault Refusal :=
  match i with
  | .powerOnReset => Sys2Proof.Machine.execPowerOnReset s
  | .underVoltageOff => Sys2Proof.Machine.execUnderVoltageOff s
  | .overVoltageOff => Sys2Proof.Machine.execOverVoltageOff s
  | .inputReturn => Sys2Proof.Machine.execInputReturn s
  | .perstAssert => Sys2Proof.Machine.execPerstAssert s
  | .perstDeassert => Sys2Proof.Machine.execPerstDeassert s
  | .presentMate => Sys2Proof.Machine.execPresentMate s
  | .moduleReset cause => Sys2Proof.Machine.execModuleReset cause s
  | .functionLevelReset => Sys2Proof.Machine.execFunctionLevelReset s
  | .startupStageDone rep => Sys2Proof.Machine.execStartupStageDone rep s
  | .thermtrip powerStage => Sys2Proof.Machine.execThermtrip powerStage s
  | .hardwareThrottle half => Sys2Proof.Machine.execHardwareThrottle half s
  | .throttleCheck m => Sys2Proof.Machine.execThrottleCheck m s
  | .stepUpComplete half => Sys2Proof.Machine.execStepUpComplete half s
  | .plateHot plate => Sys2Proof.Machine.execPlateHot plate s
  | .warmEntry half => Sys2Proof.Machine.execWarmEntry half s
  | .lullEntry => Sys2Proof.Machine.execLullEntry s
  | .wakeEvent cause => Sys2Proof.Machine.execWakeEvent cause s
  | .keeperAlarm => Sys2Proof.Machine.execKeeperAlarm s
  | .keeperWatchdogExpiry => Sys2Proof.Machine.execKeeperWatchdogExpiry s
  | .taskWatchdogExpiry core passes => Sys2Proof.Machine.execTaskWatchdogExpiry core passes s
  | .controlCoreFault core passes => Sys2Proof.Machine.execControlCoreFault core passes s
  | .registerWrite acc value => Sys2Proof.Machine.execRegisterWrite acc value s
  | .barUndecodedAccess addr => Sys2Proof.Machine.execBarUndecodedAccess addr s
  | .rcRead acc => Sys2Proof.Machine.execRcRead acc s
  | .pairLoRead acc => Sys2Proof.Machine.execPairLoRead acc s
  | .sysReset value => Sys2Proof.Machine.execSysReset value s
  | .pwrCtl value => Sys2Proof.Machine.execPwrCtl value s
  | .pwrLimit value => Sys2Proof.Machine.execPwrLimit value s
  | .fabCoord value => Sys2Proof.Machine.execFabCoord value s
  | .queueEnable q value => Sys2Proof.Machine.execQueueEnable q value s
  | .queueDisable q value => Sys2Proof.Machine.execQueueDisable q value s
  | .recoveryGo img flashOk => Sys2Proof.Machine.execRecoveryGo img flashOk s
  | .sqtail q w => Sys2Proof.Machine.execSqtail q w s
  | .cqhead q w => Sys2Proof.Machine.execCqhead q w s
  | .dighead q w => Sys2Proof.Machine.execDighead q w s
  | .errhead q w => Sys2Proof.Machine.execErrhead q w s
  | .request q e tokens stops => Sys2Proof.Machine.execRequest q e tokens stops s
  | .ownEnroll q e => Sys2Proof.Machine.execOwnEnroll q e s
  | .ownRelease q e => Sys2Proof.Machine.execOwnRelease q e s
  | .regionCreate q e blob => Sys2Proof.Machine.execRegionCreate q e blob s
  | .regionRemove q e => Sys2Proof.Machine.execRegionRemove q e s
  | .queueBind q e => Sys2Proof.Machine.execQueueBind q e s
  | .fwUpdate q e img flashOk => Sys2Proof.Machine.execFwUpdate q e img flashOk s
  | .svnCommit q e => Sys2Proof.Machine.execSvnCommit q e s
  | .report q e => Sys2Proof.Machine.execReport q e s
  | .silborToken q e tok => Sys2Proof.Machine.execSilborToken q e tok s
  | .copyIn q e data => Sys2Proof.Machine.execCopyIn q e data s
  | .copyOut q e => Sys2Proof.Machine.execCopyOut q e s
  | .imageLoad q e img => Sys2Proof.Machine.execImageLoad q e img s
  | .serveSetup q e => Sys2Proof.Machine.execServeSetup q e s
  | .cancel q e => Sys2Proof.Machine.execCancel q e s
  | .disable q e => Sys2Proof.Machine.execDisable q e s
  | .enable q e => Sys2Proof.Machine.execEnable q e s
  | .query q e => Sys2Proof.Machine.execQuery q e s
  | .stepHold q e => Sys2Proof.Machine.execStepHold q e s
  | .digestTrace q e => Sys2Proof.Machine.execDigestTrace q e s
  | .kvGeometry q e => Sys2Proof.Machine.execKvGeometry q e s
  | .poolAdd q e => Sys2Proof.Machine.execPoolAdd q e s
  | .poolRemove q e => Sys2Proof.Machine.execPoolRemove q e s
  | .variantLoad q e data => Sys2Proof.Machine.execVariantLoad q e data s
  | .variantUnload q e => Sys2Proof.Machine.execVariantUnload q e s
  | .prefixFlush q e => Sys2Proof.Machine.execPrefixFlush q e s
  | .handleRelease q e => Sys2Proof.Machine.execHandleRelease q e s
  | .partnerPair q e => Sys2Proof.Machine.execPartnerPair q e s
  | .partnerUnpair q e => Sys2Proof.Machine.execPartnerUnpair q e s
  | .layoutSet q e => Sys2Proof.Machine.execLayoutSet q e s
  | .groupSet q e => Sys2Proof.Machine.execGroupSet q e s
  | .groupClear q e => Sys2Proof.Machine.execGroupClear q e s
  | .getStatus => Sys2Proof.Machine.execGetStatus s
  | .getEnergy => Sys2Proof.Machine.execGetEnergy s
  | .getIdent => Sys2Proof.Machine.execGetIdent s
  | .reset => Sys2Proof.Machine.execReset s
  | .wake => Sys2Proof.Machine.execWake s
  | .spdmKeyExchange sideband mutualAuth key => Sys2Proof.Machine.execSpdmKeyExchange sideband mutualAuth key s
  | .endSession id => Sys2Proof.Machine.execEndSession id s
  | .spdmHeartbeatExpiry id => Sys2Proof.Machine.execSpdmHeartbeatExpiry id s
  | .spdmGetMeasurements sideband g => Sys2Proof.Machine.execSpdmGetMeasurements sideband g s
  | .keyProg session stream keys => Sys2Proof.Machine.execKeyProg session stream keys s
  | .kSetGo session stream => Sys2Proof.Machine.execKSetGo session stream s
  | .vendorDefinedRequest session secret => Sys2Proof.Machine.execVendorDefinedRequest session secret s
  | .tlpOutsideIde => Sys2Proof.Machine.execTlpOutsideIde s
  | .stepBoundary rid env => Sys2Proof.Machine.execStepBoundary rid env s
  | .scrubDone rid item => Sys2Proof.Machine.execScrubDone rid item s
  | .groupLaunch rid => Sys2Proof.Machine.execGroupLaunch rid s
  | .stepHoldRelease rid => Sys2Proof.Machine.execStepHoldRelease rid s
  | .setupRecheck => Sys2Proof.Machine.execSetupRecheck s
  | .stepWatchdogExpiry who => Sys2Proof.Machine.execStepWatchdogExpiry who s
  | .stepTimeout rid => Sys2Proof.Machine.execStepTimeout rid s
  | .add who cls op i0 => Sys2Proof.Machine.execAdd who cls op i0 s
  | .sub who i0 => Sys2Proof.Machine.execSub who i0 s
  | .and who i0 => Sys2Proof.Machine.execAnd who i0 s
  | .or who i0 => Sys2Proof.Machine.execOr who i0 s
  | .xor who i0 => Sys2Proof.Machine.execXor who i0 s
  | .shl who i0 => Sys2Proof.Machine.execShl who i0 s
  | .shr who i0 => Sys2Proof.Machine.execShr who i0 s
  | .sra who i0 => Sys2Proof.Machine.execSra who i0 s
  | .slt who i0 => Sys2Proof.Machine.execSlt who i0 s
  | .sltu who i0 => Sys2Proof.Machine.execSltu who i0 s
  | .addi who k i0 => Sys2Proof.Machine.execAddi who k i0 s
  | .sltui who i0 => Sys2Proof.Machine.execSltui who i0 s
  | .lui who i0 => Sys2Proof.Machine.execLui who i0 s
  | .mul who i0 => Sys2Proof.Machine.execMul who i0 s
  | .mulh who i0 => Sys2Proof.Machine.execMulh who i0 s
  | .mulhu who i0 => Sys2Proof.Machine.execMulhu who i0 s
  | .div who i0 => Sys2Proof.Machine.execDiv who i0 s
  | .divu who i0 => Sys2Proof.Machine.execDivu who i0 s
  | .rem who i0 => Sys2Proof.Machine.execRem who i0 s
  | .remu who i0 => Sys2Proof.Machine.execRemu who i0 s
  | .ld1 who k i0 => Sys2Proof.Machine.execLd1 who k i0 s
  | .st1 who k i0 => Sys2Proof.Machine.execSt1 who k i0 s
  | .beq who k i0 => Sys2Proof.Machine.execBeq who k i0 s
  | .jal who i0 => Sys2Proof.Machine.execJal who i0 s
  | .jr who i0 => Sys2Proof.Machine.execJr who i0 s
  | .halt who i0 => Sys2Proof.Machine.execHalt who i0 s
  | .vadd who i0 => Sys2Proof.Machine.execVadd who i0 s
  | .vsub who i0 => Sys2Proof.Machine.execVsub who i0 s
  | .vmul who i0 => Sys2Proof.Machine.execVmul who i0 s
  | .vfma who i0 => Sys2Proof.Machine.execVfma who i0 s
  | .vdiv who i0 => Sys2Proof.Machine.execVdiv who i0 s
  | .vsqrt who i0 => Sys2Proof.Machine.execVsqrt who i0 s
  | .vmin who i0 => Sys2Proof.Machine.execVmin who i0 s
  | .vmax who i0 => Sys2Proof.Machine.execVmax who i0 s
  | .vneg who i0 => Sys2Proof.Machine.execVneg who i0 s
  | .vabs who i0 => Sys2Proof.Machine.execVabs who i0 s
  | .vcsgn who i0 => Sys2Proof.Machine.execVcsgn who i0 s
  | .vcmp who i0 => Sys2Proof.Machine.execVcmp who i0 s
  | .vsel who i0 => Sys2Proof.Machine.execVsel who i0 s
  | .vmov who i0 => Sys2Proof.Machine.execVmov who i0 s
  | .vbcast who i0 => Sys2Proof.Machine.execVbcast who i0 s
  | .vlane who i0 => Sys2Proof.Machine.execVlane who i0 s
  | .vand who i0 => Sys2Proof.Machine.execVand who i0 s
  | .vor who i0 => Sys2Proof.Machine.execVor who i0 s
  | .vxor who i0 => Sys2Proof.Machine.execVxor who i0 s
  | .vshl who i0 => Sys2Proof.Machine.execVshl who i0 s
  | .vshr who i0 => Sys2Proof.Machine.execVshr who i0 s
  | .vrsum who i0 => Sys2Proof.Machine.execVrsum who i0 s
  | .vperm who i0 => Sys2Proof.Machine.execVperm who i0 s
  | .vld who i0 => Sys2Proof.Machine.execVld who i0 s
  | .vst who i0 => Sys2Proof.Machine.execVst who i0 s
  | .vgath who i0 => Sys2Proof.Machine.execVgath who i0 s
  | .vscat who i0 => Sys2Proof.Machine.execVscat who i0 s
  | .vaadd who i0 => Sys2Proof.Machine.execVaadd who i0 s
  | .vaaddr who i0 => Sys2Proof.Machine.execVaaddr who i0 s
  | .vfaadd who i0 => Sys2Proof.Machine.execVfaadd who i0 s
  | .vamax who i0 => Sys2Proof.Machine.execVamax who i0 s
  | .sclaim who i0 => Sys2Proof.Machine.execSclaim who i0 s
  | .cvt who i0 => Sys2Proof.Machine.execCvt who i0 s
  | .vqblk who i0 => Sys2Proof.Machine.execVqblk who i0 s
  | .vdqblk who i0 => Sys2Proof.Machine.execVdqblk who i0 s
  | .mjob who i0 => Sys2Proof.Machine.execMjob who i0 s
  | .dma who i0 => Sys2Proof.Machine.execDma who i0 s
  | .bar who i0 => Sys2Proof.Machine.execBar who i0 s
  | .fences who i0 => Sys2Proof.Machine.execFences who i0 s
  | .fencej who i0 => Sys2Proof.Machine.execFencej who i0 s
  | .waitj who i0 => Sys2Proof.Machine.execWaitj who i0 s
  | .waitd who i0 => Sys2Proof.Machine.execWaitd who i0 s
  | .waits who i0 => Sys2Proof.Machine.execWaits who i0 s
  | .sigadd who i0 => Sys2Proof.Machine.execSigadd who i0 s
  | .rdcnt who i0 => Sys2Proof.Machine.execRdcnt who i0 s
  | .rccnt who i0 => Sys2Proof.Machine.execRccnt who i0 s
  | .rdfpsr who i0 => Sys2Proof.Machine.execRdfpsr who i0 s
  | .wrfpsr who i0 => Sys2Proof.Machine.execWrfpsr who i0 s
  | .wrfpcr who i0 => Sys2Proof.Machine.execWrfpcr who i0 s
  | .setseed who i0 => Sys2Proof.Machine.execSetseed who i0 s
  | .rdtid who i0 => Sys2Proof.Machine.execRdtid who i0 s
  | .rdgc who i0 => Sys2Proof.Machine.execRdgc who i0 s
  | .tileJobStart f => Sys2Proof.Machine.execTileJobStart f s
  | .tileDelivered f => Sys2Proof.Machine.execTileDelivered f s
  | .chainProgramEnd f => Sys2Proof.Machine.execChainProgramEnd f s
  | .tallyContribution f n => Sys2Proof.Machine.execTallyContribution f n s
  | .dmaTransferStart f => Sys2Proof.Machine.execDmaTransferStart f s
  | .dmaTransferDone f => Sys2Proof.Machine.execDmaTransferDone f s
  | .attentionDescriptorStart rid n => Sys2Proof.Machine.execAttentionDescriptorStart rid n s
  | .attentionDescriptorDone rid n => Sys2Proof.Machine.execAttentionDescriptorDone rid n s
  | .splitMerge rid n group => Sys2Proof.Machine.execSplitMerge rid n group s
  | .ringStepStart rid n i0 => Sys2Proof.Machine.execRingStepStart rid n i0 s
  | .samplerRunStart rid slot => Sys2Proof.Machine.execSamplerRunStart rid slot s
  | .samplerRunDone rid slot => Sys2Proof.Machine.execSamplerRunDone rid slot s
  | .meshPacket p => Sys2Proof.Machine.execMeshPacket p s
  | .meshFlitError src dst replayOk lasting => Sys2Proof.Machine.execMeshFlitError src dst replayOk lasting s
  | .memoryReadError tier2 ctrl off addr reader retryOk => Sys2Proof.Machine.execMemoryReadError tier2 ctrl off addr reader retryOk s
  | .sramError u row addr reader o => Sys2Proof.Machine.execSramError u row addr reader o s
  | .frameParityError f => Sys2Proof.Machine.execFrameParityError f s
  | .gddrMigrationDone => Sys2Proof.Machine.execGddrMigrationDone s
  | .packageLastingFault tier2 ctrl => Sys2Proof.Machine.execPackageLastingFault tier2 ctrl s
  | .zlLinkTraining port t => Sys2Proof.Machine.execZlLinkTraining port t s
  | .zlFlit port lane crcOk => Sys2Proof.Machine.execZlFlit port lane crcOk s
  | .zlReplayFailure port failedLanes => Sys2Proof.Machine.execZlReplayFailure port failedLanes s
  | .gcSyncExchange parentSent received sent parentReceived => Sys2Proof.Machine.execGcSyncExchange parentSent received sent parentReceived s
  | .collectiveStart rid lengths => Sys2Proof.Machine.execCollectiveStart rid lengths s
  | .collectiveDone rid ordinal => Sys2Proof.Machine.execCollectiveDone rid ordinal s
  | .chunk port dest c => Sys2Proof.Machine.execChunk port dest c s
  | .verifyToken port dest t => Sys2Proof.Machine.execVerifyToken port dest t s
  | .provisionalReexecute f slot => Sys2Proof.Machine.execProvisionalReexecute f slot s
  | .dataCell port dest c => Sys2Proof.Machine.execDataCell port dest c s
  | .requestCell port dest c => Sys2Proof.Machine.execRequestCell port dest c s
  | .grant port dest c => Sys2Proof.Machine.execGrant port dest c s
  | .rerun port dest c => Sys2Proof.Machine.execRerun port dest c s
  | .haltCell port dest c => Sys2Proof.Machine.execHaltCell port dest c s
  | .ready port dest c => Sys2Proof.Machine.execReady port dest c s
  | .notice port dest c => Sys2Proof.Machine.execNotice port dest c s
  | .peerFetch rid ridx nodes => Sys2Proof.Machine.execPeerFetch rid ridx nodes s
  | .layerBatchSend ridx layer => Sys2Proof.Machine.execLayerBatchSend ridx layer s
  | .roceAck port what => Sys2Proof.Machine.execRoceAck port what s
  | .roceNak port notReady => Sys2Proof.Machine.execRoceNak port notReady s
  | .congestionNotification port => Sys2Proof.Machine.execCongestionNotification port s
  | .communicationManagement port m => Sys2Proof.Machine.execCommunicationManagement port m s
  | .transportTimeout port => Sys2Proof.Machine.execTransportTimeout port s
  | .partnerReconnect => Sys2Proof.Machine.execPartnerReconnect s
  | .eapolMka port frame => Sys2Proof.Machine.execEapolMka port frame s
  | .priorityFlowControl port pause => Sys2Proof.Machine.execPriorityFlowControl port pause s
  | .handoffFrameDiscard port => Sys2Proof.Machine.execHandoffFrameDiscard port s
  | .handoffLaneLoss port lane => Sys2Proof.Machine.execHandoffLaneLoss port lane s
  | .configurationRequest c => Sys2Proof.Machine.execConfigurationRequest c s
  | .misalignedRegisterRead acc => Sys2Proof.Machine.execMisalignedRegisterRead acc s

end Sys2Proof.Machine
end

