-- ==== Sys2Proof/Safety.lean ====
section
/-! DEFINITION. What counts as a safe run, and the words in which claims are stated. -/

namespace Sys2Proof.Safety

open Sys2Proof.Machine

/-- A step of the module is safe when it ends in a next state. -/
def Steps (s : State) : Prop := ∃ t, step s = .next t

/-- A run of `n` steps, each of which ends in a next state. -/
def Runs : Nat → State → State → Prop
  | 0, s, t => s = t
  | n + 1, s, t => ∃ u, step s = .next u ∧ Runs n u t

/-- No COPY_IN of the step of region n races with what its units read, so that they see memory as it stands (R434). -/
def NoCopyRace (s : State) (n : Nat) : Prop := ∀ e ∈ s.races, e.races (.unit n) = false

/-! ## Reckoner instructions -/

/-- A context that issues, with the word after this one still inside the instruction store (R115, R148, R149). -/
def MayRun (s : State) (w : ThreadId) : Prop :=
  w.frame.val < s.nv.frames ∧ (s.ctx w).run = .running ∧ (s.ctx w).pc.toNat + 8 < 0x20000

/-- The state in which a context has new contents and stands at the next word; nothing else differs. -/
def advance (s : State) (w : ThreadId) (c : Ctx) : State := s.setCtx w { c with pc := c.pc + 8 }

/-- A word that uses D, A and B only (R126, R127). -/
def UsesDAB (i : Insn) : Prop := i.v = false ∧ i.c = 0 ∧ i.mask = 0 ∧ i.ty = 0 ∧ i.imm = 0

/-- A word that uses D, A and IMM only. -/
def UsesDAI (i : Insn) : Prop := i.v = false ∧ i.b = 0 ∧ i.c = 0 ∧ i.mask = 0 ∧ i.ty = 0

/-- A word that uses A, B and IMM only. -/
def UsesABI (i : Insn) : Prop := i.v = false ∧ i.d = 0 ∧ i.c = 0 ∧ i.mask = 0 ∧ i.ty = 0

/-- A word that uses D and IMM only. -/
def UsesDI (i : Insn) : Prop := i.v = false ∧ i.a = 0 ∧ i.b = 0 ∧ i.c = 0 ∧ i.mask = 0 ∧ i.ty = 0

/-- A word that uses A and IMM only. -/
def UsesAI (i : Insn) : Prop := i.v = false ∧ i.d = 0 ∧ i.b = 0 ∧ i.c = 0 ∧ i.mask = 0 ∧ i.ty = 0

/-- A word that uses no operand field. -/
def UsesNone (i : Insn) : Prop :=
  i.v = false ∧ i.d = 0 ∧ i.a = 0 ∧ i.b = 0 ∧ i.c = 0 ∧ i.mask = 0 ∧ i.ty = 0 ∧ i.imm = 0

/-- A word of the vector class that uses D, A, MASK and TYPE, with one of the types that the opcode allows. -/
def UsesVec1 (i : Insn) (types : List Nat) : Prop :=
  i.v = false ∧ i.b = 0 ∧ i.c = 0 ∧ i.imm = 0 ∧ i.ty.toNat ∈ types

/-- A word of the vector class that uses D, A, B, MASK and TYPE. -/
def UsesVec2 (i : Insn) (types : List Nat) : Prop := i.v = false ∧ i.c = 0 ∧ i.imm = 0 ∧ i.ty.toNat ∈ types

/-- The elements of a vector register at the instruction's type. -/
def elems (c : Ctx) (i : Insn) (r : BitVec 5) : List Nat := vecElems (widthOf i) (c.getV r)

/-- The outcome of a vector instruction that computes one result with its flags per element of v_a. -/
def perElement (s : State) (w : ThreadId) (i : Insn) (f : Nat → Nat × Nat) : Host.Outcome State Fault Refusal :=
  let c := s.ctx w
  .next (advance s w (c.putLanes i ((elems c i i.a).map f)))

/-- The outcome of a vector instruction that computes one result with its flags per pair of elements of v_a and v_b. -/
def perPair (s : State) (w : ThreadId) (i : Insn) (f : Nat → Nat → Nat × Nat) : Host.Outcome State Fault Refusal :=
  let c := s.ctx w
  .next (advance s w (c.putLanes i (List.zipWith f (elems c i i.a) (elems c i i.b))))

/-! ## Ring entries -/

/-- The module takes the entry of queue q now, as the row with this OPC: it is due and the queue has its turn, and the queue is bound
(R427 to R429, R432, R448). -/
def Takes (s : State) (q : Fin 8192) (e : Entry) (code : Nat) : Prop :=
  s.mayFetch q.val = true ∧ opc e = code ∧ fld (wordAt e 0) 31 8 = 0 ∧ (s.queue q.val).role ≠ .unbound

/-- The state once the queue's entry has been fetched: awake, with the entry's completion reserved. -/
def taken (s : State) (q : Fin 8192) : State := s.outOfRest.readEntry q.val

/-- The outcome in which the command completes with a status and a payload (R431). -/
def completes (t : State) (q : Fin 8192) (e : Entry) (status : Nat) (payload : List W64) : Host.Outcome State Fault Refusal :=
  .next (t.cmdDone q.val (hostTag e) status payload)

/-- The outcome in which the entry is refused (R285, R429). -/
def refuses (t : State) (q : Fin 8192) (e : Entry) (status : Nat) : Host.Outcome State Fault Refusal :=
  .next (t.refuse q.val (hostTag e) status)

/-- The rows of the owner-only commands, each with its OPC (R445, Table 15-4). -/
def ownerRows (q : Fin 8192) (e : Entry) (h : HostRead) (ok : Bool) : List (Nat × Instr) :=
  [(0x11, .ownRelease q e), (0x12, .regionCreate q e h), (0x13, .regionRemove q e), (0x14, .queueBind q e),
   (0x15, .fwUpdate q e h ok), (0x16, .svnCommit q e), (0x50, .partnerPair q e), (0x51, .partnerUnpair q e),
   (0x52, .layoutSet q e), (0x60, .groupSet q e), (0x61, .groupClear q e)]

/-- The rows of the commands that queue 0 alone may carry (R443, R461). -/
def firstRows (q : Fin 8192) (e : Entry) (h : HostRead) : List (Nat × Instr) :=
  [(0x10, .ownEnroll q e), (0x18, .silborToken q e h)]

/-- The rows that act on a region's memory and serving, each with its OPC and its region. -/
def regionRows (s : State) (q : Fin 8192) (e : Entry) (h : HostRead) : List (Nat × Nat × Instr) :=
  [(0x20, s.ridOf q, .copyIn q e h), (0x21, s.ridOf q, .copyOut q e), (0x22, s.ridOf q, .imageLoad q e h),
   (0x30, wn e 1 % 4, .serveSetup q e), (0x35, wn e 1 % 4, .stepHold q e), (0x36, wn e 1 % 4, .digestTrace q e),
   (0x40, s.ridOf q, .kvGeometry q e), (0x41, s.ridOf q, .poolAdd q e), (0x42, s.ridOf q, .poolRemove q e),
   (0x43, s.ridOf q, .variantLoad q e h), (0x44, s.ridOf q, .variantUnload q e), (0x45, s.ridOf q, .prefixFlush q e),
   (0x46, s.ridOf q, .handleRelease q e)]

/-- The rows that any bound queue may carry. -/
def anyRows (q : Fin 8192) (e : Entry) (h : HostRead) : List (Nat × Instr) :=
  [(0x01, .request q e h h), (0x17, .report q e), (0x31, .cancel q e), (0x32, .disable q e), (0x33, .enable q e),
   (0x34, .query q e)]

/-- Every row that is a ring entry, with its OPC. -/
def ringRows (s : State) (q : Fin 8192) (e : Entry) (h : HostRead) (ok : Bool) : List (Nat × Instr) :=
  ownerRows q e h ok ++ firstRows q e h ++ (regionRows s q e h).map (fun x => (x.1, x.2.2)) ++ anyRows q e h

/-- A command that a boundary applies: its OPC, who may issue it, its region, whether its payload is malformed and the status
of that, and its row. -/
structure Waiting where
  code : Nat
  who : Authority
  region : Nat
  bad : Bool
  mal : Nat
  row : Instr

/-- The commands that wait for order 3 of their region's boundary (R433). -/
def waitingRows (s : State) (q : Fin 8192) (e : Entry) (h : HostRead) : List Waiting :=
  let mine := fun (code : Nat) (bad : Bool) (mal : Nat) (row : Instr) =>
    ({ code := code, who := .memory (s.ridOf q) false, region := s.ridOf q, bad := bad, mal := mal, row := row } : Waiting)
  let named := fun (code : Nat) (bad : Bool) (row : Instr) =>
    ({ code := code, who := .memory (wn e 1 % 4) false, region := wn e 1 % 4, bad := bad, mal := 0x42, row := row } : Waiting)
  [mine 0x22 (decide (2 ^ 32 ≤ wn e 2) || !zeroFrom e 3) 0x2B (.imageLoad q e h),
   named 0x30 (badSetup e) (.serveSetup q e),
   named 0x35 (decide (4 ≤ wn e 1) || !zeroFrom e 3) (.stepHold q e),
   named 0x36 (decide (4 ≤ wn e 1) || decide (4096 ≤ wn e 2) || decide (65536 ≤ wn e 3) || !zeroFrom e 4) (.digestTrace q e),
   mine 0x40 (!zeroFrom e 2) 0x4B (.kvGeometry q e),
   mine 0x41 (badRange e || decide (wn e 2 % 4096 ≠ 0)) 0x4B (.poolAdd q e),
   mine 0x42 (badRange e) 0x4B (.poolRemove q e),
   mine 0x43 (badVariant e || !zeroFrom e 4) 0x4B (.variantLoad q e h),
   mine 0x44 (badVariant e || !zeroFrom e 2) 0x4B (.variantUnload q e),
   mine 0x45 (decide (65536 ≤ wn e 1) || decide (2 ≤ wn e 2) || !zeroFrom e 3) 0x4B (.prefixFlush q e),
   mine 0x46 (!zeroFrom e 2) 0x4B (.handleRelease q e),
   { code := 0x13, who := .owner, region := wn e 1, bad := decide (4 ≤ wn e 1) || !zeroFrom e 2, mal := 0x2B,
     row := .regionRemove q e },
   { code := 0x61, who := .owner, region := fld (wordAt e 1) 13 12,
     bad := decide (fld (wordAt e 1) 63 14 ≠ 0) || !zeroFrom e 2, mal := 0x51, row := .groupClear q e }]

/-- The state in which region n has one more command waiting for its boundary. -/
def awaits (t : State) (q : Fin 8192) (e : Entry) (n : Nat) (c : Instr) : State :=
  t.modRegion n fun r => { r with bcmds := r.bcmds ++ [{ queue := q.val, hosttag := hostTag e, cmd := c }] }

/-! ## Registers -/

/-- The value that a pair of writable registers holds (R13). -/
def pairOf (s : State) : Reg → W64
  | .errbLo => s.hif.err.base
  | .digbLo n => (s.digRing n).base
  | .qsqbLo q => (s.queue q).sqb
  | .qcqbLo q => (s.queue q).cqb
  | .recovLo => s.sec.recovAddr
  | _ => 0

/-- Whether a pair takes writes now: the error and digest rings under the owner gate, a queue's rings while the queue is
not enabled, the recovery address in recovery. -/
def pairWritable (s : State) : Reg → Bool
  | .errbLo | .digbLo _ => s.ownerGate
  | .qsqbLo q | .qcqbLo q => !(s.queue q).en
  | .recovLo => s.sec.recovery
  | _ => false

end Sys2Proof.Safety
end

