-- ==== Sys2Proof/Certificates/Slice0/Obligations.lean ====
section
/-! DEFINITION. The statements for the provers. -/

open Sys2Proof Sys2Proof.Machine Sys2Proof.Safety

/-! ## The queue, the tick, reset -/

/-- Every command runs from the front of the queue, on the state with the rest of the queue. -/
def Obligations.StepRunsFront : Prop :=
  ∀ (c : Instr) (s : State) (rest : List Instr), step { s with pending := c :: rest } = exec c { s with pending := rest }

/-- The model's choice (log 2): with no command waiting, one nanosecond passes. While the always-on domain has power the
global counter rises by one, except for one tick that a correction omits, and the input energy accumulates; nothing else
changes. Without power nothing changes. -/
def Obligations.EmptyQueueTicks : Prop :=
  ∀ s : State, s.pending = [] →
    let charged := { s with pwr := { s.pwr with energy := s.pwr.energy + s.pwr.input.toNat } }
    (s.pwr.rail = .off → step s = .next s) ∧
    (s.pwr.rail ≠ .off → s.fab.skipTick = false → step s = .next { charged with gc := s.gc + 1 }) ∧
    (s.pwr.rail ≠ .off → s.fab.skipTick = true → step s = .next { charged with fab := { s.fab with skipTick := false } })

/-! ## Reckoner registers and scalar instructions -/

/-- s0 reads 0 and m0 reads all ones whatever was written; every other register reads what was last written to it, and a
write changes no other register, mask, flag or pc of the context. A context's registers are its own: replacing one context
leaves every other context as it was. -/
def Obligations.RegisterFile : Prop :=
  (∀ (c : Ctx) (d r : BitVec 5) (v : W64) (x : BitVec 2048) (m n : Fin 8),
    ((c.setS d v).getS r = if r = 0 then 0 else if r = d then v else c.getS r) ∧
    ((c.setV d x).getV r = if r = d then x else c.getV r) ∧
    ((c.setM m.val v).getM n.val = if n.val = 0 then BitVec.allOnes 64 else if n = m then v else c.getM n.val) ∧
    (c.setS d v).getV r = c.getV r ∧ (c.setS d v).getM n.val = c.getM n.val ∧
    (c.setV d x).getS r = c.getS r ∧ (c.setV d x).getM n.val = c.getM n.val ∧
    (c.setS d v).pc = c.pc ∧ (c.setS d v).fpsr = c.fpsr ∧ (c.setS d v).fpcr = c.fpcr ∧
    (c.setV d x).pc = c.pc ∧ (c.setV d x).fpsr = c.fpsr ∧ (c.setV d x).fpcr = c.fpcr) ∧
  (∀ (s : State) (w v : ThreadId) (c : Ctx),
    (advance s w c).ctx v = (if v = w then { c with pc := c.pc + 8 } else s.ctx v) ∧
    (∀ f, f ≠ w.frame.val → (advance s w c).frame f = s.frame f) ∧
    (advance s w c).mem = s.mem ∧ (advance s w c).regions = s.regions ∧ (advance s w c).hif = s.hif ∧
    (advance s w c).reqs = s.reqs ∧ (advance s w c).nv = s.nv ∧ (advance s w c).out = s.out)

/-- The scalar instructions s_d := s_a op s_b complete with these results, in a context that may run; shift amounts below
64, and the quotient other than −2^63 by −1 (the rest is Obligations.OpenResults). Division by 0 gives all ones, a remainder
by 0 gives s_a. The next state differs in s_d and the pc of the context only. The scalar instructions s_d := s_a op IMM,
with IMM sign-extended (log 15), and LUI: they complete with these results. That a quotient is truncated and a remainder has
the dividend's sign is the model's choice (log 19), and so is the sign extension of IMM (log 15). -/
def Obligations.ScalarResults : Prop :=
  (∀ (s : State) (w : ThreadId) (i : Insn), MayRun s w → UsesDAB i →
    let a := (s.ctx w).getS i.a
    let b := (s.ctx w).getS i.b
    let gives := fun (v : W64) => Host.Outcome.next (advance s w ((s.ctx w).setS i.d v))
    exec (.add w 0 0 i) s = gives (a + b) ∧ exec (.sub w i) s = gives (a - b) ∧
    exec (.and w i) s = gives (a &&& b) ∧ exec (.or w i) s = gives (a ||| b) ∧ exec (.xor w i) s = gives (a ^^^ b) ∧
    (b.toNat < 64 → exec (.shl w i) s = gives (a <<< b.toNat) ∧ exec (.shr w i) s = gives (a >>> b.toNat) ∧
      exec (.sra w i) s = gives (a.sshiftRight b.toNat)) ∧
    exec (.slt w i) s = gives (if a.toInt < b.toInt then 1 else 0) ∧
    exec (.sltu w i) s = gives (if a.toNat < b.toNat then 1 else 0) ∧
    exec (.mul w i) s = gives (a * b) ∧
    exec (.mulh w i) s = gives (BitVec.ofInt 64 (a.toInt * b.toInt / 2 ^ 64)) ∧
    exec (.mulhu w i) s = gives (BitVec.ofNat 64 (a.toNat * b.toNat / 2 ^ 64)) ∧
    exec (.divu w i) s = gives (if b = 0 then BitVec.allOnes 64 else BitVec.ofNat 64 (a.toNat / b.toNat)) ∧
    exec (.remu w i) s = gives (if b = 0 then a else BitVec.ofNat 64 (a.toNat % b.toNat)) ∧
    (b = 0 → exec (.div w i) s = gives (BitVec.allOnes 64) ∧ exec (.rem w i) s = gives a) ∧
    (b ≠ 0 → ¬(a = BitVec.intMin 64 ∧ b = BitVec.allOnes 64) →
      exec (.div w i) s = gives (BitVec.ofInt 64 (a.toInt.tdiv b.toInt))) ∧
    (b ≠ 0 → exec (.rem w i) s = gives (BitVec.ofInt 64 (a.toInt.tmod b.toInt)))) ∧
  (∀ (s : State) (w : ThreadId) (i : Insn), MayRun s w →
    let a := (s.ctx w).getS i.a
    let b : W64 := i.imm.signExtend 64
    let gives := fun (v : W64) => Host.Outcome.next (advance s w ((s.ctx w).setS i.d v))
    (UsesDAI i →
      exec (.addi w 0 i) s = gives (a + b) ∧ exec (.addi w 1 i) s = gives (a - b) ∧
      exec (.addi w 2 i) s = gives (a &&& b) ∧ exec (.addi w 3 i) s = gives (a ||| b) ∧
      exec (.addi w 4 i) s = gives (a ^^^ b) ∧
      (b.toNat < 64 → exec (.addi w 5 i) s = gives (a <<< b.toNat) ∧ exec (.addi w 6 i) s = gives (a >>> b.toNat) ∧
        exec (.addi w 7 i) s = gives (a.sshiftRight b.toNat)) ∧
      exec (.addi w 8 i) s = gives (if a.toInt < b.toInt then 1 else 0) ∧
      exec (.sltui w i) s = gives (if a.toNat < b.toNat then 1 else 0)) ∧
    (UsesDI i → exec (.lui w i) s = gives (BitVec.ofInt 64 (i.imm.toInt * 2 ^ 22))))

/-- The branches, JAL and JR complete: a branch goes to pc + IMM × 8 where its condition holds and to the next word where
not; JAL leaves pc + 8 in s_d; JR goes to s_a + IMM × 8. Targets that are multiples of 8 inside the instruction store; a
fetch outside it is Obligations.WhatMayRun. HALT ends the context's part of the step: the context is halted with its
registers as they are, and where its frame holds no open group assembly buffer nothing else changes. -/
def Obligations.ControlFlow : Prop :=
  (∀ (s : State) (w : ThreadId) (i : Insn), MayRun s w →
    let c := s.ctx w
    let a := c.getS i.a
    let b := c.getS i.b
    let near := c.pc + i.imm.signExtend 64 * 8
    let far := a + i.imm.signExtend 64 * 8
    let goes := fun (taken : Bool) =>
      Host.Outcome.next (s.setCtx w { c with pc := if taken then near else c.pc + 8 })
    (UsesABI i → near.toNat % 8 = 0 → near.toNat < 0x20000 →
      exec (.beq w 0 i) s = goes (decide (a = b)) ∧ exec (.beq w 1 i) s = goes (decide (a ≠ b)) ∧
      exec (.beq w 2 i) s = goes (decide (a.toInt < b.toInt)) ∧ exec (.beq w 3 i) s = goes (decide (b.toInt ≤ a.toInt)) ∧
      exec (.beq w 4 i) s = goes (decide (a.toNat < b.toNat)) ∧ exec (.beq w 5 i) s = goes (decide (b.toNat ≤ a.toNat))) ∧
    (UsesDI i → near.toNat % 8 = 0 → near.toNat < 0x20000 →
      exec (.jal w i) s = .next (s.setCtx w { c.setS i.d (c.pc + 8) with pc := near })) ∧
    (UsesAI i → far.toNat % 8 = 0 → far.toNat < 0x20000 → exec (.jr w i) s = .next (s.setCtx w { c with pc := far }))) ∧
  (∀ (s : State) (w : ThreadId) (i : Insn), MayRun s w → UsesNone i → (s.frame w.frame.val).assembly = none →
    exec (.halt w i) s = .next (s.setCtx w { s.ctx w with run := .halted }))

/-! ## Frame store -/

/-- LD1 to LD8, ST1 to ST8, VLD and VST complete on an aligned address inside the 3 MiB frame store, a store outside the
read ranges of the decks' jobs: a load with which no store of another context races reads the little-endian bytes,
zero-extended; stores write the low bytes of s_b, or v_b, and nothing else but the frame's record of stores that later loads
may race with (R125). A scalar load that races with one store gives the bytes that stand or those from before the store.
VGATH, VSCAT, the vector atomics and SCLAIM complete where no active lane faults; their results are
Obligations.GatherScatterAtomics. The model's choices: that VST stores v_b and VSCAT v_c (log 23), and that SCLAIM's word is
4 bytes (log 24). -/
def Obligations.LoadsAndStores : Prop :=
  (∀ (s : State) (w : ThreadId) (i : Insn), MayRun s w →
    let c := s.ctx w
    let f := w.frame.val
    let off := (c.getS i.a + i.imm.signExtend 64).toNat
    let voff := (c.getS i.a + i.imm.signExtend 64 * 64).toNat
    let racing := fun (o n : Nat) => s.racing (.context w) (storeAddr f o) n
    (∀ k : Fin 4, off % 2 ^ k.val = 0 → off + 2 ^ k.val ≤ 0x300000 →
      (UsesDAI i → racing off (2 ^ k.val) = [] → exec (.ld1 w k i) s =
        .next (advance s w (c.setS i.d (BitVec.ofNat 64 (readLe s.mem (storeAddr f off) (2 ^ k.val)))))) ∧
      (UsesDAI i → ∀ e, racing (16 * (off / 16)) 16 = [e] → racing off (2 ^ k.val) = [e] →
        let before := (List.range (2 ^ k.val)).map fun j =>
          let a := storeAddr f off + j
          rewound (·.races (.context w)) (·.known (.context w)) a 1 s.races (memGet s.mem a)
        ∃ v, (v = readLe s.mem (storeAddr f off) (2 ^ k.val) ∨ v = leNat before) ∧ exec (.ld1 w k i) s =
          .next (advance { s with freeCtr := s.freeCtr + 1 } w (c.setS i.d (BitVec.ofNat 64 v)))) ∧
      (UsesABI i → s.hazard f off (2 ^ k.val) = false → exec (.st1 w k i) s =
        .next (advance (s.storeBy w off (2 ^ k.val) (c.getS i.b).toNat) w c))) ∧
    (voff % 64 = 0 → voff + 256 ≤ 0x300000 →
      (UsesDAI i → racing voff 256 = [] → exec (.vld w i) s =
        .next (advance s w (c.setV i.d (BitVec.ofNat 2048 (readLe s.mem (storeAddr f voff) 256))))) ∧
      (UsesDAI i → ∃ t v, exec (.vld w i) s = .next t ∧ t.mem = s.mem ∧ t.ctx w = { c.setV i.d v with pc := c.pc + 8 }) ∧
      (UsesABI i → s.hazard f voff 256 = false → exec (.vst w i) s =
        .next (advance (s.storeBy w voff 256 (c.getV i.b).toNat) w c)))) ∧
  (∀ (s : State) (w : ThreadId) (off n v : Nat),
    let t := s.storeBy w off n v
    { t with mem := s.mem, races := s.races } = s ∧ t.mem = writeLe s.mem (storeAddr w.frame.val off) n v ∧
    ∃ e : Race, t.races = e :: s.races ∧ e.writer = .context w ∧ e.addr = storeAddr w.frame.val off ∧ e.seen = [] ∧ e.met = [] ∧
      e.old.length = n ∧ ∀ k, k < n → e.before (e.addr + k) = some (memGet s.mem (e.addr + k))) ∧
  (∀ (s : State) (w : ThreadId) (i : Insn), MayRun s w →
    let c := s.ctx w
    let f := w.frame.val
    let lanes := laneAddrs c i
    let n := widthOf i / 8
    let fit := fun (k : Nat) => ∀ l ∈ lanes, l.2 % k = 0 ∧ l.2 + k ≤ 0x300000
    let clear := fun (k : Nat) => ∀ l ∈ lanes, s.hazard f l.2 k = false
    let off := (c.getS i.a).toNat
    let completes := fun (x : Instr) => ∃ t, exec x s = .next t ∧ (t.ctx w).pc = c.pc + 8 ∧ (t.ctx w).run = .running
    (UsesVec2 i tyArith → fit n → completes (.vgath w i)) ∧
    (i.v = false → i.d = 0 → i.imm = 0 → i.ty.toNat ∈ tyArith → fit n → clear n → completes (.vscat w i)) ∧
    (i.v = false → i.d = 0 → i.imm = 0 → i.ty = 0x12 → fit 4 → clear 4 → completes (.vaadd w i)) ∧
    (i.v = true → i.imm = 0 → i.ty = 0x12 → s.novary f = false → fit 4 → clear 4 → completes (.vaaddr w i)) ∧
    (i.v = true → i.d = 0 → i.imm = 0 → i.ty = 0 → s.novary f = false → fit 4 → clear 4 → completes (.vfaadd w i)) ∧
    (i.v = false → i.d = 0 → i.imm = 0 → i.ty = 0x12 → fit 4 → clear 4 → completes (.vamax w i)) ∧
    (i.v = true → i.c = 0 → i.mask = 0 → i.ty = 0 → i.imm = 0 → s.novary f = false → off % 4 = 0 → off + 4 ≤ 0x300000 →
      s.hazard f off 4 = false → completes (.sclaim w i)))

/-- What a store leaves: the bytes it writes read back as the low bytes of its data, and every other byte of memory reads as
before. What a scatter or an atomic leaves: every byte of memory outside the words of its active lanes reads as before. The
model's choices: the data register of the vector stores (log 23) and the 4 bytes of SCLAIM's word (log 24). -/
def Obligations.StoreFrame : Prop :=
  (∀ (s t : State) (w : ThreadId) (k : Fin 4) (i : Insn),
    let c := s.ctx w
    let at1 := storeAddr w.frame.val (c.getS i.a + i.imm.signExtend 64).toNat
    let atV := storeAddr w.frame.val (c.getS i.a + i.imm.signExtend 64 * 64).toNat
    (exec (.st1 w k i) s = .next t → ∀ x, (x < at1 ∨ at1 + 2 ^ k.val ≤ x) → memGet t.mem x = memGet s.mem x) ∧
    (exec (.vst w i) s = .next t → ∀ x, (x < atV ∨ atV + 256 ≤ x) → memGet t.mem x = memGet s.mem x) ∧
    (∀ v, readLe (writeLe s.mem at1 (2 ^ k.val) v) at1 (2 ^ k.val) = v % 2 ^ (8 * 2 ^ k.val))) ∧
  (∀ (s t : State) (w : ThreadId) (i : Insn) (x : Nat),
    let outside := fun (n : Nat) => ∀ l ∈ laneAddrs (s.ctx w) i,
      x < storeAddr w.frame.val l.2 ∨ storeAddr w.frame.val l.2 + n ≤ x
    (outside (widthOf i / 8) → exec (.vscat w i) s = .next t → memGet t.mem x = memGet s.mem x) ∧
    (outside 4 → exec (.vaadd w i) s = .next t ∨ exec (.vaaddr w i) s = .next t ∨ exec (.vfaadd w i) s = .next t ∨
      exec (.vamax w i) s = .next t → memGet t.mem x = memGet s.mem x) ∧
    (let a := storeAddr w.frame.val ((s.ctx w).getS i.a).toNat
     (x < a ∨ a + 4 ≤ x) → exec (.sclaim w i) s = .next t → memGet t.mem x = memGet s.mem x))

/-- R122: an access that is not aligned to its size, VLD and VST to 64 bytes, faults with MISALIGNED at its offset (inside
the frame store: outside it STORE_RANGE comes first, log 17); a gather, scatter or atomic at the first lane that faults. The
fault's effect is Obligations.FaultEffect, and an aligned access goes on (Obligations.LoadsAndStores and
Obligations.GatherScatterAtomics). The model's choices: that the fault's address is the store offset (log 56), and that
SCLAIM's word is aligned to 4 bytes (log 24). -/
def Obligations.MisalignedAccess : Prop :=
  ∀ (s : State) (w : ThreadId) (i : Insn), MayRun s w →
    let c := s.ctx w
    let off := (c.getS i.a + i.imm.signExtend 64).toNat
    let voff := (c.getS i.a + i.imm.signExtend 64 * 64).toNat
    let faults := fun (x : Nat) => Host.Outcome.next (s.programFault w c.pc .misaligned x)
    (∀ k : Fin 4, off % 2 ^ k.val ≠ 0 → off + 2 ^ k.val ≤ 0x300000 →
      (UsesDAI i → exec (.ld1 w k i) s = faults off) ∧ (UsesABI i → exec (.st1 w k i) s = faults off)) ∧
    (voff % 64 ≠ 0 → voff + 256 ≤ 0x300000 →
      (UsesDAI i → exec (.vld w i) s = faults voff) ∧ (UsesABI i → exec (.vst w i) s = faults voff)) ∧
    (∀ pre lane post, laneAddrs c i = pre ++ lane :: post →
      let bad := fun (n : Nat) => (∀ l ∈ pre, l.2 % n = 0 ∧ l.2 + n ≤ 0x300000 ∧ s.hazard w.frame.val l.2 n = false) ∧
        lane.2 % n ≠ 0 ∧ lane.2 + n ≤ 0x300000
      (bad (widthOf i / 8) →
        (UsesVec2 i tyArith → exec (.vgath w i) s = faults lane.2) ∧
        (i.v = false → i.d = 0 → i.imm = 0 → i.ty.toNat ∈ tyArith → exec (.vscat w i) s = faults lane.2)) ∧
      (bad 4 → i.imm = 0 →
        (i.v = false → i.d = 0 → i.ty = 0x12 → exec (.vaadd w i) s = faults lane.2 ∧ exec (.vamax w i) s = faults lane.2) ∧
        (i.v = true → i.d = 0 → i.ty = 0 → s.novary w.frame.val = false → exec (.vfaadd w i) s = faults lane.2) ∧
        (i.v = true → i.ty = 0x12 → s.novary w.frame.val = false → exec (.vaaddr w i) s = faults lane.2))) ∧
    (i.v = true → i.c = 0 → i.mask = 0 → i.ty = 0 → i.imm = 0 → s.novary w.frame.val = false →
      (c.getS i.a).toNat % 4 ≠ 0 → (c.getS i.a).toNat + 4 ≤ 0x300000 →
      exec (.sclaim w i) s = faults (c.getS i.a).toNat)

/-- R121 and R113: an access that touches a byte at or above 3 MiB faults with STORE_RANGE, aligned or not (log 17); an
aligned store inside the frame store that meets a byte range which a job in the deck queue reads, or the attention area that
an engine's descriptor holds (R213), faults with DECK_HAZARD; a gather, scatter or atomic at the first lane that faults. In
all cases memory is unchanged. The model's choice: SCLAIM's 4-byte word (log 24). -/
def Obligations.RangeAndHazard : Prop :=
  ∀ (s : State) (w : ThreadId) (i : Insn), MayRun s w →
    let c := s.ctx w
    let f := w.frame.val
    let off := (c.getS i.a + i.imm.signExtend 64).toNat
    let voff := (c.getS i.a + i.imm.signExtend 64 * 64).toNat
    let faults := fun (code : FCode) (x : Nat) => Host.Outcome.next (s.programFault w c.pc code x)
    let read := fun (x n : Nat) => (∃ j ∈ (s.frame f).deckQueue, ∃ r ∈ j.deckRanges, rangesMeet (x, n) r = true) ∨
      (∃ o, (s.frame f).attOwner = some o ∧ rangesMeet (x, n) (s.attArea o.1 o.2, s.attSize o.1 o.2) = true)
    let stops := fun (x n : Nat) (code : FCode) => (code = .storeRange ∧ 0x300000 < x + n) ∨
      (code = .deckHazard ∧ x % n = 0 ∧ x + n ≤ 0x300000 ∧ read x n)
    (∀ k : Fin 4, 0x300000 < off + 2 ^ k.val → UsesDAI i → exec (.ld1 w k i) s = faults .storeRange off) ∧
    (0x300000 < voff + 256 → UsesDAI i → exec (.vld w i) s = faults .storeRange voff) ∧
    (∀ (k : Fin 4) (code : FCode), stops off (2 ^ k.val) code → UsesABI i → exec (.st1 w k i) s = faults code off) ∧
    (∀ code : FCode, (code = .storeRange ∧ 0x300000 < voff + 256) ∨
        (code = .deckHazard ∧ voff % 64 = 0 ∧ voff + 256 ≤ 0x300000 ∧ read voff 256) →
      UsesABI i → exec (.vst w i) s = faults code voff) ∧
    (∀ pre lane post, laneAddrs c i = pre ++ lane :: post →
      let fit := fun (n : Nat) => ∀ l ∈ pre, l.2 % n = 0 ∧ l.2 + n ≤ 0x300000
      let free := fun (n : Nat) => fit n ∧ ∀ l ∈ pre, s.hazard f l.2 n = false
      (fit (widthOf i / 8) → 0x300000 < lane.2 + widthOf i / 8 → UsesVec2 i tyArith →
        exec (.vgath w i) s = faults .storeRange lane.2) ∧
      (∀ code : FCode, free (widthOf i / 8) → stops lane.2 (widthOf i / 8) code → i.v = false → i.d = 0 → i.imm = 0 →
        i.ty.toNat ∈ tyArith → exec (.vscat w i) s = faults code lane.2) ∧
      (∀ code : FCode, free 4 → stops lane.2 4 code → i.imm = 0 →
        (i.v = false → i.d = 0 → i.ty = 0x12 →
          exec (.vaadd w i) s = faults code lane.2 ∧ exec (.vamax w i) s = faults code lane.2) ∧
        (i.v = true → i.d = 0 → i.ty = 0 → s.novary f = false → exec (.vfaadd w i) s = faults code lane.2) ∧
        (i.v = true → i.ty = 0x12 → s.novary f = false → exec (.vaaddr w i) s = faults code lane.2))) ∧
    (∀ code : FCode, i.v = true → i.c = 0 → i.mask = 0 → i.ty = 0 → i.imm = 0 → s.novary f = false →
      stops (c.getS i.a).toNat 4 code → exec (.sclaim w i) s = faults code (c.getS i.a).toNat) ∧
    (∀ code x, (s.programFault w c.pc code x).mem = s.mem)

/-! ## Program faults -/

/-- A fault's effect on the region that holds the context's frame (R149, Tables 4-10 and 4-11): the record with code, frame,
core, context, pc and address is kept as one of up to eight, no context of the region issues any more, compute is stopping,
and the registers, the pc, memory, every other region, and the jobs and transfers already accepted are as they were. The
fields of a fault record lie where Table 4-10 puts them. -/
def Obligations.FaultEffect : Prop :=
  (∀ (s : State) (w v : ThreadId) (pc : W64) (code : FCode) (addr n : Nat), s.regionOfFrame w.frame.val = some n →
    let t := s.programFault w pc code addr
    let record := faultRecord code w pc addr
    ((s.region n).faultRecs.length < 8 → (t.region n).faultRecs = (s.region n).faultRecs ++ [record]) ∧
    (8 ≤ (s.region n).faultRecs.length → (t.region n).faultRecs = (s.region n).faultRecs) ∧
    (t.region n).faultN = min 8 ((s.region n).faultN + 1) ∧ (t.region n).faulted = true ∧
    ((s.region n).run ≠ .waiting → (t.region n).run = .stopping) ∧
    ((s.region n).holdsFrame s.nv v.frame.val → (t.ctx v).run = .halted ∨ (t.ctx v).run = .stopped) ∧
    (¬ (s.region n).holdsFrame s.nv v.frame.val → t.ctx v = s.ctx v) ∧
    (t.ctx v).pc = (s.ctx v).pc ∧ (t.ctx v).sregs = (s.ctx v).sregs ∧ (t.ctx v).vregs = (s.ctx v).vregs ∧
    (t.frame v.frame.val).deckQueue = (s.frame v.frame.val).deckQueue ∧
    (t.frame v.frame.val).dmaQueue = (s.frame v.frame.val).dmaQueue ∧
    (∀ k, k ≠ n → t.region k = s.region k) ∧ t.mem = s.mem) ∧
  (∀ (code : FCode) (w : ThreadId) (pc : W64) (addr : Nat), code.num < 2 ^ 8 →
    let r := faultRecord code w pc addr
    fld r 7 0 = code.num ∧ fld r 16 8 = w.frame.val ∧ fld r 18 17 = w.core.val ∧ fld r 22 19 = w.ctx.val ∧
    fld r 39 23 = pc.toNat % 2 ^ 17 ∧ fld r 63 40 = 0 ∧ fld r 111 64 = addr % 2 ^ 48 ∧ fld r 127 112 = 0)

/-- R127: a word with a reserved CLASS or OP faults with MALFORMED_INSN; so does a word whose unused field is not 0, whose
TYPE the opcode does not allow, whose V bit is not the opcode's, or that names m0 as a destination, shown for a scalar, a
branch, a vector and a compare opcode. A word of another row given as ADD is refused as that row's. A context that is
halted, blocked or stopped issues nothing (R117, R143, R148); a context of a frame that the part's grade does not have (R1,
R2) is the model's fault absentFrame; a fetch at or above 0x2_0000 faults with PC_RANGE, also the one after an instruction
that is the last word of the store (R149, Table 4-11). The model's choices: that a malformed word with V = 1 in a NOVARY
region gives MALFORMED_INSN (log 148), that a word with a reserved CLASS or OP is the command ADD with that CLASS and OP
(log 11), and the stops absentFrame and otherRow (log 134). -/
def Obligations.WhatMayRun : Prop :=
  (∀ (s : State) (w : ThreadId) (i : Insn), MayRun s w →
    let faults := Host.Outcome.next (s.programFault w (s.ctx w).pc .malformedInsn 0)
    (∀ (cls : BitVec 4) (op : BitVec 9), opKnown cls.toNat op.toNat = false → exec (.add w cls op i) s = faults) ∧
    (∀ (cls : BitVec 4) (op : BitVec 9), opKnown cls.toNat op.toNat = true → ¬(cls = 0 ∧ op = 0) →
      exec (.add w cls op i) s = .refused .otherRow) ∧
    (i.imm ≠ 0 ∨ i.c ≠ 0 ∨ i.mask ≠ 0 ∨ i.ty ≠ 0 ∨ i.v = true →
      exec (.add w 0 0 i) s = faults ∧ exec (.mul w i) s = faults ∧ exec (.sltu w i) s = faults) ∧
    (i.b ≠ 0 ∨ i.c ≠ 0 ∨ i.mask ≠ 0 ∨ i.ty ≠ 0 ∨ i.v = true → exec (.addi w 0 i) s = faults ∧ exec (.ld1 w 3 i) s = faults) ∧
    (i.d ≠ 0 ∨ i.c ≠ 0 ∨ i.v = true → exec (.beq w 0 i) s = faults ∧ exec (.st1 w 0 i) s = faults) ∧
    (i.ty.toNat ∉ [0x00, 0x01, 0x12] ∨ i.c ≠ 0 ∨ i.imm ≠ 0 ∨ i.v = true → exec (.vadd w i) s = faults) ∧
    (i.d = 0 ∨ 8 ≤ i.d.toNat ∨ 8 ≤ i.imm.toNat → exec (.vcmp w i) s = faults) ∧
    (i.v = false → exec (.vaaddr w i) s = faults ∧ exec (.rdgc w i) s = faults ∧ exec (.sclaim w i) s = faults)) ∧
  (∀ (s : State) (w : ThreadId) (i : Insn), UsesDAB i →
    let c := s.ctx w
    let v := c.getS i.a - c.getS i.b
    (w.frame.val < s.nv.frames → c.run ≠ .running → exec (.sub w i) s = .next s) ∧
    (s.nv.frames ≤ w.frame.val → exec (.sub w i) s = .fault .absentFrame) ∧
    (w.frame.val < s.nv.frames → c.run = .running → 0x20000 ≤ c.pc.toNat →
      exec (.sub w i) s = .next (s.programFault w c.pc .pcRange c.pc.toNat)) ∧
    (w.frame.val < s.nv.frames → c.run = .running → c.pc = 0x1FFF8 →
      exec (.sub w i) s = .next ((advance s w (c.setS i.d v)).programFault w 0x20000 .pcRange 0x20000)))

/-- R128: where the loaded image carries NOVARY, every instruction whose row has V = 1 faults with VARY_FORBIDDEN before it
takes effect. -/
def Obligations.VaryForbidden : Prop :=
  ∀ (s : State) (w : ThreadId) (i : Insn), MayRun s w → i.v = true →
    (∃ n im, s.regionOfFrame w.frame.val = some n ∧ (s.region n).image = some im ∧ im.novary = true) →
    let faults := Host.Outcome.next (s.programFault w (s.ctx w).pc .varyForbidden 0)
    (i.imm = 0 → i.ty = 0x12 → exec (.vaaddr w i) s = faults) ∧
    (i.imm = 0 → i.ty = 0 → i.d = 0 → exec (.vfaadd w i) s = faults) ∧
    (i.c = 0 → i.mask = 0 → i.ty = 0 → i.imm = 0 → exec (.sclaim w i) s = faults) ∧
    (i.a = 0 → i.b = 0 → i.c = 0 → i.mask = 0 → i.ty = 0 → i.imm.toNat < 2 →
      exec (.rdcnt w i) s = faults ∧ exec (.rccnt w i) s = faults) ∧
    (i.a = 0 → i.b = 0 → i.c = 0 → i.mask = 0 → i.ty = 0 → i.imm = 0 → exec (.rdgc w i) s = faults)

/-! ## Vector instructions -/

/-- What a vector instruction's results do to v_d and FPSR (R119, R120): an element is active when bit floor(k × 64 / N) of
the mask is 1; an active element takes its result, an inactive one stays and raises no flag; the flags of the active ones
are raised and stay (R69). -/
def Obligations.ActiveLanes : Prop :=
  ∀ (c : Ctx) (i : Insn) (rs : List (Nat × Nat)) (k : Nat),
    i.ty.toNat ∈ tyAny → rs.length = countOf i → k < countOf i →
    let active := fun (j : Nat) => (maskOf c i).getLsbD (j * 64 / countOf i)
    (elems (c.putLanes i rs) i i.d).getD k 0 = (if active k then (rs.getD k (0, 0)).1 % 2 ^ widthOf i else (elems c i i.d).getD k 0) ∧
    (∀ b : Nat, b < 5 → (c.putLanes i rs).fpsr.getLsbD b =
      (c.fpsr.getLsbD b || (List.range (countOf i)).any fun j => active j && (rs.getD j (0, 0)).2.testBit b))

/-- The arithmetic of the vector class, element by element, on FP32, FP64 (in the dynamic rounding mode) and INT32 modulo
2^32; VFMA with one rounding. VMIN and VMAX: IEEE 754-2019 minimum and maximum on the four floating types, signed order on
INT32. VNEG, VABS and VCSGN change the sign bit only and raise no flag (R74). -/
def Obligations.VectorArithmetic : Prop :=
  (∀ (s : State) (w : ThreadId) (i : Insn), MayRun s w →
    let c := s.ctx w
    let rm := rmOf c.fpcr.toNat
    (UsesVec2 i [0x12] →
      exec (.vadd w i) s = perPair s w i (fun a b => ((a + b) % 2 ^ 32, 0)) ∧
      exec (.vsub w i) s = perPair s w i (fun a b => ((a + (2 ^ 32 - b)) % 2 ^ 32, 0)) ∧
      exec (.vmul w i) s = perPair s w i (fun a b => (a * b % 2 ^ 32, 0))) ∧
    (∀ f : FFmt, (i.ty = 0 ∧ f = fmtFP32 ∨ i.ty = 1 ∧ f = fmtFP64) →
      (UsesVec2 i [0x00, 0x01] →
        exec (.vadd w i) s = perPair s w i (fun a b => f.add rm a b) ∧
        exec (.vsub w i) s = perPair s w i (fun a b => f.sub rm a b) ∧
        exec (.vmul w i) s = perPair s w i (fun a b => f.mul rm a b) ∧
        exec (.vdiv w i) s = perPair s w i (fun a b => f.div rm a b)) ∧
      (UsesVec1 i [0x00, 0x01] → exec (.vsqrt w i) s = perElement s w i (fun a => f.sqrt rm a)) ∧
      (i.v = false → i.imm = 0 → exec (.vfma w i) s = .next (advance s w (c.putLanes i
        (List.zipWith (fun (p : Nat × Nat) z => f.fma rm p.1 p.2 z) ((elems c i i.a).zip (elems c i i.b)) (elems c i i.c))))))) ∧
  (∀ (s : State) (w : ThreadId) (i : Insn), MayRun s w →
    (UsesVec2 i [0x12] →
      exec (.vmin w i) s = perPair s w i (fun a b => ((if signedOf 32 b < signedOf 32 a then b else a) % 2 ^ 32, 0)) ∧
      exec (.vmax w i) s = perPair s w i (fun a b => ((if signedOf 32 a < signedOf 32 b then b else a) % 2 ^ 32, 0))) ∧
    (∀ f : FFmt, (i.ty = 0 ∧ f = fmtFP32 ∨ i.ty = 1 ∧ f = fmtFP64 ∨ i.ty = 4 ∧ f = fmtE4M3 ∨ i.ty = 5 ∧ f = fmtE5M2) →
      (UsesVec2 i [0x00, 0x01, 0x04, 0x05] →
        exec (.vmin w i) s = perPair s w i (fun a b => f.minmax false a b) ∧
        exec (.vmax w i) s = perPair s w i (fun a b => f.minmax true a b) ∧
        exec (.vcsgn w i) s = perPair s w i (fun a b =>
          (a % 2 ^ (f.width - 1) + b / 2 ^ (f.width - 1) * 2 ^ (f.width - 1), 0))) ∧
      (UsesVec1 i [0x00, 0x01, 0x04, 0x05] →
        exec (.vneg w i) s = perElement s w i (fun a => (a ^^^ 2 ^ (f.width - 1), 0)) ∧
        exec (.vabs w i) s = perElement s w i (fun a => (a % 2 ^ (f.width - 1), 0)))))

/-- The moves and the bitwise instructions: VMOV, VBCAST, VLANE, VSEL, VPERM, VAND, VOR, VXOR, and VSHL and VSHR with every
shift amount below 32. VSEL takes v_a where the mask bit is 1 and v_b where it is 0. That VSHR is a logical shift is the
model's choice (log 22). -/
def Obligations.VectorMoveAndBits : Prop :=
  ∀ (s : State) (w : ThreadId) (i : Insn), MayRun s w →
    let c := s.ctx w
    (UsesVec2 i [0x12] →
      exec (.vand w i) s = perPair s w i (fun a b => (a &&& b, 0)) ∧
      exec (.vor w i) s = perPair s w i (fun a b => (a ||| b, 0)) ∧
      exec (.vxor w i) s = perPair s w i (fun a b => (a ^^^ b, 0)) ∧
      ((∀ b ∈ elems c i i.b, b < 32) →
        exec (.vshl w i) s = perPair s w i (fun a b => (a * 2 ^ b % 2 ^ 32, 0)) ∧
        exec (.vshr w i) s = perPair s w i (fun a b => (a / 2 ^ b, 0)))) ∧
    (UsesVec1 i tyAny → exec (.vmov w i) s = perElement s w i (fun a => (a, 0)) ∧
      exec (.vbcast w i) s = .next (advance s w (c.putLanes i
        (List.replicate (countOf i) ((c.getS i.a).toNat % 2 ^ widthOf i, 0))))) ∧
    (UsesVec1 i [0x12] → i.a = 0 →
      exec (.vlane w i) s = .next (advance s w (c.putLanes i ((List.range 64).map fun k => (k, 0))))) ∧
    (UsesVec2 i tyAny →
      exec (.vsel w i) s = .next (advance s w (c.setV i.d (vecOf (widthOf i) ((List.range (countOf i)).map fun k =>
        if (maskOf c i).getLsbD (k * 64 / countOf i) then (elems c i i.a).getD k 0 else (elems c i i.b).getD k 0)))) ∧
      exec (.vperm w i) s = perPair s w i (fun _ k => ((elems c i i.a).getD (k % countOf i) 0, 0)))

/-- VCMP on 32-bit elements puts each active element's comparison into the mask bit of its lane and leaves the bits of
inactive ones, with no flag where no active operand is a signalling NaN; VRSUM sums the active elements in the pairwise tree
of R131, FP32 to nearest even with −0 for an inactive element, INT32 modulo 2^32 with 0. That VRSUM's result is
zero-extended into s_d is the model's choice (log 53). -/
def Obligations.CompareAndReduce : Prop :=
  ∀ (s : State) (w : ThreadId) (i : Insn), MayRun s w →
    let c := s.ctx w
    let m := maskOf c i
    let xs := elems c i i.a
    (i.v = false → i.c = 0 → i.ty = 0x00 ∨ i.ty = 0x12 → i.d ≠ 0 → i.d.toNat < 8 → i.imm.toNat < 8 →
      ∃ t, exec (.vcmp w i) s = .next t ∧ t.mem = s.mem ∧ (t.ctx w).pc = c.pc + 8 ∧
        (∀ k, k < 64 → ((t.ctx w).getM i.d.toNat).getLsbD k =
          (if m.getLsbD k then (compareOp i (xs.getD k 0) ((elems c i i.b).getD k 0)).1 else (c.getM i.d.toNat).getLsbD k)) ∧
        (∀ k, k < 8 → k ≠ i.d.toNat → (t.ctx w).getM k = c.getM k) ∧ (t.ctx w).sregs = c.sregs ∧ (t.ctx w).vregs = c.vregs ∧
        (i.ty = 0x12 → (t.ctx w).fpsr = c.fpsr) ∧
        (i.ty = 0x00 → (∀ k, k < 64 → m.getLsbD k = true → (fmtFP32.decode (xs.getD k 0)).signalling = false ∧
          (fmtFP32.decode ((elems c i i.b).getD k 0)).signalling = false) → (t.ctx w).fpsr = c.fpsr)) ∧
    (UsesVec1 i [0x12] → ∃ t, exec (.vrsum w i) s = .next t ∧ t.mem = s.mem ∧ (t.ctx w).pc = c.pc + 8 ∧
      (i.d ≠ 0 → (t.ctx w).getS i.d = BitVec.ofNat 64
        ((((List.range 64).map fun k => if m.getLsbD k then xs.getD k 0 else 0).foldr (fun a b => a + b) 0) % 2 ^ 32)) ∧
      (t.ctx w).vregs = c.vregs ∧ (t.ctx w).fpsr = c.fpsr) ∧
    (UsesVec1 i [0x00] →
      let sum := treeSum (fun a b => fmtFP32.add .rne a b) 6
        ((List.range 64).map fun k => if m.getLsbD k then xs.getD k 0 else 0x80000000)
      exec (.vrsum w i) s = .next (advance s w ((c.setS i.d (BitVec.ofNat 64 sum.1)).raise sum.2)))

/-- Where Table 4-4 states no result, the instruction completes all the same and that one value is free, an opaque constant
of its operands (logs 18, 19 and 21): a shift by the width or more, the quotient of −2^63 by −1, and a VCMP on FP64 or on
8-bit elements, whose mask bits R120 does not fix one by one. Such a VCMP has the same result in every state that gives it
the same operands, mask and destination (R403, R404). -/
def Obligations.OpenResults : Prop :=
  ∀ (s : State) (w : ThreadId) (i : Insn), MayRun s w →
    let c := s.ctx w
    let gives := fun (v : W64) => Host.Outcome.next (advance s w (c.setS i.d v))
    let writesV := fun (o : Host.Outcome State Fault Refusal) =>
      ∃ v, o = .next (advance s w ((c.setV i.d v).raise 0))
    (UsesDAB i → (∃ v, exec (.shl w i) s = gives v) ∧ (∃ v, exec (.shr w i) s = gives v) ∧
      (∃ v, exec (.sra w i) s = gives v) ∧ (∃ v, exec (.div w i) s = gives v) ∧ (∃ v, exec (.rem w i) s = gives v)) ∧
    (UsesDAI i → ∀ k : Fin 9, ∃ v, exec (.addi w k i) s = gives v) ∧
    (UsesVec2 i [0x12] → writesV (exec (.vshl w i) s) ∧ writesV (exec (.vshr w i) s)) ∧
    (i.v = false → i.c = 0 → i.ty.toNat ∈ [0x01, 0x04, 0x05] → i.d ≠ 0 → i.d.toNat < 8 → i.imm.toNat < 8 →
      (∃ v fl, exec (.vcmp w i) s = .next (advance s w ((c.setM i.d.toNat v).raise fl))) ∧
      ∀ (u : State) (x : ThreadId), MayRun u x → (u.ctx x).getV i.a = c.getV i.a → (u.ctx x).getV i.b = c.getV i.b →
        maskOf (u.ctx x) i = maskOf c i → (u.ctx x).getM i.d.toNat = c.getM i.d.toNat →
        ∃ t t', exec (.vcmp w i) s = .next t ∧ exec (.vcmp x i) u = .next t' ∧
          (t.ctx w).getM i.d.toNat = (t'.ctx x).getM i.d.toNat)

/-- The results of VGATH, VSCAT, the vector atomics and SCLAIM where no active lane faults. A gather puts the words at s_a +
v_b[k], with which no store of another context races, into the active elements; a scatter stores the active elements of v_c,
the highest lane last (R124); on lanes at different words VAADD, VAMAX and VFAADD update each word, VAADDR also returns the
word before; SCLAIM claims a word that is 0. An atomic makes the stores to its words visible to its context (R125). The
model's choices: VSCAT's data register (log 23), and SCLAIM's 32-bit word with its result 1 or 0 (log 24). -/
def Obligations.GatherScatterAtomics : Prop :=
  ∀ (s : State) (w : ThreadId) (i : Insn), MayRun s w →
    let c := s.ctx w
    let f := w.frame.val
    let lanes := laneAddrs c i
    let n := widthOf i / 8
    let offs := lanes.map (·.2)
    let free := fun (k : Nat) => ∀ l ∈ lanes, l.2 % k = 0 ∧ l.2 + k ≤ 0x300000 ∧ s.hazard f l.2 k = false
    let updated := fun (g : Nat → Nat → Nat) => lanes.foldl (fun m l =>
      writeLe m (storeAddr f l.2) 4 (g (readLe m (storeAddr f l.2) 4) ((elems c i i.c).getD l.1 0))) s.mem
    let stored := fun (g : Nat → Nat → Nat) => (lanes.foldl (fun (t : State) l =>
      t.storeBy w l.2 4 (g (readLe t.mem (storeAddr f l.2) 4) ((elems c i i.c).getD l.1 0))) s).meetStores w offs
    (UsesVec2 i tyArith → (∀ l ∈ lanes, l.2 % n = 0 ∧ l.2 + n ≤ 0x300000 ∧ s.racing (.context w) (storeAddr f l.2) n = []) →
      exec (.vgath w i) s = .next (advance s w (c.putLanes i ((List.range (countOf i)).map fun k =>
        (((lanes.find? (fun l => l.1 = k)).map fun l => readLe s.mem (storeAddr f l.2) n).getD 0, 0))))) ∧
    (i.v = false → i.d = 0 → i.imm = 0 → i.ty.toNat ∈ tyArith → free n →
      exec (.vscat w i) s =
        .next (advance (lanes.foldl (fun t l => t.storeBy w l.2 n ((elems c i i.c).getD l.1 0)) s) w c)) ∧
    (free 4 → hasDup offs = false → i.imm = 0 →
      (i.v = false → i.d = 0 → i.ty = 0x12 →
        exec (.vaadd w i) s =
          .next (advance (stored fun a b => (a + b) % 2 ^ 32) w c) ∧
        exec (.vamax w i) s =
          .next (advance (stored fun a b => if lt32 a b then b else a) w c)) ∧
      (i.v = true → i.d = 0 → i.ty = 0 → s.novary f = false → ∃ fl, exec (.vfaadd w i) s =
        .next (advance (stored fun a b => (fmtFP32.add .rne a b).1) w (c.raise fl))) ∧
      (i.v = true → i.ty = 0x12 → s.novary f = false →
        ∃ t, exec (.vaaddr w i) s = .next t ∧ t.mem = updated (fun a b => (a + b) % 2 ^ 32) ∧
          t.ctx w = ({ c with pc := c.pc + 8 } : Ctx).putLanes i ((List.range 64).map fun k =>
            (((lanes.find? (fun l => l.1 = k)).map fun l => readLe s.mem (storeAddr f l.2) 4).getD 0, 0)))) ∧
    (i.v = true → i.c = 0 → i.mask = 0 → i.ty = 0 → i.imm = 0 → s.novary f = false →
      let off := (c.getS i.a).toNat
      let met := s.meetStores w [off]
      let claimed := met.storeBy w off 4 ((c.getS i.b).toNat % 2 ^ 32)
      off % 4 = 0 → off + 4 ≤ 0x300000 → s.hazard f off 4 = false →
      (readLe s.mem (storeAddr f off) 4 = 0 → exec (.sclaim w i) s = .next (advance claimed w (c.setS i.d 1))) ∧
      (readLe s.mem (storeAddr f off) 4 ≠ 0 → exec (.sclaim w i) s = .next (advance met w (c.setS i.d 0))))

/-! ## Converts, jobs and transfers, sync and system instructions -/

/-- CVT converts N = 2,048 / max(ws, wd) elements under its rounding and overflow modes, into the part of the narrower side
that PART selects; inactive elements and the rest of v_d stay; SRSEQ counts the stochastic converts (R132, R133). A CVT adds
its active counted elements to the frame's overflow counter and nothing to its crush counter, and a VQBLK adds both (R54,
R75). VQBLK puts the codes of two blocks into v_d, the rest of v_d 0, the scale bytes into s_b bits [7:0] and [15:8], and
for BD4 the offset bytes into [23:16] and [31:24]; VDQBLK decodes two blocks into the active elements of v_d, an infinity as
that infinity (R43, R134). The model's choices: VDQBLK's FP32 target and its overflow (log 25), the NaN of a block whose
scale is 0xFF (log 145), and the element and part numbers of the 6-bit formats, rounded down, with the two bits above the
last code cleared (logs 131, 147). -/
def Obligations.Converts : Prop :=
  (∀ (s : State) (w : ThreadId) (i : Insn) (st dt : EType), MayRun s w → cvtOk i = true →
    etypeOf i.ty.toNat = some st → etypeOf (cvtImm i).dfmt = some dt →
    let c := s.ctx w
    let m := cvtImm i
    let n := 2048 / max st.width dt.width
    let into := if dt.width < st.width then n * m.part else 0
    let out := if st.width < dt.width then n * m.part else 0
    let old := vecElems dt.width (c.getV i.d)
    let conv := fun (j : Nat) => convert st dt (cvtMode c w i m.rm j) m.ovm ((vecElems st.width (c.getV i.a)).getD (j + out) 0)
    ∃ t, exec (.cvt w i) s = .next t ∧ t.mem = s.mem ∧ (t.ctx w).pc = c.pc + 8 ∧ (t.ctx w).sregs = c.sregs ∧
      (t.ctx w).srseq = (if m.rm = 6 then c.srseq + 1 else c.srseq) ∧
      (∀ r, r ≠ i.d → (t.ctx w).getV r = c.getV r) ∧
      (dt.width = 6 → ((t.ctx w).getV i.d).getLsbD 2046 = false ∧ ((t.ctx w).getV i.d).getLsbD 2047 = false) ∧
      (t.frame w.frame.val).crush = (s.frame w.frame.val).crush ∧
      (t.frame w.frame.val).ovf = satAdd (s.frame w.frame.val).ovf ((List.range n).countP fun j =>
        (maskOf c i).getLsbD (j * 64 / n) && (conv j).counted) ∧
      ∀ k, k < 2048 / dt.width → (vecElems dt.width ((t.ctx w).getV i.d)).getD k 0 =
        (if into ≤ k ∧ k < into + n ∧ (maskOf c i).getLsbD ((k - into) * 64 / n) = true then
          (conv (k - into)).bits % 2 ^ dt.width else old.getD k 0)) ∧
  (∀ (s : State) (w : ThreadId) (i : Insn) (b : BFmt), MayRun s w → blockFmt (cvtImm i).dfmt = some b →
    let c := s.ctx w
    let m := cvtImm i
    (vqblkOk i = true →
      let xs := (List.range 64).map fun k =>
        if (maskOf c i).getLsbD k then fmtFP32.decode ((vecElems 32 (c.getV i.a)).getD k 0) else .fin false 0 0
      let b0 := b.encode (fun j => cvtMode c w i m.rm j) m.ovm (xs.take 32)
      let b1 := b.encode (fun j => cvtMode c w i m.rm (32 + j)) m.ovm (xs.drop 32)
      ∃ t, exec (.vqblk w i) s = .next t ∧ t.mem = s.mem ∧ (t.ctx w).pc = c.pc + 8 ∧
        (t.ctx w).getV i.d = BitVec.ofNat 2048 (packCodes b.bits (b0.codes ++ b1.codes)) ∧
        (i.b ≠ 0 → (t.ctx w).getS i.b = BitVec.ofNat 64 (b0.scale + 2 ^ 8 * b1.scale +
          (if b.offs then 2 ^ 16 * b0.offs + 2 ^ 24 * b1.offs else 0))) ∧
        (t.frame w.frame.val).crush = satAdd (s.frame w.frame.val).crush (b0.crush + b1.crush) ∧
        (t.frame w.frame.val).ovf = satAdd (s.frame w.frame.val).ovf (b0.ovf + b1.ovf)) ∧
    (vdqblkOk i = true →
      let side := (c.getS i.b).toNat
      ∃ t, exec (.vdqblk w i) s = .next t ∧ t.mem = s.mem ∧ (t.ctx w).pc = c.pc + 8 ∧ (t.ctx w).sregs = c.sregs ∧
        ∀ k, k < 64 → (vecElems 32 ((t.ctx w).getV i.d)).getD k 0 =
          (if (maskOf c i).getLsbD k then
            (match b.decode ((side >>> (8 * (k / 32))) % 256) ((side >>> (16 + 8 * (k / 32))) % 256) (k % 32)
                ((codesOf b.bits 64 (c.getV i.a).toNat).getD k 0) with
             | .inf neg => if neg then 0xFF800000 else 0x7F800000
             | v => (convFlt b.elemType fmtFP32 (cvtMode c w i m.rm k) m.ovm v).bits % 2 ^ 32)
          else (vecElems 32 (c.getV i.d)).getD k 0)))

/-- MJOB and DMA read their 64-byte descriptor and append the job, or the transfer, with the next sequence number, which s_d
receives; a full queue, or a deck queue that an engine holds (R213), stalls the context, which takes its job or transfer
once there is room; a malformed descriptor faults and appends nothing (R135, R136, R139). What is read is shown where no
COPY_IN of the step races (R434). The model's choices: that a descriptor offset which is misaligned or outside the store is
the malformed descriptor (log 26), and that a stalled context takes its entry as soon as one frees (log 181). -/
def Obligations.JobAndTransferAccepted : Prop :=
  (∀ (s : State) (w : ThreadId) (i : Insn), MayRun s w → i.v = false → i.b = 0 → i.c = 0 → i.mask = 0 → i.ty = 0 →
    i.imm = 0 →
    let c := s.ctx w
    let f := w.frame.val
    let fr := s.frame f
    let off := (c.getS i.a).toNat
    let words := wordsOf 8 (readBytes s.mem (storeAddr f off) 64)
    let j := jobFields words
    let params := if j.pblk + 256 ≤ 0x300000 then readBytes s.mem (storeAddr f j.pblk) 256 else []
    let stalls := fun (dma : Bool) => Host.Outcome.next (s.setCtx w { c with run := .stalled dma i })
    let still := NoCopyRace s ((s.regionOfFrame f).getD 0)
    (fr.deckQueue.length < 4 → fr.attOwner = none → off % 64 = 0 → off + 64 ≤ 0x300000 → still →
      fr.badJob f words (paramFields params) = false →
      ∃ t job, exec (.mjob w i) s = .next t ∧ (t.frame f).deckQueue = fr.deckQueue ++ [job] ∧
        job.seq = fr.jobSeq + 1 ∧ job.words = words ∧ job.params = params ∧ job.who = w ∧
        (t.frame f).jobSeq = fr.jobSeq + 1 ∧ (i.d ≠ 0 → (t.ctx w).getS i.d = (fr.jobSeq + 1).setWidth 64) ∧
        (t.ctx w).pc = c.pc + 8 ∧ t.mem = s.mem ∧ (t.frame f).dmaQueue = fr.dmaQueue) ∧
    (4 ≤ fr.deckQueue.length ∨ fr.attOwner.isSome = true → exec (.mjob w i) s = stalls false) ∧
    (fr.deckQueue.length < 4 → fr.attOwner = none →
      (off % 64 ≠ 0 ∨ 0x300000 < off + 64 ∨ still ∧ fr.badJob f words (paramFields params) = true) →
      exec (.mjob w i) s = .next (s.programFault w c.pc .deckMalformed off)) ∧
    (fr.dmaQueue.length < 16 → off % 64 = 0 → off + 64 ≤ 0x300000 → still → s.badXfer f words = false →
      ∃ t x, exec (.dma w i) s = .next t ∧ (t.frame f).dmaQueue = fr.dmaQueue ++ [x] ∧
        x.seq = fr.dmaSeq + 1 ∧ x.words = words ∧ x.who = w ∧
        (t.frame f).dmaSeq = fr.dmaSeq + 1 ∧ (i.d ≠ 0 → (t.ctx w).getS i.d = (fr.dmaSeq + 1).setWidth 64) ∧
        (t.ctx w).pc = c.pc + 8 ∧ t.mem = s.mem ∧ (t.frame f).deckQueue = fr.deckQueue) ∧
    (16 ≤ fr.dmaQueue.length → exec (.dma w i) s = stalls true) ∧
    (fr.dmaQueue.length < 16 → (off % 64 ≠ 0 ∨ 0x300000 < off + 64 ∨ still ∧ s.badXfer f words = true) →
      exec (.dma w i) s = .next (s.programFault w c.pc .dmaMalformed off))) ∧
  (∀ (s : State) (w : ThreadId) (i : Insn),
    let c := s.ctx w
    let fr := s.frame w.frame.val
    let taken := s.wakeOne w.frame (slotOf w)
    (c.run = .stalled false i → fr.deckQueue.length < 4 → fr.attOwner = none →
      taken = s.acceptJob w { c with run := .running } i) ∧
    (c.run = .stalled false i → 4 ≤ fr.deckQueue.length ∨ fr.attOwner.isSome = true → (taken.ctx w).run = .stalled false i) ∧
    (c.run = .stalled true i → fr.dmaQueue.length < 16 → taken = s.acceptXfer w { c with run := .running } i) ∧
    (c.run = .stalled true i → 16 ≤ fr.dmaQueue.length → (taken.ctx w).run = .stalled true i))

/-- The waits of Table 4-9 go on where their condition holds and block their own context where not; FENCES goes on at once,
each command being one whole step (log 12); SIGADD adds s_a to a signal counter of its frame, modulo 2^32. The system
instructions: RDCNT and RCCNT read a frame counter, which RCCNT clears (R76); RDFPSR, WRFPSR and WRFPCR move the status and
rounding fields, a WRFPCR value above 4 leaving a free one of the five modes (log 27); SETSEED, RDTID (R119) and RDGC. The
model's choices: WAITS compares all 64 bits, SIGADD counts modulo 2^32, and WRFPSR and WRFPCR take the low bits (log 189);
FENCEJ waits for the read-out of a job (log 59). -/
def Obligations.SyncAndSystem : Prop :=
  (∀ (s : State) (w : ThreadId) (i : Insn), MayRun s w →
    let c := s.ctx w
    let f := w.frame.val
    let fr := s.frame f
    let a : W32 := (c.getS i.a).setWidth 32
    let k := i.imm.toNat
    let goesOn := fun (t : State) => t.ctx w = { c with pc := c.pc + 8 } ∧ (∀ v, v ≠ w → t.ctx v = s.ctx v) ∧
      t.mem = s.mem ∧ (t.frame f).sig = fr.sig ∧ (t.frame f).deckQueue = fr.deckQueue
    let blocks := fun (x : SyncWait) => Host.Outcome.next (s.setCtx w { c with run := .blocked x })
    (UsesNone i → exec (.fences w i) s = .next (advance s w c)) ∧
    (UsesAI i → i.imm = 0 →
      (fr.readOut f a = true → ∃ t, exec (.fencej w i) s = .next t ∧ goesOn t) ∧
      (fr.readOut f a = false → exec (.fencej w i) s = blocks (.fencej a)) ∧
      (fr.jobsDone a = true → ∃ t, exec (.waitj w i) s = .next t ∧ goesOn t) ∧
      (fr.jobsDone a = false → exec (.waitj w i) s = blocks (.waitj a)) ∧
      (fr.xferDone a = true → ∃ t, exec (.waitd w i) s = .next t ∧ goesOn t) ∧
      (fr.xferDone a = false → exec (.waitd w i) s = blocks (.waitd a))) ∧
    (UsesAI i → ∀ h : k < 32,
      ((c.getS i.a).toNat ≤ (smGet 0 fr.sig k).toNat → ∃ t, exec (.waits w i) s = .next t ∧ goesOn t) ∧
      ((smGet 0 fr.sig k).toNat < (c.getS i.a).toNat → exec (.waits w i) s = blocks (.waits ⟨k, h⟩ (c.getS i.a))) ∧
      ∃ t, exec (.sigadd w i) s = .next t ∧ (t.ctx w).pc = c.pc + 8 ∧ t.mem = s.mem ∧
        (∀ n, smGet 0 (t.frame f).sig n = (if n = k then smGet 0 fr.sig k + a else smGet 0 fr.sig n)))) ∧
  (∀ (s : State) (w : ThreadId) (i : Insn), MayRun s w → i.c = 0 → i.mask = 0 → i.ty = 0 →
    let c := s.ctx w
    let f := w.frame.val
    let fr := s.frame f
    let gives := fun (t : State) (v : W64) => Host.Outcome.next (advance t w (c.setS i.d v))
    (i.v = true → i.a = 0 → i.b = 0 → s.novary f = false →
      (i.imm = 0 → exec (.rdcnt w i) s = gives s (fr.crush.setWidth 64)) ∧
      (i.imm = 1 → exec (.rdcnt w i) s = gives s (fr.ovf.setWidth 64)) ∧
      (i.imm = 0 → exec (.rccnt w i) s = gives (s.modFrame f fun x => { x with crush := 0 }) (fr.crush.setWidth 64)) ∧
      (i.imm = 1 → exec (.rccnt w i) s = gives (s.modFrame f fun x => { x with ovf := 0 }) (fr.ovf.setWidth 64)) ∧
      (i.imm = 0 → exec (.rdgc w i) s = gives s s.gc)) ∧
    (i.v = false → i.imm = 0 →
      (i.a = 0 → i.b = 0 → exec (.rdfpsr w i) s = gives s (c.fpsr.setWidth 64) ∧
        exec (.rdtid w i) s = gives s (BitVec.ofNat 64 (f * 64 + w.core.val * 16 + w.ctx.val))) ∧
      (i.d = 0 → i.b = 0 → exec (.wrfpsr w i) s = .next (advance s w { c with fpsr := (c.getS i.a).setWidth 5 }) ∧
        ((c.getS i.a).toNat % 8 < 5 →
          exec (.wrfpcr w i) s = .next (advance s w { c with fpcr := (c.getS i.a).setWidth 3 })) ∧
        (∃ t x, exec (.wrfpcr w i) s = .next t ∧ x < 5 ∧ t.ctx w = { c with fpcr := BitVec.ofNat 3 x, pc := c.pc + 8 } ∧
          t.mem = s.mem)) ∧
      (i.d = 0 → exec (.setseed w i) s =
        .next (advance s w { c with srseed := c.getS i.a, srseq := (c.getS i.b).setWidth 32 }))))

/-- BAR: a context that is not the last of its count waits; the last one lets every participant go on at its next
instruction and frees the barrier number, in a region whose compute has not stopped; a count other than the first arrival's
faults (R143, R145). -/
def Obligations.Barrier : Prop :=
  ∀ (s : State) (w : ThreadId) (i : Insn), MayRun s w →
    i.v = false → i.d = 0 → i.a = 0 → i.b = 0 → i.c = 0 → i.mask = 0 → i.ty = 0 → i.imm.toNat < 2048 →
    let c := s.ctx w
    let f := w.frame.val
    let n := i.imm.toNat / 16
    let b := i.imm.toNat % 16
    let cur := smGet (0, []) (s.frame f).bars b
    let arrived := cur.2 ++ [(w.core.val, w.ctx.val)]
    1 ≤ n → n ≤ 64 →
    (cur.1 ≠ 0 → cur.1 ≠ n → exec (.bar w i) s = .next (s.programFault w c.pc .barrierMismatch 0)) ∧
    ((cur.1 = 0 ∨ cur.1 = n) → arrived.length ≠ n → ∃ t, exec (.bar w i) s = .next t ∧
      (∃ x, t.ctx w = { c with run := .blocked (.bar x) } ∧ x.val = b) ∧ (∀ v, v ≠ w → t.ctx v = s.ctx v) ∧
      smGet (0, []) (t.frame f).bars b = (n, arrived) ∧ t.mem = s.mem) ∧
    ((cur.1 = 0 ∨ cur.1 = n) → arrived.length = n → arrived.Nodup → (∀ p ∈ arrived, p.1 < 4 ∧ p.2 < 16) →
      (∀ v : ThreadId, v.frame = w.frame → (v.core.val, v.ctx.val) ∈ arrived →
        (s.ctx v).pc.toNat + 8 < 0x20000 ∧ (s.ctx v).run ≠ .stopped) →
      ∃ t, exec (.bar w i) s = .next t ∧ smGet (0, []) (t.frame f).bars b = (0, []) ∧ t.mem = s.mem ∧
        ∀ v : ThreadId, t.ctx v = (if v.frame = w.frame ∧ (v.core.val, v.ctx.val) ∈ arrived then
          { s.ctx v with run := .running, pc := (s.ctx v).pc + 8 } else s.ctx v))

/-! ## Deck, chain unit, tallies and frame DMA -/

/-- The deck and chain events of a frame. TILE_JOB_START takes the job at the head of the deck queue, with its accumulator
tile formed from the frame store (R86, R98), when nothing it reads is still to be written, and the freed entry goes to a
context that stalls in an MJOB; TILE_DELIVERED runs the chain program of the oldest started job over its tile (R151), unless
an earlier one waits (R168, R171); CHAIN_PROGRAM_END ends the oldest delivered job, writing its completion record where CREN
is set (R173), or keeps a provisional one back (R176). Memory changes by that record only. The order of accumulation (R65,
R98): the first product initialises the accumulator, and every later one is added to it in order with one rounding; an
integer accumulator is the sum modulo 2^32 (R67). -/
def Obligations.DeckEvents : Prop :=
  (∀ (s : State) (f : Fin 384), f.val < s.nv.frames →
    let fr := s.frame f.val
    (∀ j rest, fr.deckQueue = j :: rest → j.att = none → fr.redo = [] → s.jobReady f.val j = true →
      NoCopyRace s (s.regionOr f.val) → ∃ t more, exec (.tileJobStart f) s = .next t ∧ (t.frame f.val).deckQueue = rest ++ more ∧ t.mem = s.mem ∧
        (t.frame f.val).inFlight = fr.inFlight ++ [{ j with acc := (jobFields j.words).accTile f.val s.mem }] ∧
        ((∀ v : ThreadId, v.frame = f → ∀ i, (s.ctx v).run ≠ .stalled false i) → fr.attTodo = [] → more = [])) ∧
    (∀ j rest, fr.deckQueue = j :: rest → s.jobReady f.val j = false → exec (.tileJobStart f) s = .next s) ∧
    (∀ j rest, fr.inFlight = j :: rest → j.att = none → fr.course = none →
      exec (.tileDelivered f) s =
        .next (((s.modFrame f.val fun x => { x with inFlight := rest }).deliverChain f.val j).wakeFrame f.val)) ∧
    (∀ j rest, fr.inFlight = j :: rest → fr.course.isSome = true → exec (.tileDelivered f) s = .next s) ∧
    (fr.delivered = [] → fr.course = none → exec (.chainProgramEnd f) s = .next s) ∧
    (∀ j rest, fr.delivered = j :: rest → fr.withholds j = true →
      exec (.chainProgramEnd f) s =
        .next (s.modFrame f.val fun x => { x with delivered := rest, heldJobs := x.heldJobs ++ [j] })) ∧
    (∀ j rest, fr.delivered = j :: rest → fr.withholds j = false → j.held = {} → s.lostGranules (s.regionOr f.val) = [] →
      let q := paramFields j.params
      ∃ t, exec (.chainProgramEnd f) s = .next t ∧ (t.frame f.val).delivered = rest ∧
        (q.cren = false → t.mem = s.mem) ∧
        (q.cren = true → t.mem = writeBytes s.mem (storeAddr f.val q.crec)
          (leBytes 8 ((jobFields j.words).tag + 2 ^ 16 * j.seq.toNat) ++ leBytes 8 j.status.toNat)))) ∧
  ((∀ (p : FVal) (ps : List FVal), dotFloat none (p :: ps) = some (ps.foldl accAdd (accFirst p))) ∧
  (∀ (a : Nat) (xs : List Int), a < 2 ^ 32 →
    dotInt a xs = (((a : Int) + xs.foldr (fun x y => x + y) 0) % (2 ^ 32 : Nat)).toNat) ∧
  (∀ (j : JobP) (f : Nat) (m : List Host.Cell) (row n : Nat), row < 64 → n < 128 →
    ((j.accTile f m).getD row []).getD n 0 =
      (if j.fed.testBit row = true ∧ n < j.ncol then j.accAt f m row n else 0)))

/-- TALLY_CONTRIBUTION puts a contribution's rows into its buffer under its contributor index, whatever the order of
arrival; a contributor index that is present already faults with TALLY_DUP on the receiving frame, with the contributing
job's context, pc, chain store index and number (R167, R179). PROVISIONAL_REEXECUTE forms the tile of every started job of
the slot again from the frame store, its weights passing through the bead registers as before (R91, R92, R177); a job that
was accepted before the slot's chunk first arrived is not executed again (R177). That the TALLY_DUP record names the
receiving frame with the context and pc of the contributing job is the model's choice (log 35). -/
def Obligations.TallyAndReexecute : Prop :=
  ∀ (s : State) (f : Fin 384), f.val < s.nv.frames →
    let fr := s.frame f.val
    (∀ n m, fr.tallyIn[n]? = some m → (∀ p ∈ (smGet {} fr.rstat m.buf).present, p.1 ≠ m.index) →
      ∃ t, exec (.tallyContribution f n) s = .next t ∧ t.mem = s.mem ∧ (t.frame f.val).tallyIn = fr.tallyIn.eraseIdx n ∧
        (∀ p, p ∈ (smGet {} (t.frame f.val).rstat m.buf).present ↔
          p = (m.index, m.rows) ∨ p ∈ (smGet {} fr.rstat m.buf).present) ∧
        (∀ b, b ≠ m.buf → smGet {} (t.frame f.val).rstat b = smGet {} fr.rstat b)) ∧
    (∀ n m k, fr.tallyIn[n]? = some m → (∃ p ∈ (smGet {} fr.rstat m.buf).present, p.1 = m.index) →
      s.regionOfFrame f.val = some k → (s.region k).faultRecs = [] →
      ∃ t, exec (.tallyContribution f n) s = .next t ∧ (t.region k).faulted = true ∧
        (t.region k).faultRecs = [faultRecord .tallyDup { m.who with frame := f } m.pc (m.idx + 2 ^ 16 * m.seq.toNat)]) ∧
    (∀ slot : Fin 128, fr.redo.contains slot.val = false → exec (.provisionalReexecute f slot) s = .next s) ∧
    (∀ slot : Fin 128, fr.redo.contains slot.val = true → fr.vslot slot.val ≠ .bad → fr.heldJobs = [] → fr.delivered = [] →
      fr.course = none → NoCopyRace s (s.regionOr f.val) →
      ∃ t, exec (.provisionalReexecute f slot) s = .next t ∧ t.mem = s.mem ∧
        (t.frame f.val).redo = fr.redo.filter (fun x => decide (x ≠ slot.val)) ∧
        (t.frame f.val).slots = fr.slots.filter (fun x => decide (x.2.verify ≠ some slot.val)) ∧
        (t.frame f.val).inFlight = fr.inFlight.map (fun j =>
          if fr.redoes slot.val j then { j with acc := (jobFields j.words).accTile f.val s.mem } else j) ∧
        (t.frame f.val).beads = (fr.inFlight.filter (fr.redoes slot.val)).foldl
          (fun b j => s.beadsFor f.val (jobFields j.words) b) fr.beads) ∧
    (∀ (k : Nat) (j : Job), fr.redoes k j = true ↔ j.carries k = true ∧ smGet 0 fr.slotSince k ≤ j.stamp)

/-- The frame DMA engine starts its transfers in acceptance order, checking every address first; a transfer that faults
writes nothing (R140, R142); none starts while a started one is held back under R112. When the oldest started transfer
completes, its writes land, and with SEN = 1 counter SCTR of frame SFRAME rises by 1 modulo 2^32 (R146); one that R112 holds
back stays. That the fault record of a transfer carries the context and pc of its DMA instruction is the model's choice (log
35). -/
def Obligations.DmaEvents : Prop :=
  ∀ (s : State) (f : Fin 384), f.val < s.nv.frames →
    let fr := s.frame f.val
    (∀ x rest n, fr.dmaQueue = x :: rest → fr.nextXfer = some x → x.att = none → s.regionOfFrame f.val = some n →
      NoCopyRace s n → (∀ y ∈ fr.dmaActive, s.holdsBack f.val y = false) →
      let p := xferFields x.words
      let ranges := s.xferReads f.val p ++ s.xferWrites f.val p
      (s.rangeFault n ranges = none → s.readFault n (s.xferReads f.val p) = none →
        s.attAreaHit x (s.xferWrites f.val p) = none →
        ∃ t more, exec (.dmaTransferStart f) s = .next t ∧ (t.frame f.val).dmaQueue = rest ++ more ∧ t.mem = s.mem ∧
          (t.frame f.val).dmaActive = fr.dmaActive ++ [{ x with writes := s.xferData f.val x.words }] ∧
          ((∀ v : ThreadId, v.frame = f → ∀ i, (s.ctx v).run ≠ .stalled true i) → more = [])) ∧
      (∀ code a, s.rangeFault n ranges = some (code, a) → x.who.frame = f → (s.region n).faultRecs = [] →
        ∃ t, exec (.dmaTransferStart f) s = .next t ∧ (t.frame f.val).dmaQueue = rest ∧ t.mem = s.mem ∧
          (t.frame f.val).dmaActive = fr.dmaActive ∧ faultRecord code x.who x.pc a ∈ (t.region n).faultRecs)) ∧
    (∀ x y, fr.nextXfer = some x → y ∈ fr.dmaActive → s.holdsBack f.val y = true →
      exec (.dmaTransferStart f) s = .next s) ∧
    (∀ x rest, fr.dmaActive = x :: rest → s.holdsBack f.val x = true → exec (.dmaTransferDone f) s = .next s) ∧
    (∀ x rest n, fr.dmaActive = x :: rest → x.att = none → s.holdsBack f.val x = false → s.regionOfFrame f.val = some n →
      s.lostGranules n = [] →
      let p := xferFields x.words
      ∃ t, exec (.dmaTransferDone f) s = .next t ∧ (t.frame f.val).dmaActive = rest ∧ t.mem = writeAll s.mem x.writes ∧
        (p.sen = true → (t.frame p.sframe).counter p.sctr = (s.frame p.sframe).counter p.sctr + 1) ∧
        (p.sen = false → ∀ k, (t.frame f.val).counter k = fr.counter k))

/-! ## Attention engines and sampler -/

/-- An attention descriptor starts when a step runs, its wait counter has reached WVAL, earlier descriptors that share
frames have completed and no sampler run holds its frames; its run then holds the row groups that Table 7-2's entries give,
and the frames on which it will work (R212, R213); a malformed table entry faults instead (R243), and it does nothing
before. When nothing of it is left to do it is done, and the completion counter of every frame of its completion rectangle
rises by 1. A split group merges its parts in part order on part 0's frame, and only once all have arrived (R232). The
model's choices: the frames on which row groups and parts run (logs 34, 158), that a start waits for a sampler run on its
frames (log 159), the frame that a table fault names (log 35), and the steps of a ring (logs 63, 203). -/
def Obligations.AttentionEvents : Prop :=
  ∀ (s : State) (rid : Fin 4) (n : Fin 1024) (w : List W64), s.attDesc rid.val n.val = some w →
    let a := attFields w
    let r := s.region rid.val
    let table := s.attTable rid.val a
    let gangs := a.gangs rid.val n.val table (s.fedEntry rid.val a table)
    (r.run = .stepping → r.attRun n.val = none → a.wval ≤ ((s.frame a.wframe).counter a.wctr).toNat →
      s.attOrderOk rid.val n.val w = true → (∀ f ∈ attFramesOf s.nv w, (s.frame f).samplerHeld = false) → NoCopyRace s rid.val →
      (s.tableFault rid.val a = none →
        ∃ t run, exec (.attentionDescriptorStart rid n) s = .next t ∧ t.mem = s.mem ∧
          (t.region rid.val).attRun n.val = some run ∧ run.phase = .running ∧
          run.groups = gangs.flatMap (fun g => g.flatMap fun i => i) ∧
          (a.mode ≠ 2 → ∀ f ∈ runFrames s.nv w a gangs, (t.frame f).attOwner = some (rid.val, n.val))) ∧
      (∀ code x, s.tableFault rid.val a = some (code, x) → exec (.attentionDescriptorStart rid n) s =
        .next (s.engineFault rid.val n.val ((attFramesOf s.nv w).headD 0) code x))) ∧
    (((s.frame a.wframe).counter a.wctr).toNat < a.wval → exec (.attentionDescriptorStart rid n) s = .next s) ∧
    (∀ run, r.attRun n.val = some run → run.phase = .running → run.todo = 0 → a.ring = false →
      ∃ t, exec (.attentionDescriptorDone rid n) s = .next t ∧ t.mem = s.mem ∧
        ((t.region rid.val).attRun n.val).map (·.phase) = some .done ∧
        (∀ f ∈ rectFrames s.nv a.dfirst a.dlast, (t.frame f).counter a.dctr = (s.frame f).counter a.dctr + 1)) ∧
    (∀ run g, r.attRun n.val = some run → run.phase = .running → run.todo ≠ 0 →
      exec (.attentionDescriptorDone rid n) s = .next s ∧
      (run.groups[g]? = none → exec (.splitMerge rid n g) s = .next s)) ∧
    (∀ run k g p0 rest, r.attRun n.val = some run → run.groups[k]? = some g → a.split ≠ 1 →
      (List.range a.split).map (fun i => run.parts.find? fun p => decide (p.group = { g with part := i })) =
        (p0 :: rest).map some →
      exec (.splitMerge rid n k) s = .next
        ((s.modRegion rid.val fun r => { r with att := r.att.map fun x =>
            if x.desc = n.val then { x with parts := x.parts.filter fun p => decide ({ p.group with part := 0 } ≠ g) } else x }).attOutput
          p0.home (rest.foldl mergeParts p0))) ∧
    (∀ run i, r.attRun n.val = some run → a.ring = true → i ≠ 0 →
      s.ringMayStart rid.val n.val i a run (s.ringMembers rid.val a.rgroup).length (s.shardBytes rid.val a)
        (attFramesOf s.nv w) = true →
      ∃ t, exec (.ringStepStart rid n i) s = .next t ∧ t.mem = s.mem ∧
        ((t.region rid.val).attRun n.val).map (·.ringStep) = some (i + 1)) ∧
    (∀ run i, r.attRun n.val = some run → run.ringStep ≠ i → exec (.ringStepStart rid n i) s = .next s)

/-- A sampler descriptor starts when a step runs, its counter has reached WVAL, its frames are free and nothing accepted
before is still to be written or read in their attention areas (R111, R112, R213); its rows and what it reads of the
requests' records are checked first (R324, R488). It then holds its frames, and each row's logits are staged in the
attention area of a frame of its rectangles, inside its 512 KiB (R211, R325). When it is done its chosen tokens are in
memory, its frames are free again, and the completion counter of every frame of its completion rectangle rises by 1. The
model's choices: that a sampler run waits until no descriptor holds its frames (log 159), that descriptor 0 runs once a
step, and the engine's record of a row fault (log 193); where the area lies and which frame takes which row is free (log
38). -/
def Obligations.SamplerEvents : Prop :=
  ∀ (s : State) (rid : Fin 4) (slot : Fin 2) (w : List W64), s.sampDesc rid.val slot.val = some w →
    let p := sampFields w
    let r := s.region rid.val
    let run := r.samp slot.val
    let items := if slot = 0 then s.mainItems rid.val else s.draftItems rid.val (run.starts + 1)
    let rows := items.flatMap fun x => (List.range x.n).map fun j => x.row + j
    let frames := attFramesOf s.nv (sampRects w)
    (r.run = .stepping → run.phase = .idle → p.wval ≤ ((s.frame p.wframe).counter p.wctr).toNat →
      (∀ f ∈ frames, (s.frame f).attOwner = none) → s.stageReady w rows = true →
      (s.rowFault rid.val slot.val p items = none → NoCopyRace s rid.val → s.lostGranules rid.val = [] →
        ∃ t, exec (.samplerRunStart rid slot) s = .next t ∧
          t.mem = writeAll s.mem (rows.map fun k =>
            (stagePlace s.nv w k, readBytes s.mem (p.logaddr + k * p.vocab * 4) (p.vocab * 4))) ∧
          (∀ f ∈ frames, (t.frame f).attOwner = some (rid.val, 1024 + slot.val)) ∧
          ((t.region rid.val).samp slot.val).phase = .running ∧ ((t.region rid.val).samp slot.val).starts = run.starts + 1) ∧
      (s.rowFault rid.val slot.val p items ≠ none →
        ∃ t, exec (.samplerRunStart rid slot) s = .next t ∧ t.mem = s.mem ∧ (t.region rid.val).faulted = true ∧
          (t.region rid.val).samp slot.val = run)) ∧
    (∀ g ∈ s.lostGranules rid.val, (∃ x ∈ items, ∃ y ∈ s.recordReads rid.val slot.val x.ridx, rangesMeet y g = true) →
      s.rowFault rid.val slot.val p items ≠ none) ∧
    (frames ≠ [] → ∀ k, ∃ f ∈ frames, ∃ o, stagePlace s.nv w k = storeAddr f o ∧
      samplerBase w ≤ o ∧ o + p.vocab * 4 ≤ samplerBase w + 0x80000 ∧ samplerBase w + 0x80000 ≤ 0x300000) ∧
    (s.stageReady w rows = false → exec (.samplerRunStart rid slot) s = .next s) ∧
    (r.run ≠ .stepping → exec (.samplerRunStart rid slot) s = .next s) ∧
    (run.phase ≠ .running → exec (.samplerRunDone rid slot) s = .next s) ∧
    (run.phase = .running → s.lostGranules rid.val = [] →
      ∃ t, exec (.samplerRunDone rid slot) s = .next t ∧ ((t.region rid.val).samp slot.val).phase = .done ∧
        t.mem = writeAll s.mem (run.writes.map fun x => (p.tokaddr + 4 * x.1, leBytes 4 x.2.toNat)) ∧
        (∀ f ∈ rectFrames s.nv p.dfirst p.dlast, (t.frame f).counter p.dctr = (s.frame f).counter p.dctr + 1))

/-! ## The mesh and detected errors -/

/-- MESH_PACKET: a packet all of whose routers belong to its region is delivered; the first router of another region
discards it, and the tagged region's requests end at its next boundary (R193); the halves that it reached are awake (R467);
a column that the grade lacks is the fault absentFrame. MESH_FLIT_ERROR: a good replay is counted, a bad one has the link
retrained (R487). FRAME_PARITY_ERROR stops the region with FRAME_ERROR and puts the position up for its test (R489).
GDDR_MIGRATION_DONE: the spare's copy is complete, and the switch waits for a boundary (R494). PACKAGE_LASTING_FAULT of an
LPDDR6 package loses it, and its region is to be disabled (R495); of a GDDR7 package it starts the copy to the spare where
that is idle (R494), and loses the package where it is not; one of the spare loses it and the package that it serves or is
to serve. At order 1 after the copy the controller switches and GDDR_SPARED is posted. Order 1: a retirement takes a
position out of the map, is recorded (R498), and brings in the spare of its row-half, the frames farther out moving one
outward with segments from another frame of the region (R24, R31, R490); with no spare left its logical frame loses its
place and its region is to be disabled (R32). A spare row is brought in while there is one; without, a frame's position is
retired and another array goes on degraded (R492). A position that passes its test is counted, one that fails is retired
(R489). A word that cannot be copied is zero, and the region's requests end (R491). A change of the map raises SYS_MAPGEN by
2 (R506). The model's choices: the spare's lost granules (log 180), the package that is lost with the spare (log 37), the
frame the segments come from (log 213), and absentFrame (log 134). -/
def Obligations.MeshAndFrameFaults : Prop :=
  (∀ (s : State), s.isReady = true →
    (∀ p : Packet, p.srcCol < s.nv.cols → p.dstCol < s.nv.cols → ∀ path, s.route p = some path →
      ((∀ x ∈ path, s.regionAt x = some p.tag.val) →
        ∃ t, exec (.meshPacket p) s = .next t ∧ t.out = s.out ++ [.meshDeliver p] ∧ t.mem = s.mem ∧
          t.regions = s.regions ∧ t.frames = s.frames ∧ t.mesh = s.mesh ∧ ∀ x ∈ path, (t.half x.half).active = true) ∧
      (∀ pre x post, path = pre ++ x :: post → (∀ y ∈ pre, s.regionAt y = some p.tag.val) → s.regionAt x ≠ some p.tag.val →
        ∃ t, exec (.meshPacket p) s = .next t ∧ (t.half x.half).active = true ∧ ∀ y ∈ pre, (t.half y.half).active = true) ∧
      ((∃ x ∈ path, s.regionAt x ≠ some p.tag.val) → (s.region p.tag.val).live = true →
        ∃ t, exec (.meshPacket p) s = .next t ∧ t.mesh.discards = s.mesh.discards + 1 ∧ t.mem = s.mem ∧
          (t.region p.tag.val).abortAll = true ∧ t.frames = s.frames)) ∧
    (∀ p : Packet, s.nv.cols ≤ p.srcCol ∨ s.nv.cols ≤ p.dstCol → exec (.meshPacket p) s = .fault .absentFrame) ∧
    (∀ a b l, exec (.meshFlitError a b true l) s =
      .next { s with sys := { s.sys with ceCount := satAdd s.sys.ceCount 1 } }) ∧
    (∀ a b l, (∀ x ∈ s.map.retrain, ¬(x.1 = a ∧ x.2.1 = b)) → exec (.meshFlitError a b false l) s =
      .next { s with map := { s.map with retrain := s.map.retrain ++ [(a, b, l)] } })) ∧
  (∀ (s : State), s.isReady = true →
    (∀ (f : Fin 384) (p : Pos) (n : Nat), f.val < s.nv.frames → s.positionOf f.val = some p → s.regionOfFrame f.val = some n →
      (s.region n).faultRecs = [] →
      ∃ t r, exec (.frameParityError f) s = .next t ∧ p ∈ t.map.tests ∧ (t.region n).faultRecs = [r] ∧
        fld r 7 0 = 0x1C ∧ fld r 16 8 = f.val ∧ (t.region n).faulted = true ∧ t.mem = s.mem) ∧
    (∀ f : Fin 384, s.nv.frames ≤ f.val → exec (.frameParityError f) s = .fault .absentFrame) ∧
    ((s.t1 24).state = 1 → s.mc.copyDone = false → s.mc.serves.toNat < 24 →
      ∃ t, exec .gddrMigrationDone s = .next t ∧ t.mc.copyDone = true ∧ (t.t1 24).lost = (s.t1 s.mc.serves.toNat).lost ∧
        t.mem = s.mem ∧ t.regions = s.regions) ∧
    ((s.t1 24).state ≠ 1 → exec .gddrMigrationDone s = .next s) ∧
    (∀ c : Fin 25, c.val < 12 → (s.t2 c.val).state ≠ 3 →
      ∃ t, exec (.packageLastingFault true c) s = .next t ∧ (t.t2 c.val).state = 3 ∧
        (∀ n, (List.range 4).find? (fun k => (s.region k).holdsPackage true c.val) = some n → (t.region n).disableDue = true)) ∧
    (∀ c : Fin 25, c.val < 24 → (s.t1 c.val).state = 0 →
      let holds := fun (n : Nat) => (List.range 4).find? (fun k => (s.region k).holdsPackage false c.val) = some n
      ((s.t1 24).state = 0 → ∃ t, exec (.packageLastingFault false c) s = .next t ∧ (t.t1 c.val).state = 1 ∧
        (t.t1 24).state = 1 ∧ t.mc.serves.toNat = c.val ∧ t.mc.copyDone = false ∧ t.regions = s.regions ∧ t.mem = s.mem ∧
        (s.nv.history.length < 1024 → t.nv.history = s.nv.history ++ [(.package false c.val, s.gc)])) ∧
      ((s.t1 24).state ≠ 0 → ∃ t, exec (.packageLastingFault false c) s = .next t ∧ (t.t1 c.val).state = 3 ∧
        t.t1 24 = s.t1 24 ∧ t.mc.serves = s.mc.serves ∧ ∀ n, holds n → (t.region n).disableDue = true)) ∧
    ((s.t1 24).state = 0 → ∃ t, exec (.packageLastingFault false 24) s = .next t ∧ (t.t1 24).state = 3 ∧
      ∀ c, c < 24 → t.t1 c = s.t1 c) ∧
    ((s.t1 24).state = 1 ∨ (s.t1 24).state = 2 → s.mc.serves.toNat < 24 →
      ∃ t, exec (.packageLastingFault false 24) s = .next t ∧ (t.t1 24).state = 3 ∧ (t.t1 s.mc.serves.toNat).state = 3 ∧
        t.mc.copyDone = false ∧ (∀ c, c < 24 → c ≠ s.mc.serves.toNat → t.t1 c = s.t1 c) ∧
        ∀ n, (List.range 4).find? (fun k => (s.region k).holdsPackage false s.mc.serves.toNat) = some n →
          (t.region n).disableDue = true)) ∧
  (∀ (s : State) (n : Nat) (env : BoundaryEnv),
    (s.mc.copyDone = false → s.switchSpare = s) ∧
    (s.mc.copyDone = true → s.mc.serves.toNat < 24 →
      let c := s.mc.serves.toNat
      (∃ u : State, s.switchSpare = u.postErrAmong [u.packageRegion false c] 0x0105 c 0 ∧ u.mem = s.mem ∧ u.regions = s.regions ∧
        u.mc.copyDone = false ∧ u.t1 c = { s.t1 c with state := 2, lost := (s.t1 24).lost.filter ((s.t1 c).lost.contains ·) } ∧
        u.t1 24 = { s.t1 24 with state := 2, lost := [] } ∧ ∀ k, k < 24 → k ≠ c → u.t1 k = s.t1 k) ∧
      (s.testsDue n = [] → (∀ x ∈ s.map.rowsDue, s.unitHere n x.1 = false) → s.map.retrain = [] →
        ((s.orderOne n env).t1 c).state = 2 ∧ ((s.orderOne n env).t1 24).state = 2 ∧ (s.orderOne n env).mc.copyDone = false))) ∧
  (∀ (s : State) (p : Pos), s.usable p = true →
    let t := s.retire1 p
    (t.map.retired = s.map.retired ++ [p] ∧ t.mem = s.mem ∧
      (s.nv.history.length < 1024 → t.nv.history = s.nv.history ++ [(.frame p, s.gc)])) ∧
    (∀ f, s.logicalAt p = some f → s.spareOf p.half p.prow.val = none →
      t.positionOf f = none ∧ (∀ g, g < s.nv.frames → g ≠ f → t.positionOf g = s.positionOf g) ∧
      (∀ k, s.regionOfFrame f = some k → (t.region k).disableDue = true)) ∧
    (∀ sp, s.spareOf p.half p.prow.val = some sp → t.map.lostCols = s.map.lostCols ∧
      ∀ g y, g < s.nv.frames → s.positionOf g = some y →
        (y.half ≠ p.half ∨ y.prow ≠ p.prow ∨ y.pcol < p.pcol → t.positionOf g = some y) ∧
        (y.half = p.half → y.prow = p.prow → p.pcol ≤ y.pcol → ∃ z, t.positionOf g = some z ∧ y.pcol < z.pcol)) ∧
    (∀ g, g < s.nv.frames → s.positionOf g ≠ t.positionOf g → (t.positionOf g).isSome = true →
      let other := s.frame (t.segmentFrame g)
      (t.frame g).istore = other.istore ∧ (t.frame g).cstore = other.cstore ∧ (t.frame g).crush = (s.frame g).crush ∧
        (t.frame g).ovf = (s.frame g).ovf)) ∧
  (∀ (s : State) (u : SramUnit) (row : Nat),
    (s.rowsUsed u < spareRows u → (s.spareRow u row).map.rows = s.map.rows ++ [(u, row)] ∧
      (s.spareRow u row).map.retired = s.map.retired) ∧
    (spareRows u ≤ s.rowsUsed u → (unitFrame u).isSome = true → s.spareRow u row = s ∧
      ∀ due p, (u, row) ∈ due → s.unitPos u = some p → p ∈ s.exhausted due) ∧
    (spareRows u ≤ s.rowsUsed u → (unitFrame u).isSome = false → (s.spareRow u row).sys.extraDegraded = true ∧
      (s.spareRow u row).map = s.map)) ∧
  (∀ (s : State) (n : Nat) (p : Pos) (env : BoundaryEnv), s.testsDue n = [p] → (∀ x ∈ s.map.rowsDue, s.unitHere n x.1 = false) →
    let t := s.mendFrames n env
    (env.failed.contains p = false → t.map.tests = s.map.tests.filter (fun y => decide (y ≠ p)) ∧
      t.map.retired = s.map.retired ∧ t.sys.ceCount = satAdd s.sys.ceCount 1) ∧
    (env.failed.contains p = true → s.usable p = true → t.map.retired = s.map.retired ++ [p])) ∧
  (∀ (s t : State) (n : Nat) (env : BoundaryEnv),
    let u := s.loseWords t env
    (∀ f k x, f < s.nv.frames → s.positionOf f ≠ t.positionOf f → (t.positionOf f).isSome = true → x ∈ env.lostWords →
      x.1.val = f → x.2 + 8 ≤ storeSize → t.regionOfFrame f = some k → (u.region k).abortAll = true ∧
        ∀ a, storeAddr f (x.2 / 8 * 8) ≤ a → a < storeAddr f (x.2 / 8 * 8) + 8 → memGet u.mem a = 0) ∧
    (∀ a, (∀ x ∈ env.lostWords, a < storeAddr x.1.val (x.2 / 8 * 8) ∨ storeAddr x.1.val (x.2 / 8 * 8) + 8 ≤ a) →
      memGet u.mem a = memGet t.mem a) ∧
    ((s.orderOne n env).sys.mapgen =
      if (s.orderOne n env).map.retired = s.map.retired then s.sys.mapgen else s.sys.mapgen + 2) ∧
    ((s.region n).disableDue = true → ((s.applyDue n).region n).disabled = true ∧
      ((s.applyDue n).region n).abortAll = true ∧ ((s.applyDue n).region n).disableDue = false))

/-- Memory and SRAM errors (R486 to R488, R492): a retry or re-read that succeeds only counts; a granule whose re-read fails
is marked lost in its controller and reads as zeros; an SRAM word that needs correction again has its row replaced at the
next boundary, one that is lost in a frame store is zero, and in the request table ends its request. A lost word or granule
read by a step faults its region, one that COPY_OUT reads posts MEM_LOST, and one that a walk reads makes the walk invalid
(R486); a controller's list that fills up makes its package lasting-faulty. An error in a walk cache drops the entry and,
with the walk repeated, is counted as transient (log 132); a lost word of an instruction or chain store is zero (R492); a
copy to the spare package that cannot read a granule marks it lost there (R494). The model's choices: that a lost word of a
frame store reads zero at once and one of the request table ends its request (log 75), that a lost granule reads zero from
the event on (log 76), and the stop absentFrame (log 134). -/
def Obligations.DataErrors : Prop :=
  ∀ (s : State), s.isReady = true →
    (∀ (tier2 : Bool) (c : Fin 25) (off addr : Nat) (rd : Reader), (tier2 = true → c.val < 12) →
      ∃ t, exec (.memoryReadError tier2 c off addr rd true) s = .next t ∧
        t.sys.ceCount = satAdd s.sys.ceCount 1 ∧ t.mem = s.mem ∧
        (tier2 = false → (t.t1 c.val).retry = satAdd (s.t1 c.val).retry 1 ∧ (t.t1 c.val).lost = (s.t1 c.val).lost)) ∧
    (∀ (c : Fin 25) (off addr ridx : Nat), c.val < 24 → (s.t1 c.val).lost.length < 1024 → (s.req ridx).state ≠ .free →
      off / 256 * 256 ∉ (s.t1 c.val).lost →
      ∃ t, exec (.memoryReadError false c off addr (.handoff ridx) false) s = .next t ∧
        (t.t1 c.val).lost = (s.t1 c.val).lost ++ [off / 256 * 256] ∧ (t.req ridx).failed = true ∧
        (∀ n a, s.granuleAt false c.val (off / 256 * 256) = some (n, a) →
          ∀ x, memGet t.mem x = (if a ≤ x ∧ x < a + 256 then 0 else memGet s.mem x))) ∧
    (∀ (c : Fin 25) (off addr : Nat) (n : Fin 4), c.val < 24 → (s.t1 c.val).lost.length < 1024 →
      off / 256 * 256 ∉ (s.t1 c.val).lost → (s.region n.val).faultRecs = [] →
      ∃ t r, exec (.memoryReadError false c off addr (.step n) false) s = .next t ∧
        (t.t1 c.val).lost = (s.t1 c.val).lost ++ [off / 256 * 256] ∧ (t.region n.val).faultRecs = [r] ∧ fld r 7 0 = 0x1B ∧
        fld r 111 64 = addr % 2 ^ 48 ∧ (t.region n.val).faulted = true) ∧
    (∀ (c : Fin 25) (off addr : Nat) (n : Fin 4), c.val < 24 → (s.t1 c.val).lost.length < 1023 →
      off / 256 * 256 ∉ (s.t1 c.val).lost →
      ∃ u : State, exec (.memoryReadError false c off addr (.copyOut n) false) s =
          .next (u.postErrFor n.val 0x0104 c.val addr).raiseAlert ∧
        (u.t1 c.val).lost = (s.t1 c.val).lost ++ [off / 256 * 256] ∧ u.regions = s.regions ∧ u.reqs = s.reqs) ∧
    (∀ (c : Fin 25) (off addr i : Nat), c.val < 24 → (s.t1 c.val).lost.length < 1024 →
      off / 256 * 256 ∉ (s.t1 c.val).lost → (s.req i).state ≠ .free → (s.req i).state ≠ .ended →
      ∃ t, exec (.memoryReadError false c off addr (.walk i) false) s = .next t ∧
        (t.t1 c.val).lost = (s.t1 c.val).lost ++ [off / 256 * 256] ∧ (t.req i).walkInvalid = true) ∧
    (∀ (c : Fin 25) (off addr : Nat) (n : Fin 4), c.val < 12 → (s.t2 c.val).lost.length < 1024 →
      off / 1024 * 1024 ∉ (s.t2 c.val).lost → (s.region n.val).faultRecs = [] →
      ∃ t r, exec (.memoryReadError true c off addr (.step n) false) s = .next t ∧
        (t.t2 c.val).lost = (s.t2 c.val).lost ++ [off / 1024 * 1024] ∧ (t.region n.val).faultRecs = [r] ∧ fld r 7 0 = 0x1B ∧
        fld r 111 64 = addr % 2 ^ 48 ∧ ((s.t2 c.val).lost.length = 1023 → (t.t2 c.val).state = 3) ∧
        (∀ k a, s.granuleAt true c.val (off / 1024 * 1024) = some (k, a) →
          ∀ x, memGet t.mem x = (if a ≤ x ∧ x < a + 1024 then 0 else memGet s.mem x))) ∧
    (∀ (u : SramUnit) (row addr : Nat) (rd : Reader), unitExists s.nv u = true → hasRows u = true →
      exec (.sramError u row addr rd .corrected) s =
        .next { s with sys := { s.sys with ceCount := satAdd s.sys.ceCount 1 } } ∧
      ∃ t, exec (.sramError u row addr rd .lastingCorrectable) s = .next t ∧ (u, row) ∈ t.map.rowsDue ∧ t.mem = s.mem) ∧
    (∀ (f : Fin 384) (bank : Fin 32) (row addr n : Nat), f.val < s.nv.frames → n < 4 → (s.region n).faultRecs = [] →
      storeAddr f.val 0 ≤ addr → addr < storeAddr f.val 0x300000 →
      ∃ t r, exec (.sramError (.frameStore f bank) row addr (.step (Fin.ofNat 4 n)) .lastingLost) s = .next t ∧
        (∀ x, memGet t.mem x = (if addr / 8 * 8 ≤ x ∧ x < addr / 8 * 8 + 8 then 0 else memGet s.mem x)) ∧
        (.frameStore f bank, row) ∈ t.map.rowsDue ∧ (t.region n).faultRecs = [r] ∧ fld r 7 0 = 0x1B ∧
        fld r 111 64 = addr % 2 ^ 48) ∧
    (∀ (f : Fin 384) (row addr : Nat) (n : Fin 4), f.val < s.nv.frames → (s.region n.val).faultRecs = [] →
      ∃ t r u q, exec (.sramError (.instrStore f) row addr (.step n) .lastingLost) s = .next t ∧
        exec (.sramError (.chainStore f) row addr (.step n) .lastingLost) s = .next u ∧
        (∀ k, smGet 0 (t.frame f.val).istore k = (if k = addr / 8 then 0 else smGet 0 (s.frame f.val).istore k)) ∧
        (∀ k, smGet 0 (u.frame f.val).cstore k = (if k = addr / 8 then 0 else smGet 0 (s.frame f.val).cstore k)) ∧
        (t.region n.val).faultRecs = [r] ∧ fld r 7 0 = 0x1B ∧ (u.region n.val).faultRecs = [q] ∧ fld q 7 0 = 0x1B ∧
        t.mem = s.mem ∧ u.mem = s.mem) ∧
    (∀ (row addr : Nat) (rd : Reader) (o : RetryOutcome),
      let counted := { s with sys := { s.sys with ceCount := satAdd s.sys.ceCount 1 } }
      exec (.sramError (.walkCache .west) row addr rd o) s =
        .next { counted with att := { s.att with wcW := s.att.wcW.eraseIdx row } } ∧
      exec (.sramError (.walkCache .east) row addr rd o) s =
        .next { counted with att := { s.att with wcE := s.att.wcE.eraseIdx row } }) ∧
    (∀ (c : Fin 25) (off addr : Nat), c.val < 24 → (s.t1 c.val).lost.length < 1024 → off / 256 * 256 ∉ (s.t1 c.val).lost →
      s.nv.history.length < 1024 →
      ∃ t, exec (.memoryReadError false c off addr .migration false) s = .next t ∧
        (t.t1 c.val).lost = (s.t1 c.val).lost ++ [off / 256 * 256] ∧
        (.granule false c.val (off / 256 * 256), s.gc) ∈ t.nv.history ∧ t.frames = s.frames ∧ t.reqs = s.reqs) ∧
    (∀ (i row addr : Nat) (rd : Reader), (s.req i).state ≠ .free → (s.req i).state ≠ .ended → ∃ t,
      exec (.sramError (.requestTable i) row addr rd .lastingLost) s = .next t ∧ (t.req i).abort = true ∧ t.mem = s.mem) ∧
    (∀ (f : Fin 384) (row addr : Nat) (rd : Reader) (o : RetryOutcome), s.nv.frames ≤ f.val →
      exec (.sramError (.instrStore f) row addr rd o) s = .fault .absentFrame)

/-! ## Zhevmal links and the global counter -/

/-- ZL ports (R357, R359, R453, R470, R487, R493). Before FAB_COORD has been written nothing trains. A port that trains
sends the module's coordinate and rack, with its MAC where a fabric key is set. A port whose peer is the one that Table 12-1
requires comes up with the lanes it has left, authenticated where a fabric key is set and the peer's MAC verifies; a wrong
peer, or a MAC that does not verify, is held down. A flit that fails its CRC is counted and its replay requested; a good one
wakes the module unless it is the management lane's. A lane that fails is taken out of use, four lanes staying while one is
bad, three with two, which degrades the module. GC_SYNC_EXCHANGE measures the offset as the difference of the two
directions' stamps, in half nanoseconds. Once the one jump has been made the counter only keeps its value or rises by one
tick (R415, R417); the time root measures nothing. The model's choices: the order of the MAC's fields (log 92), the rack
number in the training message and its comparison (log 168), when the counter jumps (log 78), and that a lane is lost with
the second bad one (log 91). -/
def Obligations.LinkPorts : Prop :=
  (∀ (s : State) (k : Fin 12) (t : ZlTraining), s.isReady = true →
    let key := s.sec.fabricKey
    let theirs := fun (kk : List Byte) =>
      aesCmac kk (leBytes 2 t.peer.toNat ++ leBytes 2 s.self.toNat ++ t.nonces.take 16 ++ t.nonces.drop 16)
    let ours := fun (kk : List Byte) =>
      aesCmac kk (leBytes 2 s.self.toNat ++ leBytes 2 t.peer.toNat ++ t.nonces.drop 16 ++ t.nonces.take 16)
    let right := s.portPeer k.val = some (t.peer, t.peerPort.toNat) ∧ (k.val ∈ [5, 7, 11] ∨ t.rack.toNat = s.rackNo)
    (s.fab.coordSet = false → exec (.zlLinkTraining k t) s = .next s) ∧
    (s.fab.coordSet = true → right → (key = none ∨ ∃ kk, key = some kk ∧ theirs kk = t.mac) → t.failedLanes = [] →
      (s.port k.val).bad.length ≤ 2 →
      ∃ u, exec (.zlLinkTraining k t) s = .next u ∧ (u.port k.val).up = true ∧ (u.port k.val).held = false ∧
        (u.port k.val).lanes = (if (s.port k.val).bad.length ≤ 1 then 4 else 3) ∧ (u.port k.val).auth = key.isSome ∧
        (u.port k.val).peer = t.peer ∧ (u.port k.val).peerPort = t.peerPort ∧ (∀ j, j ≠ k.val → u.port j = s.port j) ∧
        u.mem = s.mem ∧ (key = none → u.out = s.out ++ [.training k.val s.self s.rackNo [] []]) ∧
        (∀ kk, key = some kk → u.out = s.out ++ [.training k.val s.self s.rackNo (t.nonces.drop 16) (ours kk)])) ∧
    (s.fab.coordSet = true → ¬right ∨ (∃ kk, key = some kk ∧ theirs kk ≠ t.mac) →
      ∃ u, exec (.zlLinkTraining k t) s = .next u ∧ (u.port k.val).up = false ∧ (u.port k.val).held = true ∧
        (u.port k.val).lanes = 0 ∧ (∀ j, j ≠ k.val → u.port j = s.port j)) ∧
    ((s.port k.val).up = true →
      (∀ lane, ∃ u, exec (.zlFlit k lane false) s = .next u ∧ u.out = s.out ++ [.flitReplay k.val] ∧
        (u.port k.val).replay = satAdd (s.port k.val).replay 1 ∧ u.mem = s.mem) ∧
      (∀ lane, (s.port k.val).retrying = false →
        exec (.zlFlit k lane true) s = .next (if lane = .management then s else s.wakeUp)) ∧
      (∀ lane, (s.port k.val).retrying = true → ∃ u, exec (.zlFlit k lane true) s = .next u ∧
        (u.port k.val).retrying = false ∧ u.sys.ceCount = satAdd s.sys.ceCount 1) ∧
      (∃ u, exec (.zlReplayFailure k []) s = .next u ∧ (u.port k.val).bad = (s.port k.val).bad ∧ (u.port k.val).up = true) ∧
      (∀ l : Fin 5, l.val ∉ (s.port k.val).bad →
        ∃ u, exec (.zlReplayFailure k [l]) s = .next u ∧ (u.port k.val).bad = (s.port k.val).bad ++ [l.val] ∧
          (u.port k.val).lanes = (match (s.port k.val).bad.length with | 0 => 4 | 1 => 3 | _ => 0) ∧
          ((u.port k.val).up = true ↔ (s.port k.val).bad.length ≤ 1) ∧
          (1 ≤ (s.port k.val).bad.length → u.isDegraded = true))) ∧
    ((s.port k.val).up = false → (∀ lane ok, exec (.zlFlit k lane ok) s = .next s) ∧
      ∀ ls, exec (.zlReplayFailure k ls) s = .next s)) ∧
  (∀ (s : State) (a b c d : W64),
    (s.isRoot = true → exec (.gcSyncExchange a b c d) s = .next s) ∧
    (s.isRoot = false → s.isReady = true → (s.port s.parentPort).up = true →
      ∃ t, exec (.gcSyncExchange a b c d) s = .next t ∧ t.fab.offset = (b - a).toInt - (d - c).toInt ∧
        (s.fab.jumped = true → t.gc = s.gc ∨ t.gc = s.gc + 1) ∧ t.mem = s.mem))

/-! ## Collectives -/

/-- COLLECTIVE_START begins the lowest ordinal of the step that has not started, once it may start (R385): with agreed
lengths and addresses in the region, its contribution is read from memory, it joins those in flight, and it is announced; a
length that disagrees halts its group with COLL_SIZE (R374). Where nothing may start, nothing happens. The model's choices:
the contribution, the map and the counts are read once, at the start (log 85), address faults come before COLL_SIZE (log
87), and the further size checks and the halt (log 195). -/
def Obligations.CollectiveStarts : Prop :=
  ∀ (s : State) (rid : Fin 4) (lengths : List Nat),
    let n := rid.val
    (s.nextColl n = none → exec (.collectiveStart rid lengths) s = .next s) ∧
    (∀ x, s.nextColl n = some x → s.collMayStart n x = false → exec (.collectiveStart rid lengths) s = .next s) ∧
    (∀ x g, s.nextColl n = some x → s.collMayStart n x = true → (s.region n).group? x.2.1.gid = some g →
      s.needsDownPort g.d = false →
      let p := x.2.1
      let v := s.collEnv p g
      let data := decide (p.op ≠ 4)
      let entry := if p.op = 6 then 2 else if p.op = 8 then 4 else 0
      let source := fun (h : Nat) => rowRanges (p.src.getD h 0) p.srow p.snrows p.sstride
      let reads := if data then v.halves.flatMap source ++ [(p.mapaddr, entry * v.n)] else []
      let writes := if data then (v.halves.flatMap fun h => rowRanges (p.dst.getD h 0) p.drow p.dnrows p.dstride) ++
        (if p.op = 8 then [(p.rcvaddr, 4 * v.n)] else []) else []
      let marked := s.modRegion n fun r => { r with started := r.started ++ [p.ordinal] }
      marked.rangeFault n writes = none → marked.readFault n reads = none → NoCopyRace s n →
      let c : Coll := {
        ordinal := p.ordinal, desc := x.1, gid := p.gid, length := p.length,
        own := v.halves.map fun h => if data then (source h).flatMap fun y => readBytes s.mem y.1 y.2 else [],
        drizzle := g.d.drizzle && decide (p.length ≤ 48) && !([5, 6, 7].contains p.op), chunk := p.chunk,
        map := (List.range (if entry = 0 then 0 else v.n)).map fun i => readLe s.mem (p.mapaddr + entry * i) entry,
        startTick := s.gc, earliest := s.gc, latest := s.gc, latestMember := s.self }
      (v.badSize c lengths = false → exec (.collectiveStart rid lengths) s = .next
        ((((marked.modRegion n fun r => { r with colls := r.colls ++ [c] }).announce n p.ordinal).replayCells n p.ordinal).pump n)) ∧
      (v.badSize c lengths = true → exec (.collectiveStart rid lengths) s =
        .next (marked.haltGroup n p.gid p.ordinal 0x19 0 (some s.self))))

/-- COLLECTIVE_DONE completes a collective whose parts are all sent, passed on, written and verified: it is done, and the
completion counter of every frame of its completion rectangle rises by 1 the first time (R374, R401). CHUNK and VERIFY_TOKEN
pass on what is for another module: of a collective that has started it joins those that wait for the next neighbour's
GRANT, and otherwise goes at once (R368, R386); a chunk of the current attempt is kept with its CRC, one of a group that is
not here is discarded with FAB_EDGE (R363); a token whose CRC differs from its chunk's begins a new attempt (R389). The
model's choices: what a member on the way does with another's chunk (log 171), and how tokens are judged (log 89). -/
def Obligations.CollectiveTraffic : Prop :=
  ∀ (s : State),
    (∀ (rid : Fin 4) (o : W32) (c : Coll) (v : CollEnv),
      let n := rid.val
      let u := if (s.region n).run = .waiting then s else s.pump n
      (u.collHere n o = some (c, v) → c.done = false → v.complete c = true →
        ∃ t, exec (.collectiveDone rid o) s = .next t ∧ ((t.region n).coll? o).map (·.done) = some true ∧ t.mem = u.mem ∧
          (c.desc < 1024 → c.signalled = false → ∀ f ∈ rectFrames u.nv v.p.dfirst v.p.dlast,
            (t.frame f).counter v.p.dctr = (u.frame f).counter v.p.dctr + 1)) ∧
      (u.collHere n o = none → exec (.collectiveDone rid o) s = .next u)) ∧
    (∀ (k : Fin 12) (dest : BitVec 14) (c : ChunkMsg) (tk : TokenMsg), s.isReady = true → (s.port k.val).up = true →
      let n := c.rid.toNat
      let w := s.wakeUp
      let passed := fun (n gid : Nat) (o : W32) (attempt : Nat) (b : Bulk) =>
        (match (w.region n).coll? o with
         | none => (match w.hop (w.waysOf n gid) dest with
                    | some x => w.emit (b.out x.1 dest)
                    | none => w)
         | some y =>
           if y.gid ≠ gid ∨ y.attempt ≠ attempt then w
           else (w.modRegion n fun r => r.modColl o fun z => { z with transit := z.transit ++ [(dest, b)] }).passOn n o)
      (dest ≠ s.self →
        exec (.chunk k dest c) s = .next (passed n c.gid.toNat c.ordinal c.attempt.toNat (.chunk c)) ∧
        exec (.verifyToken k dest tk) s =
          .next (passed tk.rid.toNat tk.gid.toNat tk.ordinal tk.attempt.toNat (.token tk))) ∧
      (dest = s.self → (s.region n).live = false ∨ (s.region n).group? c.gid.toNat = none →
        exec (.chunk k dest c) s = .next (w.postErrFor n 0x0031 (n + 2 ^ 8 * c.gid.toNat) c.sender.toNat)) ∧
      (∀ x, dest = s.self → (s.region n).live = true → ((s.region n).group? c.gid.toNat).isSome = true →
        (s.region n).coll? c.ordinal = some x → x.gid = c.gid.toNat → x.attempt = c.attempt.toNat →
        (x.got c.sender c.role) = none →
        exec (.chunk k dest c) s = .next ((w.modRegion n fun r => r.modColl c.ordinal fun y => { y with
          recv := y.recv ++ [{ sender := c.sender, code := roleCode c.role, role := c.role, bytes := c.bytes,
                               crc := crc32c c.bytes }] }).pump n)) ∧
      (∀ x v r, dest = s.self → w.collHere tk.rid.toNat tk.ordinal = some (x, v) → x.gid = tk.gid.toNat →
        x.attempt = tk.attempt.toNat →
        x.recv.find? (fun r => decide (r.sender = tk.sender) && decide (r.code = tk.chunk) && decide (r.verdict = none)) = some r →
        let judged := (w.modRegion tk.rid.toNat fun z => z.modColl tk.ordinal fun y =>
          { (y.fold v.mods tk.earliest tk.latest tk.latestMember) with
            recv := y.recv.map fun q => if q.sender = r.sender ∧ q.code = r.code then
              { q with verdict := some (decide (r.crc = tk.crc) && tk.clean),
                       ticks := some (tk.earliest, tk.latest, tk.latestMember) } else q }).pump tk.rid.toNat
        (r.crc = tk.crc → exec (.verifyToken k dest tk) s = .next judged) ∧
        (r.crc ≠ tk.crc → exec (.verifyToken k dest tk) s =
          .next ((judged.mismatch tk.rid.toNat tk.ordinal r.sender).replayCells tk.rid.toNat tk.ordinal)))) ∧
    (∀ (k : Fin 12) (dest : BitVec 14) (c : ChunkMsg) (tk : TokenMsg), (s.port k.val).up = false →
      exec (.chunk k dest c) s = .next s ∧ exec (.verifyToken k dest tk) s = .next s)

/-- The drizzle cells (R363, R368, R386 to R390, R396, R397, R399). A cell for another module leaves as its 64 bytes on the
port that leads there; one whose region or group is not here is discarded with FAB_EDGE. READY and NOTICE keep what they
carry. Of a group that is set: a REQUEST, DATA or RERUN of an ordinal that has not started, and is not below one that has,
is held until it starts (R387), also where the group is halted, which drops the others. Where it is not halted, a REQUEST of
the attempt in course is noted with its tick, and granted at once where it needs no staging: from a module that is no
neighbour, or of a collective on the drizzle path; a contribution is kept for the member that it is sent to (R397, log 169);
a RERUN no higher than the attempt in course does nothing, and one of a higher attempt begins that attempt: what was
received and granted is dropped, the module's own contribution is kept, and the region counts a rerun (R389, R390). A HALT
halts the group, and faults the region where a step runs; one of an older epoch is discarded (log 90). The model's choices:
how cells are held before the start (log 183), the grant without staging to a module that is no neighbour (log 170), and
that a GRANT of an ordinal that has not started is dropped (log 195). -/
def Obligations.Cells : Prop :=
  ∀ (s : State) (k : Fin 12) (dest : BitVec 14) (c : Cell), s.isReady = true → (s.port k.val).up = true →
    let n := c.rid.toNat
    let w := s.wakeUp
    let r := s.region n
    let rows : List (Nat × Instr) := [(kindData, .dataCell k dest c), (kindRequest, .requestCell k dest c),
      (kindGrant, .grant k dest c), (kindRerun, .rerun k dest c), (kindHalt, .haltCell k dest c), (kindReady, .ready k dest c),
      (kindNotice, .notice k dest c)]
    (moduleOf dest ≠ s.self → ∀ x ∈ rows,
      (∀ y, s.hop (s.waysOf n c.gid.toNat) dest = some y →
        exec x.2 s = .next (w.emit (.cell y.1 dest (cellBytes x.1 c)))) ∧
      (s.hop (s.waysOf n c.gid.toNat) dest = none → exec x.2 s = .next w)) ∧
    (moduleOf dest = s.self → r.live = false ∨ r.group? c.gid.toNat = none → ∀ x ∈ rows, exec x.2 s =
      .next (w.postErrFor n 0x0031 (n + 2 ^ 8 * c.gid.toNat) c.sender.toNat)) ∧
    (∀ g, moduleOf dest = s.self → r.live = true → r.group? c.gid.toNat = some g →
      (exec (.ready k dest c) s = .next (w.modRegion n fun r =>
        { r with readies := (r.readies.filter fun x => decide (x.1 ≠ c.sender)) ++
          [(c.sender, BitVec.ofNat 64 (leNat (c.payload.take 8)))] })) ∧
      (∃ t, exec (.notice k dest c) s = .next t ∧ t.mem = s.mem ∧ ∃ x, (t.region n).peerNotes = r.peerNotes ++ [x] ∧
        x.2.1 = BitVec.ofNat 64 (leNat (c.payload.take 8)) ∧ x.2.2.2.2 = c.sender) ∧
      (g.halted = true → c.ordinal ∈ r.started ∨ (∃ o ∈ r.started, c.ordinal.toNat < o.toNat) →
        exec (.dataCell k dest c) s = .next w ∧ exec (.requestCell k dest c) s = .next w ∧
        exec (.grant k dest c) s = .next w ∧ exec (.rerun k dest c) s = .next w) ∧
      (r.coll? c.ordinal = none → c.ordinal ∉ r.started → (∀ o ∈ r.started, o.toNat ≤ c.ordinal.toNat) →
        let held := fun (kind : Nat) => Host.Outcome.next (w.modRegion n fun r =>
          { r with heldCells := r.heldCells ++ [{ kind := kind, dest := dest, cell := c }] })
        exec (.dataCell k dest c) s = held kindData ∧ exec (.requestCell k dest c) s = held kindRequest ∧
        exec (.rerun k dest c) s = held kindRerun ∧ exec (.grant k dest c) s = .next w) ∧
      (∀ x, g.halted = false → c.ordinal ∈ r.started → r.coll? c.ordinal = some x → x.gid = c.gid.toNat →
        c.epoch = r.stepNo.setWidth 16 → c.gcrc = g.crc → c.attempt.toNat = x.attempt →
        (s.isNeighbour (moduleOf c.sender) = false ∨ x.drizzle = true →
          ∃ t, exec (.requestCell k dest c) s = .next t ∧ t.mem = s.mem ∧
            ((t.region n).coll? c.ordinal).map (·.asked) =
              some (x.asked ++ [(c.sender, BitVec.ofNat 64 (leNat (c.payload.take 8)))]) ∧
            (∀ y, s.hop (s.ways g.d) (moduleOf c.sender) = some y →
              ∃ cell, t.out = s.out ++ [.cell y.1 (moduleOf c.sender) (cellBytes kindGrant cell)] ∧
                cell.sender = s.self ∧ cell.ordinal = c.ordinal ∧ cell.attempt = c.attempt)) ∧
        exec (.rerun k dest c) s = .next w ∧
        (let settle := fun (u : State) =>
            if ((u.region n).coll? c.ordinal).map (·.attempt) = some x.attempt then u else u.replayCells n c.ordinal
        exec (.grant k dest c) s = .next (settle ((w.modRegion n fun r => r.modColl c.ordinal fun y =>
          { y with granted := y.granted ++ [moduleOf c.sender] }).pump n)) ∧
        (x.drizzle = true → (∀ y ∈ x.cells, ¬(y.1 = c.sender ∧ y.2.1 = fld dest 0 0)) →
          exec (.dataCell k dest c) s = .next (settle ((w.modRegion n fun r => r.modColl c.ordinal fun y =>
            { y with cells := if y.cells.any (fun z => decide (z.1 = c.sender) && decide (z.2.1 = fld dest 0 0)) then y.cells
                              else y.cells ++ [(c.sender, fld dest 0 0, c.payload.take c.len.toNat)] }).pump n))))) ∧
      (∀ x, g.halted = false → c.ordinal ∈ r.started → r.coll? c.ordinal = some x → x.gid = c.gid.toNat →
        c.epoch = r.stepNo.setWidth 16 → x.attempt < c.attempt.toNat →
        (exec (.rerun k dest c) s = .next ((w.startAttempt n c.ordinal c.attempt.toNat).replayCells n c.ordinal)) ∧
        ((∀ y ∈ r.heldCells, y.cell.ordinal ≠ c.ordinal) →
          ∃ t y, exec (.rerun k dest c) s = .next t ∧ t.mem = s.mem ∧ (t.region n).started = r.started ∧
            (t.region n).reruns = r.reruns + 1 ∧ (t.region n).coll? c.ordinal = some y ∧ y.attempt = c.attempt.toNat ∧
            y.own = x.own ∧ y.granted = [] ∧ y.asked = [] ∧ y.recv = [] ∧ y.written = [] ∧ y.done = false ∧
            y.verified = x.verified)) ∧
      (g.halted = false → cellOlder c r.epoch = false → r.run = .stepping →
        ∃ t, exec (.haltCell k dest c) s = .next t ∧ ((t.region n).group? c.gid.toNat).map (·.halted) = some true ∧
          (t.region n).faulted = true ∧ (∀ x ∈ (t.region n).colls, x.gid ≠ c.gid.toNat)) ∧
      (cellOlder c r.epoch = true → exec (.haltCell k dest c) s = .next w))

/-! ## Handoff -/

/-- The frames of the handoff ports (R335, R336, R338, R493). Outside a MACsec secure channel a frame is discarded and
counted. A connection becomes connected when the partner accepts it, and enters the error state when it is rejected or
disconnected, when transport retries are exhausted, and when its link loses a lane; a reconnection opens it again while the
session is DOWN. A lane that the mode set by HOMODE does not use changes nothing. A congestion notification lowers the
sending rate, by a free amount (log 44); a pause holds the port's writes; a key-agreement frame under the owner's CAK that
distributes a SAK keys the port. The model's choices: how retries are counted and the error state is entered (log 194), the
key agreement of MKA (logs 79, 174), and that a lost lane takes the link down (log 80). -/
def Obligations.HandoffPorts : Prop :=
  ∀ (s : State) (p : Fin 2), s.isReady = true →
    let x := s.hoPort p.val
    let port := fun (t : State) => t.hoPort p.val
    let w0 := wordAt (s.ho.pairing.getD []) 0
    let limit := fld w0 9 7
    let leads := fun (c : Instr) (q : HoPort → Prop) => ∃ t, exec c s = .next t ∧ q (port t) ∧ t.mem = s.mem
    (exec (.handoffFrameDiscard p) s = .next (s.modHoPort p.val fun y => { y with discards := y.discards + 1 })) ∧
    (s.ho.pairing.isSome = true → (x.keyed = false ∨ x.linkUp = false) → ∀ c ∈ ([.communicationManagement p .accepted,
        .communicationManagement p .rejected, .communicationManagement p .disconnect, .roceNak p true, .roceNak p false,
        .congestionNotification p] : List Instr),
      exec c s = .next (s.modHoPort p.val fun y => { y with discards := y.discards + 1 })) ∧
    (s.ho.pairing.isSome = true → x.keyed = true → x.linkUp = true →
      (x.conn = .connecting → leads (.communicationManagement p .accepted) (fun y => y.conn = .connected) ∧
        leads (.communicationManagement p .rejected) (fun y => y.conn = .error)) ∧
      (x.conn = .connected → leads (.communicationManagement p .disconnect) (fun y => y.conn = .error) ∧
        (x.retries < limit → leads (.roceNak p false) (fun y => y = { x with retries := x.retries + 1 })) ∧
        (limit ≤ x.retries → leads (.roceNak p false) (fun y => y.conn = .error)) ∧
        ((fld w0 12 10 = 7 ∨ x.rnr < fld w0 12 10) → leads (.roceNak p true) (fun y => y = { x with rnr := x.rnr + 1 })) ∧
        (fld w0 12 10 ≠ 7 → fld w0 12 10 ≤ x.rnr → leads (.roceNak p true) (fun y => y.conn = .error))) ∧
      leads (.congestionNotification p) (fun y => y.rate < max 1 x.rate ∧ y.conn = x.conn)) ∧
    (x.conn = .connected →
      (x.retries < limit → leads (.transportTimeout p) (fun y => y = { x with retries := x.retries + 1 })) ∧
      (limit ≤ x.retries → leads (.transportTimeout p) (fun y => y.conn = .error))) ∧
    (s.ho.pairing.isSome = true → s.ho.up = false → x.conn = .error ∨ x.conn = .connecting → s.portEnabled p.val = true →
      leads .partnerReconnect (fun y => y.conn = .connecting)) ∧
    (s.ho.up = true → exec .partnerReconnect s = .next s) ∧
    (∀ frame ckn key, s.sec.cak = some (ckn, key) → s.ho.pairing.isSome = true → fld w0 38 23 = ckn.toNat →
      ∀ sak, mkaSak ckn key frame = some sak → leads (.eapolMka p frame) (fun y => y.sak = some sak ∧ y.keyed = true)) ∧
    (∀ frame, s.sec.cak = none → exec (.eapolMka p frame) s = .next s) ∧
    (∀ pause, s.ho.pairing.isSome = true → bitAt w0 16 = true →
      leads (.priorityFlowControl p pause) (fun y => y.paused = pause)) ∧
    (∀ pause, s.ho.pairing = none ∨ bitAt w0 16 = false → exec (.priorityFlowControl p pause) s = .next s) ∧
    (∀ lane : Fin 8, (s.sys.homodeGround = true → lane.val < 4) →
      leads (.handoffLaneLoss p lane) (fun y => y.linkUp = false ∧ lane.val ∈ y.lanesLost ∧
        (y.conn = .closed ∨ y.conn = .error))) ∧
    (∀ lane : Fin 8, s.sys.homodeGround = true → 4 ≤ lane.val → exec (.handoffLaneLoss p lane) s = .next s)

/-- LAYER_BATCH_SEND writes the rows of a layer that are present and not yet sent to the partner, once the whole batch is
there (R345). ROCE_ACK moves the oldest written range of its layer and port to the acknowledged ones (R347), and marks a
request whose token was sent as acknowledged (R349); on a connection that is not connected it does nothing. Which
outstanding write a ROCE_ACK acknowledges, and that it clears the retry counts, is the model's choice (log 194). -/
def Obligations.HandoffRequests : Prop :=
  ∀ (s : State) (i : Fin 32768) (l : Fin 256) (p : Fin 2), s.isReady = true →
    let q := s.req i.val
    (∀ d g port, s.layout? q.layout = some d → (s.region q.region).geom0 = some g → s.layerPort q.region l.val = some port →
      s.mayWrite i.val = true → l.val < g.nl → s.portOpen port = true →
      let h := s.header q.region i.val 0
      let lo := q.sentTo l.val (q.firstSent d)
      let hi := s.batchEnd q.region i.val
      ((∀ k, k < hi - lo → s.rowsThere q.region i.val g h l.val (lo + k) = true) → NoCopyRace s q.region →
        exec (.layerBatchSend i l) s = .next ((s.wakeRegion q.region).sendRange i.val l.val lo hi)) ∧
      ((∃ k, k < hi - lo ∧ s.rowsThere q.region i.val g h l.val (lo + k) = false) →
        exec (.layerBatchSend i l) s = .next s)) ∧
    (s.mayWrite i.val = false → exec (.layerBatchSend i l) s = .next s) ∧
    (s.ho.pairing.isSome = true → (s.hoPort p.val).keyed = true → (s.hoPort p.val).linkUp = true →
      (∀ what, (s.hoPort p.val).conn ≠ .connected → exec (.roceAck p what) s = .next s) ∧
      ((s.hoPort p.val).conn = .connected →
        (∀ x rest, takeRange l.val p.val q.hoOut = (some x, rest) →
          ∃ t, exec (.roceAck p (.layer i.val l.val)) s = .next t ∧ (t.req i.val).hoOut = rest ∧
            (t.req i.val).hoAck = q.hoAck ++ [x] ∧ (t.hoPort p.val).retries = 0 ∧ t.mem = s.mem) ∧
        (q.tokenSent = true → s.layerPort q.region 0 = some p.val →
          ∃ t, exec (.roceAck p (.token i.val)) s = .next t ∧ (t.req i.val).tokenAcked = true ∧ t.mem = s.mem ∧
            (∀ j, j ≠ i.val → t.req j = s.req j)) ∧
        exec (.roceAck p (.revoke i.val)) s = .next (s.modHoPort p.val fun y => { y with retries := 0, rnr := 0 })))

/-! ## Registers and doorbells -/

/-- R12: the host's accesses to BAR0 are aligned 32-bit and 64-bit ones; any other write is dropped, any other read returns
0, and each posts BAD_ACCESS. An aligned 32-bit access is of one register, 4 bytes wide. BAR0 is 16 MiB: what lies beyond it
no BAR decodes (R423). Reads of BAR2 return 0, and its writes are doorbells (R426). -/
def Obligations.OtherAccesses : Prop :=
  ∀ (s : State) (a : BarAccess) (v : W64), s.isReady = true → s.hif.d3hot = false →
    (a.bar2 = false → a.offset.toNat < 2 ^ 24 →
      (¬((a.bytes = 4 ∨ a.bytes = 8) ∧ a.offset.toNat % a.bytes = 0) →
        exec (.registerWrite a v) s = .next s.wakeUp.badAccess ∧
        exec (.misalignedRegisterRead a) s = .next (s.badAccess.reply 0) ∧
        exec (.rcRead a) s = .next (s.badAccess.reply 0)) ∧
      (a.bytes = 4 → a.offset.toNat % 4 = 0 →
        exec (.registerWrite a v) s = .next (s.wakeUp.write32 a.offset.toNat (v.setWidth 32)) ∧
        ∃ (x : Nat) (w : State), exec (.misalignedRegisterRead a) s = .next (w.reply x) ∧ w.out = s.out ∧ w.mem = s.mem)) ∧
    (a.bar2 = false → 2 ^ 24 ≤ a.offset.toNat →
      let refused := Host.Outcome.next (s.sendTlp none (.unsupported (a.offset.setWidth 64)))
      exec (.registerWrite a v) s = refused ∧ exec (.rcRead a) s = refused) ∧
    (a.bar2 = true → exec (.rcRead a) s = .next (s.reply 0) ∧ exec (.pairLoRead a) s = .next (s.reply 0) ∧
      exec (.registerWrite a v) s =
        .next (s.doorbell (a.offset.toNat / 4096) { offset := BitVec.ofNat 12 a.offset.toNat, bytes := a.bytes, value := v }))

/-- R13 and R501: a pair has its _LO register at the lower offset; a read of _LO latches _HI, so that a read of _HI,
whatever has changed meanwhile, returns the half that matches; a write to _HI waits for the next write to _LO, and both then
take effect together; an aligned 64-bit read at _LO returns both halves of one value, and a 64-bit write there sets both at
once (a ring's base without bits [11:0], which are reserved). -/
def Obligations.RegisterPairs : Prop :=
  ∀ (s : State) (o : Nat) (lo hi : Reg), s.isReady = true → s.hif.d3hot = false → o < 2 ^ 24 → regAt o = some lo → lo.hi? = some hi →
    regAt (o + 4) = some hi ∧
    (∃ t : State, exec (.pairLoRead { offset := BitVec.ofNat 25 o, bytes := 4 }) s = .next (t.reply (s.shown lo)) ∧ t.out = s.out ∧
      ∀ u : State, u.isReady = true → u.hif.d3hot = false → u.hif.latch = t.hif.latch →
        ∃ v : State, exec (.pairLoRead { offset := BitVec.ofNat 25 (o + 4), bytes := 4 }) u = .next (v.reply (s.shown hi % 2 ^ 32)) ∧
          v.out = u.out) ∧
    (∀ x y : W32, pairWritable s lo = true →
      ∃ t, exec (.registerWrite { offset := BitVec.ofNat 25 (o + 4), bytes := 4 } (x.setWidth 64)) s = .next t ∧
        pairOf t lo = pairOf s lo ∧
        ∀ u : State, u.isReady = true → u.hif.d3hot = false → u.hif.hiWait = t.hif.hiWait → pairWritable u lo = true →
          ∃ v, exec (.registerWrite { offset := BitVec.ofNat 25 o, bytes := 4 } (y.setWidth 64)) u = .next v ∧
            pairOf v lo = (if lo = .recovLo then BitVec.ofNat 64 (x.toNat * 2 ^ 32 + y.toNat)
              else BitVec.ofNat 64 (x.toNat * 2 ^ 32 + y.toNat / 4096 * 4096))) ∧
    (o % 8 = 0 →
      (∃ t : State, exec (.pairLoRead { offset := BitVec.ofNat 25 o, bytes := 8 }) s =
        .next (t.reply (s.shown lo + 2 ^ 32 * (s.shown hi % 2 ^ 32))) ∧ t.out = s.out ∧ t.mem = s.mem) ∧
      ∀ v : W64, pairWritable s lo = true →
        ∃ t, exec (.registerWrite { offset := BitVec.ofNat 25 o, bytes := 8 } v) s = .next t ∧
          pairOf t lo = (if lo = .recovLo then v else v &&& 0xFFFFFFFFFFFFF000))

/-- Reads (R12, R423, R483, R500 to R502): an RC register returns its value and is then cleared; an offset without a
register reads 0; a 64-bit read of a pair returns both halves of one value, and any other 64-bit access is two 32-bit ones,
the lower offset first (R501); a memory request that no BAR decodes gets Unsupported Request, and so does every one while
the function is in D3hot. Configuration requests are retried until stage 0x3 and served from then on: the class code is
0x12_0000 (R421), and a write of a BAR is read back with its type bits (its places are the model's: log 173). Writes by
access code (R14, R481, R500, R503): an offset without a register is refused with BAD_ACCESS, a read-only register ignores
the write; SYS_RESET, PWR_CTL and PWR_LIMIT act only under the owner gate and with an allowed value. A write wakes the
module first (R470). That a write of a FAB_COORD already written posts BAD_ACCESS alone while the owner gate is closed is
the model's choice (log 162). In Lull (R504) the registers of R504's list are read live; any other shows what it held at the
entry, and an RC register shows 0 once it has been read, while its counter keeps for the time after the wake what it has
counted since the entry; a wake ends this. MSI-X Enable and Function Mask are held; while MSI-X is disabled or masked no
message leaves, and a message carries the address and data of its vector's entry (R500; their places and reset values are
the model's: log 201). The model's choices: the refusal of reserved PWR_CTL codes (log 127), what registers show in Lull
(log 68), and that no BAR is decoded in D3hot (log 173). -/
def Obligations.RegisterAccess : Prop :=
  (∀ (s : State),
    (s.isReady = true → s.hif.d3hot = false →
      (s.atLull = none →
        exec (.rcRead { offset := 0x10, bytes := 4 }) s = .next
          (({ s with sys := { s.sys with ceCount := 0 } }).reply s.sys.ceCount.toNat) ∧
        exec (.rcRead { offset := 0x40010C, bytes := 4 }) s = .next
          (({ s with hif := { s.hif with err := { s.hif.err with lost := 0 } } }).reply s.hif.err.lost.toNat) ∧
        (∀ k : Fin 12, exec (.rcRead { offset := BitVec.ofNat 25 (0x600108 + 16 * k.val), bytes := 4 }) s = .next
          ((s.modPort k.val fun p => { p with replay := 0 }).reply (s.port k.val).replay.toNat))) ∧
      (∀ o, o < 2 ^ 24 → o % 4 = 0 → regAt o = none →
        exec (.rcRead { offset := BitVec.ofNat 25 o, bytes := 4 }) s = .next (s.reply 0)) ∧
      (∃ t : State, exec (.pairLoRead { offset := 0x18, bytes := 8 }) s = .next (t.reply s.gc.toNat) ∧ t.out = s.out ∧ t.mem = s.mem) ∧
      (∀ o, o < 2 ^ 24 → o % 8 = 0 → (∀ lo, regAt o = some lo → lo.hi? = none) →
        let at' := fun (bytes : Nat) => ({ offset := BitVec.ofNat 25 o, bytes := bytes } : BarAccess)
        let x := s.read32 o
        let y := x.2.read32 (o + 4)
        exec (.rcRead (at' 4)) s = .next (x.2.reply x.1) ∧ exec (.rcRead (at' 8)) s = .next (y.2.reply (x.1 + 2 ^ 32 * y.1)) ∧
        ∀ v : W64, exec (.registerWrite (at' 4) v) s = .next (s.wakeUp.write32 o (v.setWidth 32)) ∧
          exec (.registerWrite (at' 8) v) s =
            .next ((s.wakeUp.write32 o (v.setWidth 32)).write32 (o + 4) ((v >>> 32).setWidth 32)))) ∧
    (s.isReady = true → s.hif.d3hot = true → ∀ a, exec (.rcRead a) s = .next (s.sendTlp none (.unsupported (a.offset.setWidth 64))) ∧
      ∀ v, exec (.registerWrite a v) s = .next (s.sendTlp none (.unsupported (a.offset.setWidth 64)))) ∧
    (s.hostUp = true → ∀ a, exec (.barUndecodedAccess a) s = .next (s.sendTlp none (.unsupported a))) ∧
    (s.hostUp = true →
      (s.sys.stage.toNat < 3 → ∀ c, exec (.configurationRequest c) s = .next (s.sendTlp none .configRetry)) ∧
      (3 ≤ s.sys.stage.toNat →
        (∀ k, exec (.configurationRequest (.read k)) s = .next (s.sendTlp none (.configReply (s.configValue k.toNat)))) ∧
        s.configValue 2 >>> 8 = 0x120000 ∧
        (∀ v, ∃ t : State, exec (.configurationRequest (.write 4 v)) s = .next (t.sendTlp none .configDone) ∧
          t.configValue 4 = (v &&& 0xFF000000) ||| 4 ∧ t.mem = s.mem ∧ t.out = s.out) ∧
        (∀ d, exec (.configurationRequest (.power d)) s =
          .next (({ s with hif := { s.hif with d3hot := d } }).sendTlp none .configDone)) ∧
        (∀ on mask, exec (.configurationRequest (.msixControl on mask)) s =
          .next ((State.sendPending { s with hif := { s.hif with msixOn := on, msixMask := mask } }).sendTlp none .configDone)))) ∧
    (∀ v : Nat,
      let off := s.hif.msixMask = true ∨ bitAt (s.msixWord (4 * v + 3)) 0 = true
      let message := Out.msix v (s.msixWord (4 * v + 1) ++ (s.msixWord (4 * v) &&& 0xFFFFFFFC)) (s.msixWord (4 * v + 2))
      (s.hif.msixOn = false → s.sendVector v = s) ∧
      (s.hif.msixOn = true → ¬off → s.sendVector v = s.sendTlp none message) ∧
      (s.hif.msixOn = true → off → (s.sendVector v).out = s.out ∧ (s.sendVector v).mem = s.mem ∧
        ∀ k, k ∈ (s.sendVector v).hif.msixPending ↔ k = v ∨ k ∈ s.hif.msixPending)) ∧
    (s.hostUp = false → ∀ a b, exec (.barUndecodedAccess a) s = .next s ∧ exec (.configurationRequest b) s = .next s)) ∧
  (∀ (s : State) (v : W32), s.isReady = true → s.hif.d3hot = false →
    let w := s.wakeUp
    let write := fun (o : Nat) => exec (.registerWrite { offset := BitVec.ofNat 25 o, bytes := 4 } (v.setWidth 64)) s
    (∀ o, o < 2 ^ 24 → o % 4 = 0 → regAt o = none → write o = .next w.badAccess) ∧
    (∀ o ∈ [0x0, 0x4, 0xC, 0x10, 0x28, 0x2C, 0x400000, 0x40010C, 0x500000, 0x500100, 0x600004, 0x600008, 0x700000, 0x800000,
      0x80000C, 0x800010], write o = .next w) ∧
    write 0x500400 = .next { w with mc := { w.mc with lostsel := v.setWidth 16 } } ∧
    write 0x600010 = .next { w with fab := { w.fab with statsel := v.setWidth 14 } } ∧
    (s.ownerGate = true → v = 0x52535421 → exec (.sysReset v) s = .next (w.moduleReset 2)) ∧
    (s.ownerGate = false ∨ v ≠ 0x52535421 → exec (.sysReset v) s = .next w.badAccess) ∧
    (s.ownerGate = true → 600 ≤ fld v 10 0 → fld v 10 0 ≤ 1650 →
      exec (.pwrLimit v) s = .next { w with pwr := { w.pwr with limit := v.setWidth 11 } }) ∧
    (s.ownerGate = false ∨ fld v 10 0 < 600 ∨ 1650 < fld v 10 0 → exec (.pwrLimit v) s = .next w.badAccess) ∧
    (s.ownerGate = true → fld v 1 0 ≠ 3 → fld v 19 18 ≠ 3 → fld v 21 20 ≠ 3 →
      ∃ t, exec (.pwrCtl v) s = .next t ∧ t.pwr.deepest = BitVec.ofNat 2 (fld v 1 0) ∧
        t.pwr.lulldly = BitVec.ofNat 16 (fld v 17 2) ∧ t.pwr.wmax = BitVec.ofNat 2 (fld v 19 18) ∧
        t.pwr.emax = BitVec.ofNat 2 (fld v 21 20) ∧ t.mem = s.mem ∧
        ((∃ n, n < 4 ∧ (s.region n).run ≠ .waiting) → t.pwr.capsDue = true ∧ t.pwr.west.step = s.pwr.west.step)) ∧
    (s.ownerGate = false ∨ fld v 1 0 = 3 ∨ fld v 19 18 = 3 ∨ fld v 21 20 = 3 → exec (.pwrCtl v) s = .next w.badAccess) ∧
    (s.ownerGate = false → s.fab.coordSet = true → exec (.fabCoord v) s = .next w.badAccess)) ∧
  (∀ (s : State) (v : LullView), s.isReady = true → s.hif.d3hot = false → s.atLull = some v →
    let read := fun (o : BitVec 25) => exec (.rcRead { offset := o, bytes := 4 }) s
    read 0x4 = .next (s.reply s.sysStatus) ∧ read 0x800000 = .next (s.reply s.pwrState) ∧
    read 0x800010 = .next (s.reply s.pwrPower) ∧ read 0x600008 = .next (s.reply s.gcsync) ∧
    read 0x2C = .next (s.reply v.sys.mapgen.toNat) ∧ read 0x600000 = .next (s.reply v.fab.coord.toNat) ∧
    read 0x10 = .next (({ s with
      sys := { s.sys with ceCount := s.sys.ceCount - v.sys.ceCount }
      atLull := some { v with sys := { v.sys with ceCount := 0 } } }).reply v.sys.ceCount.toNat) ∧
    read 0x40010C = .next (({ s with
      hif := { s.hif with err := { s.hif.err with lost := s.hif.err.lost - v.hif.err.lost } }
      atLull := some { v with hif := { v.hif with err := { v.hif.err with lost := 0 } } } }).reply v.hif.err.lost.toNat) ∧
    s.wakeUp.atLull = none)

/-- R15, on FAB_COORD, the one LOCK register (Table 18-8): its first write after reset sets it, and a write after that
leaves it unchanged and posts LOCK_WRITE; a write that the owner gate drops posts BAD_ACCESS and leaves it writable (R503).
-/
def Obligations.LockRegister : Prop :=
  ∀ (s : State) (v : W32), s.isReady = true → s.hif.d3hot = false →
    (s.ownerGate = true → s.fab.coordSet = true →
      ∃ t, exec (.fabCoord v) s = .next t ∧ t.fab = s.fab ∧ t = s.wakeUp.postErr 0x0002 0 0) ∧
    (s.ownerGate = true → s.fab.coordSet = false →
      ∃ t, exec (.fabCoord v) s = .next t ∧ t.fab.coord = v &&& 0x1FFFFFFF ∧ t.fab.coordSet = true ∧
        t.fab.ports = s.fab.ports ∧ t.mem = s.mem ∧ t.hif = s.hif) ∧
    (s.ownerGate = false → s.fab.coordSet = false →
      ∃ t, exec (.fabCoord v) s = .next t ∧ t.fab = s.fab ∧ t = s.wakeUp.badAccess)

/-- HIF_QCFG (R424, R425, R448): enabling a queue with allowed sizes takes its fields and starts it empty; a TENANT queue
whose RID is not its binding's stays disabled and BAD_ACCESS is posted; a size above 12 has the write dropped. Disabling an
idle queue clears EN; one with unfinished requests or commands stays enabled, and QUEUE_BUSY is posted. While EN = 1, writes
to the queue's other registers, and to the other fields of HIF_QCFG, are ignored with BAD_ACCESS (R424). Doorbells (R426,
R427, R432, R437, R483). SQTAIL makes the entries up to the new tail due, which are fetched one by one (log 14); CQHEAD,
DIGHEAD and ERRHEAD free the entries before the head, ERRHEAD on queue 0 only; any other write is dropped with BAD_DOORBELL,
and before READY every doorbell is dropped with BAD_ACCESS. The model's choices: a CQHEAD beyond what was written frees
nothing (log 129), and what a HIF_QCFG write does besides EN (log 125). -/
def Obligations.QueuesAndDoorbells : Prop :=
  (∀ (s : State) (q : Fin 8192) (v : W32), s.isReady = true → s.hif.d3hot = false →
    let x := s.queue q.val
    let e := v ||| 0x80000000
    let d := v &&& 0x7FFFFFFF
    (x.en = false → fld e 3 0 ≤ 12 → fld e 7 4 ≤ 12 → (x.role = .tenant → fld e 21 20 = x.brid) →
      let enabled : Queue := { x with
        sqsz := fld e 3 0, cqsz := fld e 7 4, vector := fld e 18 8, ien := bitAt e 19, rid := fld e 21 20, en := true,
        sqhead := 0, cqtail := 0, phase := true, tail := 0, used := 0, reserved := 0 }
      ∃ t, exec (.queueEnable q v) s = .next t ∧ (∀ k, k ≠ q.val → t.queue k = s.queue k) ∧ t.out = s.out ∧
        t.queue q.val = enabled) ∧
    (x.en = false → fld e 3 0 ≤ 12 → fld e 7 4 ≤ 12 → x.role = .tenant → fld e 21 20 ≠ x.brid →
      ∃ u : State, exec (.queueEnable q v) s = .next u.badAccess ∧ (u.queue q.val).en = false ∧
        (u.badAccess.queue q.val).en = false ∧ (∀ k, k ≠ q.val → u.queue k = s.queue k)) ∧
    (12 < fld e 3 0 ∨ 12 < fld e 7 4 → exec (.queueEnable q v) s = .next s.wakeUp.badAccess ∧
      exec (.queueDisable q v) s = .next s.wakeUp.badAccess) ∧
    (x.en = true → x.unfinished = 0 → fld d 3 0 ≤ 12 → fld d 7 4 ≤ 12 → (x.configured d).cfgWord = x.cfgWord →
      ∃ t, exec (.queueDisable q v) s = .next t ∧ t.queue q.val = { x with en := false } ∧ t.out = s.out ∧
        (∀ k, k ≠ q.val → t.queue k = s.queue k)) ∧
    (x.en = true → x.unfinished ≠ 0 → fld d 3 0 ≤ 12 → fld d 7 4 ≤ 12 → (x.configured d).cfgWord = x.cfgWord →
      exec (.queueDisable q v) s = .next (s.wakeUp.postErr 0x0004 q.val 0)) ∧
    (x.en = true → fld e 3 0 ≤ 12 → fld e 7 4 ≤ 12 →
      ((x.configured e).cfgWord = x.cfgWord → exec (.queueEnable q v) s = .next s.wakeUp) ∧
      ((x.configured e).cfgWord ≠ x.cfgWord → exec (.queueEnable q v) s = .next s.wakeUp.badAccess) ∧
      ((x.configured d).cfgWord ≠ x.cfgWord →
        (x.unfinished = 0 → exec (.queueDisable q v) s = .next (s.wakeUp.setQueue q.val { x with en := false }).badAccess) ∧
        (x.unfinished ≠ 0 → exec (.queueDisable q v) s = .next (s.wakeUp.postErr 0x0004 q.val 0).badAccess))) ∧
    (x.en = true → ∀ b : Nat × Nat, b ∈ [(0, 4), (4, 4), (8, 4), (12, 4), (20, 4), (0, 8), (8, 8)] → ∀ y : W64,
      ∃ u : State, exec (.registerWrite { offset := BitVec.ofNat 25 (0x410000 + 32 * q.val + b.1), bytes := b.2 } y) s =
          .next u.badAccess ∧ (∀ k, u.queue k = s.queue k) ∧ ∀ k, u.badAccess.queue k = s.queue k)) ∧
  (∀ (s : State) (q : Fin 8192) (v : W64), s.isReady = true → s.hif.d3hot = false → v.toNat < 2 ^ 32 →
    let w := s.wakeUp
    let x := s.queue q.val
    let at0 := fun (o : BitVec 12) => ({ offset := o, bytes := 4, value := v } : DbWrite)
    (x.en = true → v.toNat < x.sqSize →
      exec (.sqtail q (at0 0)) s = .next (w.setQueue q.val { x with tail := v.toNat })) ∧
    (x.en = false ∨ x.sqSize ≤ v.toNat → exec (.sqtail q (at0 0)) s = .next (w.badDoorbell q.val)) ∧
    (x.en = true → v.toNat < x.cqSize →
      let left := (x.cqtail + x.cqSize - v.toNat % x.cqSize) % x.cqSize
      (left ≤ x.used → exec (.cqhead q (at0 4)) s =
        .next ((w.setQueue q.val { x with used := left }).postHeld q.val)) ∧
      (x.used < left → exec (.cqhead q (at0 4)) s = .next w)) ∧
    (x.en = false ∨ x.cqSize ≤ v.toNat → exec (.cqhead q (at0 4)) s = .next (w.badDoorbell q.val)) ∧
    (let r := s.digRing x.rid
     let left := (r.tail + ringSize r.sz - v.toNat % ringSize r.sz) % ringSize r.sz
     (v.toNat < ringSize r.sz → left ≤ r.used → (s.region x.rid).digWait = [] →
       exec (.dighead q (at0 8)) s = .next (w.setDigRing x.rid { r with used := left })) ∧
     (ringSize r.sz ≤ v.toNat → exec (.dighead q (at0 8)) s = .next (w.badDoorbell q.val))) ∧
    (let r := s.hif.err
     let left := (r.tail + ringSize r.sz - v.toNat % ringSize r.sz) % ringSize r.sz
     (q.val ≠ 0 → exec (.errhead q (at0 12)) s = .next w) ∧
     (q.val = 0 → ringSize r.sz ≤ v.toNat → exec (.errhead q (at0 12)) s = .next (w.badDoorbell q.val)) ∧
     (q.val = 0 → v.toNat < ringSize r.sz → left ≤ r.used →
       exec (.errhead q (at0 12)) s = .next { w with hif := { w.hif with err := { r with used := left } } })) ∧
    (∀ d : DbWrite, d.bytes ≠ 4 ∨ (d.offset ≠ 0 ∧ d.offset ≠ 4 ∧ d.offset ≠ 8 ∧ d.offset ≠ 12) →
      exec (.sqtail q d) s = .next (w.badDoorbell q.val) ∧ exec (.errhead q d) s = .next (w.badDoorbell q.val))) ∧
  (∀ (s : State) (q : Fin 8192) (d : DbWrite), s.hostUp = true → s.hif.d3hot = false → 2 ≤ s.sys.stage.toNat →
    s.sys.stage.toNat < 7 →
    exec (.sqtail q d) s = .next s.badAccess ∧ exec (.cqhead q d) s = .next s.badAccess ∧
    exec (.dighead q d) s = .next s.badAccess ∧ exec (.errhead q d) s = .next s.badAccess)

/-! ## Ring entries and commands -/

/-- Every row of a ring entry (R427 to R429, R432, R448). Nothing is fetched while the module does not serve, no entry of
the queue is due, no completion entry is free, or another queue has its turn. A fetch takes one entry and reserves one
completion. On an UNBOUND queue an entry is refused with ROLE_DENIED; a reserved OPC, or a nonzero reserved bit of word 0,
with MALFORMED; an entry whose OPC is another row's is the model's refusal otherRow. A completion is written to the next
entry of the queue with its status, kind, phase, HOSTTAG, SQHEAD and payload, zeros to word 31, its word 0 last and by
itself (R431), and changes no memory, region or request. The model's choices: the turn of a queue and the row that stands
for a fetch (log 14), KIND REFUSED of ROLE_DENIED on an UNBOUND queue (log 111), and otherRow (log 134). -/
def Obligations.RingEntries : Prop :=
  ∀ (s : State) (q : Fin 8192) (e : Entry) (h : HostRead) (ok : Bool),
    let t := taken s q
    ((t.queue q.val).sqhead = ((s.queue q.val).sqhead + 1) % (s.queue q.val).sqSize ∧
      (t.queue q.val).reserved = (s.queue q.val).reserved + 1 ∧ (t.queue q.val).unfinished = (s.queue q.val).unfinished + 1 ∧
      (t.queue q.val).tail = (s.queue q.val).tail ∧ (∀ k, k ≠ q.val → t.queue k = s.queue k) ∧ t.mem = s.mem ∧ t.out = s.out ∧
      t.regions = s.regions ∧ t.reqs = s.reqs) ∧
    (s.mayFetch q.val = true → (s.queue q.val).en = true ∧ (s.queue q.val).tail ≠ (s.queue q.val).sqhead ∧
      (s.queue q.val).reserved < (s.queue q.val).freeCq) ∧
    (∀ x ∈ ringRows s q e h ok,
      (s.mayFetch q.val = false → opc e = x.1 → exec x.2 s = .next s) ∧
      (s.mayFetch q.val = true → (s.queue q.val).role = .unbound → opc e = x.1 ∨ opcAssigned (opc e) = false →
        exec x.2 s = refuses t q e 0x73) ∧
      (s.mayFetch q.val = true → (s.queue q.val).role ≠ .unbound →
        opcAssigned (opc e) = false ∨ (opc e = x.1 ∧ fld (wordAt e 0) 31 8 ≠ 0) → exec x.2 s = refuses t q e 0x2B) ∧
      (opc e ≠ x.1 → opcAssigned (opc e) = true → exec x.2 s = .refused .otherRow)) ∧
    (∀ (u : State) (status : Nat) (payload : List W64), payload.length ≤ 29 →
      let x := u.queue q.val
      let via := u.queueVia q.val
      let at_ := x.cqb + BitVec.ofNat 64 (256 * x.cqtail)
      let written := fun (kind : Nat) (payload : List W64) =>
        let w0 : W64 := BitVec.ofNat 64 (kind + 2 ^ 8 * status + 2 ^ 16 * b2n x.phase + 2 ^ 32 * (hostTag e).toNat)
        let rest : List W64 := BitVec.ofNat 64 (0xFFFF + 2 ^ 16 * x.sqhead) :: u.gc ::
          (payload ++ List.replicate (29 - payload.length) 0)
        ((u.sendTlp via (.hostWrite false (at_ + 8) (wordsBytes rest))).sendTlp via (.hostWrite true at_ (leBytes 8 w0.toNat))).out
      let same := fun (v : State) => v.mem = u.mem ∧ v.regions = u.regions ∧ v.reqs = u.reqs ∧ v.frames = u.frames ∧
        (∀ k, k ≠ q.val → v.queue k = u.queue k) ∧ (v.queue q.val).used = x.used + 1 ∧
        (v.queue q.val).reserved = x.reserved - 1 ∧ (v.queue q.val).unfinished = x.unfinished - 1
      (∃ rest, (u.cmdDone q.val (hostTag e) status payload).out = written 5 payload ++ rest) ∧
      same (u.cmdDone q.val (hostTag e) status payload) ∧
      (∃ rest, (u.refuse q.val (hostTag e) status).out = written 4 [] ++ rest) ∧ same (u.refuse q.val (hostTag e) status))

/-- Who may issue a command (R443, R445, R449, R452, R461). A TENANT queue is denied every owner-only command, and the
memory of a region but its own sealed one; the owner's queues are denied owner-only commands while the owner gate is closed,
and the memory of a sealed region; OWN_ENROLL and SILBOR_TOKEN are queue 0's. COPY_IN and COPY_OUT, which run at once, judge
the region as it is; the commands that a boundary applies count a creation that is still to be applied (R525). The model's
choices: the order of the checks and that a region counts as sealed while its sealed creation waits (log 112), and
ROLE_DENIED of OWN_ENROLL and SILBOR_TOKEN on other queues (log 121). -/
def Obligations.DeniedCommands : Prop :=
  ∀ (s : State) (q : Fin 8192) (e : Entry) (h : HostRead) (ok : Bool),
    let x := s.queue q.val
    let t := taken s q
    (∀ c ∈ ownerRows q e h ok, Takes s q e c.1 →
      (x.role = .tenant → exec c.2 s = completes t q e 0x73 []) ∧
      (x.role = .owner → s.ownerGate = false → exec c.2 s = completes t q e 0x70 [])) ∧
    (∀ c ∈ firstRows q e h, Takes s q e c.1 → x.role = .tenant ∨ q.val ≠ 0 → exec c.2 s = completes t q e 0x73 []) ∧
    (∀ c ∈ regionRows s q e h, Takes s q e c.1 →
      let now := decide (c.1 = 0x20 ∨ c.1 = 0x21)
      let there := if now then (s.region c.2.1).live else s.expected c.2.1
      (x.role = .tenant → x.brid ≠ c.2.1 ∨ (s.sealedRegion c.2.1 now = false ∧ there = true) →
        exec c.2.2 s = completes t q e 0x73 []) ∧
      (x.role = .owner → s.sealedRegion c.2.1 now = true → exec c.2.2 s = completes t q e 0x75 []))

/-- The commands that step boundaries apply (R194, R295, R309, R364, R408, R413, R433, R435, R525): a malformed payload
completes at once with the command's status of that, a region that does not exist with NO_REGION, and otherwise the command
waits, in fetch order, for its region's boundary; nothing else changes. A CANCEL of a FREE entry completes at once. The
model's choices: the payload layouts (log 39), the region that a command names (log 114), CANCEL of a FREE entry (log 116),
and the sealed check of GROUP_SET (log 112). -/
def Obligations.BoundaryCommands : Prop :=
  ∀ (s : State) (q : Fin 8192) (e : Entry) (h : HostRead),
    let t := taken s q
    (∀ c ∈ waitingRows s q e h, Takes s q e c.code → s.denied q.val c.who = none →
      (c.bad = true → exec c.row s = if c.mal = 0x2B then refuses t q e 0x2B else completes t q e c.mal []) ∧
      (c.bad = false → s.expected c.region = true → exec c.row s = .next (awaits t q e c.region c.row)) ∧
      (c.bad = false → s.expected c.region = false → exec c.row s = completes t q e 0x5A [])) ∧
    (Takes s q e 0x12 → s.denied q.val .owner = none → zeroFrom e 3 = true →
      exec (.regionCreate q e h) s = .next (awaits t q e (fld (wordAt e 1) 1 0) (.regionCreate q e h))) ∧
    (Takes s q e 0x60 → s.denied q.val .owner = none → zeroFrom e 3 = true →
      let n := fld (wordAt e 1) 13 12
      (s.sealedRegion n false = true → fld (wordAt e 1) 17 15 ≠ 0 → exec (.groupSet q e) s = completes t q e 0x75 []) ∧
      (s.sealedRegion n false = false ∨ fld (wordAt e 1) 17 15 = 0 → s.expected n = true →
        exec (.groupSet q e) s = .next (awaits t q e n (.groupSet q e)))) ∧
    (Takes s q e 0x31 → wn e 1 < 32768 → wn e 2 < 2 ^ 32 → zeroFrom e 3 = true → s.deniedEntry q (wn e 1) = none →
      ((s.req (wn e 1)).state = .free → exec (.cancel q e) s = completes t q e 0x40 []) ∧
      ((s.req (wn e 1)).state ≠ .free →
        exec (.cancel q e) s = .next (awaits t q e (s.req (wn e 1)).region (.cancel q e))))

/-- What waiting commands do at order 3 of a boundary of region n, one command at a time in fetch order (R6, R118, R194,
R204, R244, R245, R260, R273, R275, R277, R278, R280, R295, R296, R309, R364, R408, R413, R435, R450): the command completes
with its status. SERVE_SETUP puts an accepted set-up in force; IMAGE_LOAD puts an image in force, every frame of the region
holding its code and chain segments, with IMAGE_BUSY, IMAGE_MALFORMED, GRADE_MISMATCH and CODE_TOO_LARGE in this order, and
refuses with the status of the other checks; REGION_REMOVE removes the region and its data once its requests have ended, and
waits for writes to the partner; PREFIX_FLUSH makes the picked nodes DEAD and evicts those that are free; pages join and
leave pools; variants are loaded and unloaded; groups are set and cleared, a sealed region's only inside the module (R452).
For a region that is not live, REGION_CREATE creates it or refuses with Table 6-6's status or the sealed ones, and every
other command that R525 lists completes with NO_REGION; a CANCEL completes with NOT_CANCELLED (R309), and a DISABLE waits on
for the last release of its requests (R310). The model's choices: the payload layouts (log 39), SERVE_SETUP's order (log
93), VARIANT_LOAD without a geometry (log 95), GROUP_CLEAR of a group that is not set (log 96) and ports that are down (log
142). -/
def Obligations.CommandsApplied : Prop :=
  (∀ (s : State) (n : Nat) (q : Fin 8192) (e : Entry), (s.region n).live = true → (s.region n).removing = false →
    let r := s.region n
    let apply := fun (c : Instr) => applyCmds n s [{ queue := q.val, hosttag := hostTag e, cmd := c }]
    let done := fun (t : State) (status : Nat) (payload : List W64) => t.cmdDone q.val (hostTag e) status payload
    let set := fun (f : Region → Region) => s.modRegion n f
    (∀ im, r.image = some im →
      (∀ k, s.checkSetup im (setupOf e) (fun k => ((setupOf e).classes.getD k {}).guar) (r.cols s.nv) = .accept k →
        apply (.serveSetup q e) = done ((set fun r => { r with setup := some (setupOf e), demoted := 0 }).takeShot n) 0 []) ∧
      (∀ k short, s.checkSetup im (setupOf e) (fun k => ((setupOf e).classes.getD k {}).guar) (r.cols s.nv) = .refuse k short →
        apply (.serveSetup q e) = done s 0x41 [BitVec.ofNat 64 k, BitVec.ofNat 64 short])) ∧
    (r.image = none → apply (.serveSetup q e) = done s 0x43 []) ∧
    (s.gc.toNat < wn e 2 →
      apply (.stepHold q e) = done ((set fun r => { r with hold := some (wordAt e 2) }).takeShot n) 0 []) ∧
    (wn e 2 ≤ s.gc.toNat → apply (.stepHold q e) = done ((set fun r => { r with hold := none }).takeShot n) 0 []) ∧
    (wn e 3 ≠ 0 → apply (.digestTrace q e) = done (set fun r => { r with traceNext := some (wn e 2, wn e 3) }) 0 []) ∧
    (wn e 3 = 0 → apply (.digestTrace q e) = done (set fun r => { r with trace := none, traceNext := none }) 0 []) ∧
    (let w := wordAt e 1
     (badGeom w = true → apply (.kvGeometry q e) = done s 0x44 []) ∧
     (badGeom w = false → s.geomBusy n (fld w 0 0) = true → apply (.kvGeometry q e) = done s 0x45 []) ∧
     (badGeom w = false → s.geomBusy n (fld w 0 0) = false → apply (.kvGeometry q e) =
       done (set fun r => if fld w 0 0 = 0 then { r with geom0 := some (geomOf w).2 } else { r with geom1 := some (geomOf w).2 }) 0 [])) ∧
    (r.geom (wn e 1) = none → apply (.poolAdd q e) = done s 0x46 [] ∧ apply (.poolRemove q e) = done s 0x46 []) ∧
    (∀ g, r.geom (wn e 1) = some g → s.pageInside n (wn e 2) (wn e 3 * g.pageSize) = true →
      (∀ sl x, r.geom sl = some x → ∀ p ∈ r.pool sl, rangesMeet (wn e 2, wn e 3 * g.pageSize) (p.addr, x.pageSize) = false) →
      apply (.poolAdd q e) = done (set fun r => r.setPool (wn e 1) (r.pool (wn e 1) ++
        (List.range (wn e 3)).map fun i => { addr := wn e 2 + i * g.pageSize, st := .scrubbing })) 0 []) ∧
    (s.handleNode n (wordAt e 1) = none → apply (.handleRelease q e) = done s 0x4A []) ∧
    (∀ k, s.handleNode n (wordAt e 1) = some k → apply (.handleRelease q e) =
      done ((s.unbindHandle n (wordAt e 1)).dropRef n k) 0 []) ∧
    ((∀ v ∈ r.variants, v.num ≠ wn e 1 ∨ v.unloading = true) → apply (.variantUnload q e) = done s 0x26 []) ∧
    (r.geom0 = none → ∀ bs, apply (.variantLoad q e (some bs)) = done s 0x48 []) ∧
    (apply (.groupClear q e) = done (set fun r => { r with groups := smDel r.groups (fld (wordAt e 1) 11 0) }) 0 []) ∧
    (let g := groupFields (wordAt e 1) (wordAt e 2)
     (s.badGroup (wordAt e 1) (wordAt e 2) = true → apply (.groupSet q e) = done s 0x51 []) ∧
     let inside := r.sealed = false ∨ fld (wordAt e 1) 17 15 = 0
     (s.badGroup (wordAt e 1) (wordAt e 2) = false → ¬ inside → apply (.groupSet q e) = done s 0x75 []) ∧
     (s.badGroup (wordAt e 1) (wordAt e 2) = false → inside → s.outsideGroup g = false →
       r.lacksPorts g = true ∨ s.needsDownPort g = true → apply (.groupSet q e) = done s 0x53 []) ∧
     (s.badGroup (wordAt e 1) (wordAt e 2) = false → inside → s.outsideGroup g = false → r.lacksPorts g = false →
       s.needsDownPort g = false → r.group? g.gid = none → g.serving = false → g.drizzle = false → g.pshare = false →
       apply (.groupSet q e) =
         done (set fun r => { r with groups := smPut r.groups g.gid { w0 := wordAt e 1, w1 := wordAt e 2 } }) 0 [])) ∧
    (let x := s.req (wn e 1)
     wn e 2 < 2 ^ 32 → x.state ≠ .free → x.state ≠ .ended → x.tokenSent = false →
       (x.region = n → x.hosttag.toNat = wn e 2 → apply (.cancel q e) = done (s.endWith (wn e 1) 0x08) 0 []) ∧
       (x.region ≠ n ∨ x.hosttag.toNat ≠ wn e 2 → apply (.cancel q e) = done s 0x40 [])) ∧
    (∀ b : List Byte,
      let len := fld (wordAt e 2) 31 0
      let h := wordsOf 18 b
      let im := imageOf b (r.cols s.nv)
      let idle := ∀ x ∈ s.reqs, x.2.region ≠ n ∨ x.2.state = .free
      let other := fld (wordAt h 1) 0 0 ≠ b2n s.nv.grade352 ∨ fld (wordAt h 1) 9 1 ≠ s.nv.frames
      (¬ idle → apply (.imageLoad q e (some b)) = done s 0x67 []) ∧
      (idle → badImage b len (r.cols s.nv) = true → apply (.imageLoad q e (some b)) = done s 0x66 []) ∧
      (idle → badImage b len (r.cols s.nv) = false → other → apply (.imageLoad q e (some b)) = done s 0x60 []) ∧
      (idle → badImage b len (r.cols s.nv) = false → ¬ other → 0x20000 < (segment h 0).2 ∨ 0x1000 < (segment h 1).2 →
        apply (.imageLoad q e (some b)) = done s 0x61 []) ∧
      (s.imageStatus n b len ≠ 0 → apply (.imageLoad q e (some b)) = done s (s.imageStatus n b len) []) ∧
      (s.imageStatus n b len = 0 → ∃ t, apply (.imageLoad q e (some b)) = done t 0 [] ∧ t.mem = s.mem ∧ t.reqs = s.reqs ∧
        t.region n = { r with image := some im } ∧ (∀ k, k ≠ n → t.region k = s.region k) ∧
        (∀ f, r.holdsFrame s.nv f = true → t.frame f =
          { s.frame f with istore := storeWords im.code, cstore := storeWords im.chain, ctxs := [] }) ∧
        (∀ f, r.holdsFrame s.nv f = false → t.frame f = s.frame f))) ∧
    ((∀ x ∈ s.reqs, x.2.region ≠ n ∨ x.2.state = .free) → ∃ t, apply (.regionRemove q e) = done t 0 [] ∧
      (t.region n).live = false ∧ (∀ k, k ≠ n → t.region k = s.region k) ∧ t.reqs = s.reqs ∧
      ∀ a, memGet t.mem a = (if (t1Base n ≤ a ∧ a < t1Base n + r.t1Size) ∨ (t2Base n ≤ a ∧ a < t2Base n + r.t2Size) then 0
        else memGet s.mem a)) ∧
    (smWf {} s.reqs = true → (∃ x ∈ s.reqs, x.2.region = n ∧ x.2.state = .ended ∧ x.2.hoOut ≠ []) →
      let t := apply (.regionRemove q e)
      (t.region n).live = true ∧ (t.region n).removing = true ∧ (t.region n).disabled = true ∧ t.mem = s.mem) ∧
    (let pick := fun (d : Nat) => decide (wn e 2 = 1) || decide (d = wn e 1)
     (apply (.prefixFlush q e) = done (s.flush n pick) 0 []) ∧
     ((∀ k ∈ r.nodesUsed, pick (s.node n k).domain = false) → s.flush n pick = s) ∧
     (∀ k, r.nodesUsed = [k] → pick (s.node n k).domain = true →
       let t := s.modNode n k fun x => { x with dead := true }
       s.flush n pick = (if (t.node n k).leaf = true then t.evictNode n k else t))) ∧
    (∀ k, k ∉ ((s.evictNode n k).region n).nodesUsed) ∧
    (∀ g, r.geom (wn e 1) = some g → r.removals = [] →
      let ps := (List.range (wn e 3)).map fun i => wn e 2 + i * g.pageSize
      let stay := (r.pool (wn e 1)).filter fun p => !ps.contains p.addr
      ((∀ a ∈ ps, ∃ p ∈ r.pool (wn e 1), p.addr = a) → (∀ p ∈ r.pool (wn e 1), p.addr ∈ ps → p.st = .free) →
        ∃ t, apply (.poolRemove q e) = done t 0 [] ∧ (t.region n).pool (wn e 1) = stay ∧ (t.region n).removals = [] ∧
          t.mem = s.mem ∧ t.reqs = s.reqs) ∧
      ((∀ a ∈ ps, ∃ p ∈ r.pool (wn e 1), p.addr = a) → (∃ p ∈ r.pool (wn e 1), p.addr ∈ ps ∧ p.st ≠ .free) →
        let t := apply (.poolRemove q e)
        (t.region n).removals = [({ queue := q.val, hosttag := hostTag e, cmd := .poolRemove q e }, wn e 1, ps)] ∧
        t.out = s.out ∧ t.mem = s.mem ∧
        (∀ p ∈ (t.region n).pool (wn e 1), p.addr ∈ ps → p.leaving = true ∧ p.st ≠ .free) ∧ ∀ p ∈ stay, p ∈ (t.region n).pool (wn e 1))) ∧
    (∀ g bs, r.geom0 = some g →
      let k := wn e 2 / g.ppos * g.nl
      let ps := (r.freePages 0).take k
      (wn e 2 % g.ppos ≠ 0 ∨ 131072 < wn e 2 → apply (.variantLoad q e (some bs)) = done s 0x48 []) ∧
      (wn e 2 % g.ppos = 0 → wn e 2 ≤ 131072 → s.freeFor n 32768 0 < k → apply (.variantLoad q e (some bs)) = done s 0x49 []) ∧
      (wn e 2 % g.ppos = 0 → wn e 2 ≤ 131072 → k ≤ s.freeFor n 32768 0 → (∀ j, s.lostGranules j = []) →
        ∃ t, apply (.variantLoad q e (some bs)) = done t 0 [] ∧
          (t.region n).variants = r.variants ++ [{ num := wn e 1, uid := r.newUid, vlen := wn e 2, pages := ps }] ∧
          t.mem = writeAll s.mem (ps.mapIdx fun i a => (a, (bs.drop (i * g.pageSize)).take (2 * g.keyBytes))) ∧
          (∀ p ∈ (t.region n).pool 0, p.addr ∈ ps → p.st = .used))) ∧
    ((∃ v ∈ r.variants, v.num = wn e 1 ∧ v.unloading = false) → ∃ t, apply (.variantUnload q e) = done t 0 [] ∧ t.mem = s.mem ∧
      (∀ v ∈ (t.region n).variants, v.num = wn e 1 → v.unloading = true ∧ v.refs ≠ 0) ∧
      (∀ v ∈ r.variants, v.num ≠ wn e 1 → v.unloading = false → v ∈ (t.region n).variants) ∧
      (∀ v ∈ r.variants, v.num = wn e 1 → v.refs = 0 → ∀ p ∈ r.pool 0, p.addr ∈ v.pages →
        { p with st := .scrubbing } ∈ (t.region n).pool 0))) ∧
  (∀ (s : State) (n : Nat) (q : Fin 8192) (e : Entry) (blob : HostRead), (s.region n).live = false → n = fld (wordAt e 1) 1 0 →
    let w := wordAt e 1
    let r := regionOf w
    let apply := fun (c : Instr) => applyCmds n s [{ queue := q.val, hosttag := hostTag e, cmd := c }]
    let done := fun (t : State) (status : Nat) => t.cmdDone q.val (hostTag e) status []
    let taken := ∃ k, k < 4 ∧ ∃ u ∈ r.unitList, (s.region k).holdsUnit u.1 u.2 = true
    (badShape w = true → apply (.regionCreate q e blob) = done s 0x56) ∧
    (badShape w = false → taken → apply (.regionCreate q e blob) = done s 0x57) ∧
    (badShape w = false → ¬ taken → s.regionLost r = true → apply (.regionCreate q e blob) = done s 0x58) ∧
    (s.regionRefusal w = none → bitAt w 10 = false → ∃ t, apply (.regionCreate q e blob) = done t 0 ∧ t.mem = s.mem ∧
      t.region n = { r with bcmds := (s.region n).bcmds } ∧ (∀ k, k ≠ n → t.region k = s.region k) ∧ t.reqs = s.reqs) ∧
    (s.regionRefusal w = none → bitAt w 10 = true → s.sec.debug = true ∨ s.sec.unlocking = true →
      apply (.regionCreate q e blob) = done s 0x75) ∧
    (∀ b, s.regionRefusal w = none → bitAt w 10 = true → s.sec.debug = false → s.sec.unlocking = false → blob = some b →
      (s.unseal w b = none → apply (.regionCreate q e blob) = done s 0x76) ∧
      (∀ k, s.unseal w b = some k → ∃ t, apply (.regionCreate q e blob) = done t 0 ∧ t.mem = s.mem ∧
        t.region n = { r with bcmds := (s.region n).bcmds, sealId := sealId b, tpub := (b.drop 60).take 57 } ∧
        (∀ k, k ≠ n → t.region k = s.region k))) ∧
    (∀ c ∈ [Instr.serveSetup q e, .stepHold q e, .digestTrace q e, .imageLoad q e blob, .kvGeometry q e, .poolAdd q e,
      .poolRemove q e, .variantLoad q e blob, .variantUnload q e, .prefixFlush q e, .handleRelease q e, .groupSet q e,
      .groupClear q e, .regionRemove q e], apply c = done s 0x5A) ∧
    apply (.cancel q e) = done s 0x40 ∧ apply (.disable q e) = s)

/-- The commands that act at once (R310 to R314, R337, R339, R340). DISABLE makes its target refuse new submissions and
completes at once when no request of it accepted before the DISABLE is unreleased, else with the last release (here: it
waits); ENABLE reverses it; QUERY answers words 0 to 15 of the entry it names; PARTNER_PAIR stores the one pairing;
PARTNER_UNPAIR removes it unless a handoff request is not FREE; LAYOUT_SET stores a descriptor that no request that is not
FREE names. The model's choices: the payload layouts (log 39), which requests a DISABLE waits for (log 106), and that
PARTNER_MALFORMED comes before PARTNER_PAIRED and what makes a layout busy (log 120). -/
def Obligations.ImmediateCommands : Prop :=
  ∀ (s : State) (q : Fin 8192) (e : Entry),
    let t := taken s q
    let kind := wn e 1
    let target := wn e 2
    (Takes s q e 0x34 → wn e 1 < 32768 → zeroFrom e 2 = true → s.deniedEntry q (wn e 1) = none →
      exec (.query q e) s = completes t q e 0 (s.req (wn e 1)).words) ∧
    (Takes s q e 0x33 → badTarget e = false → zeroFrom e 3 = true → s.deniedTarget q kind target = none →
      exec (.enable q e) s = completes (t.setDisabled kind target false) q e 0 []) ∧
    (Takes s q e 0x32 → badTarget e = false → wn e 3 < 2 → zeroFrom e 4 = true → s.deniedTarget q kind target = none →
      let due := fun (x : Req) => x.state ≠ .free ∧ targetOf kind target x = true ∧ x.order < s.hif.fetchOrder
      ((∀ y ∈ s.reqs, ¬ due y.2) → exec (.disable q e) s = completes (t.setDisabled kind target true) q e 0 []) ∧
      ((∃ y ∈ s.reqs, due y.2) →
        ∃ u, exec (.disable q e) s = .next u ∧ u.mem = s.mem ∧ u.out = s.out ∧
          (kind = 0 → (u.queue target).disabled = true) ∧ (kind = 1 → (u.region target).disabled = true) ∧
          (kind = 2 → u.ho.disabled = true) ∧
          (wn e 3 = 1 → ∀ n, n < 4 → (∃ i x, (i, x) ∈ s.reqs ∧ x.region = n ∧ x.state ≠ .free ∧ targetOf kind target x = true) →
            (u.region n).bcmds = (s.region n).bcmds ++
              [{ queue := q.val, hosttag := hostTag e, cmd := .disable q e, upTo := s.hif.fetchOrder }]))) ∧
    (Takes s q e 0x50 → s.denied q.val .owner = none → badPairing e = false →
      (s.ho.pairing.isSome = true → exec (.partnerPair q e) s = completes t q e 0x4C []) ∧
      (s.ho.pairing = none → exec (.partnerPair q e) s = completes (t.pair (pairingOf e)) q e 0 [] ∧
        (t.pair (pairingOf e)).ho.pairing = some (pairingOf e))) ∧
    (Takes s q e 0x51 → s.denied q.val .owner = none → zeroFrom e 1 = true →
      ((∀ y ∈ s.reqs, y.2.state = .free ∨ y.2.handoff = false) → exec (.partnerUnpair q e) s = completes t.unpair q e 0 [] ∧
        t.unpair.ho.pairing = none) ∧
      ((∃ y ∈ s.reqs, y.2.state ≠ .free ∧ y.2.handoff = true) → exec (.partnerUnpair q e) s = completes t q e 0x4E [])) ∧
    (Takes s q e 0x52 → s.denied q.val .owner = none → wn e 1 < 256 → zeroFrom e 10 = true →
      let w := (List.range 8).map fun j => wordAt e (j + 2)
      ((∃ y ∈ s.reqs, y.2.state ≠ .free ∧ y.2.layout = wn e 1) → exec (.layoutSet q e) s = completes t q e 0x4F []) ∧
      ((∀ y ∈ s.reqs, y.2.state = .free ∨ y.2.layout ≠ wn e 1) →
        (s.badLayout w = true → exec (.layoutSet q e) s = completes t q e 0x50 []) ∧
        (s.badLayout w = false → exec (.layoutSet q e) s =
          completes { t with ho := { t.ho with layouts := smPut t.ho.layouts (wn e 1) w } } q e 0 [])))

/-- REQUEST (R285, R286, R430): the first refusal that holds is posted and nothing is taken; a submission that none refuses
becomes the request of the lowest FREE entry, QUEUED, with the fields of its entry, its arrival and its deadline. The
model's choices: that SEALED_DENY comes before the MALFORMED check (log 112), and the bounds of that check (log 113). -/
def Obligations.RequestSubmitted : Prop :=
  ∀ (s : State) (q : Fin 8192) (e : Entry) (tokens stops : HostRead), Takes s q e 0x01 →
    let t := taken s q
    let x := s.queue q.val
    let r := requestOf e
    let i := lowestFree 0 s.reqs
    let left := t.requestRefusal q.val e tokens stops
    (∀ status, left = some status → exec (.request q e tokens stops) s = refuses t q e status) ∧
    (x.role = .owner → s.sealedRegion x.rid true = true → left = some 0x75) ∧
    ((x.role = .tenant ∨ s.sealedRegion x.rid true = false) → badRequest e x.rid tokens stops = true → left = some 0x2B) ∧
    (left = none → ∃ u, exec (.request q e tokens stops) s = .next u ∧ u.regions = s.regions ∧ u.out = s.out ∧
      (∀ j, j ≠ i → u.req j = s.req j) ∧
      (smWf {} s.reqs = true → (s.req i).state = .free ∧ ∀ j, j < i → (s.req j).state ≠ .free) ∧
      (u.req i).state = .queued ∧ (u.req i).queue = q.val ∧ (u.req i).region = x.rid ∧ (u.req i).hosttag = hostTag e ∧
      (u.req i).promptLen = r.promptLen ∧ (u.req i).budget = r.budget ∧ (u.req i).kmax = r.kmax ∧
      (u.req i).arrival = s.gc ∧ (u.req i).handle = r.handle ∧ (u.req i).domain = r.domain ∧
      (∀ su, (s.region x.rid).setup = some su →
        (u.req i).ttftdl = s.gc + BitVec.ofNat 64 (su.classes.getD r.cls {}).ttft))

/-- COPY_IN and COPY_OUT (R433, R434, R488): a range out of the region's reach moves nothing; COPY_IN writes the host's
bytes, COPY_OUT sends the region's bytes to the host, in the queue's stream where the region is sealed, and each completes
at once. A COPY_IN while the region's compute runs is noted as a write with which reads of the step race, and a COPY_OUT
then gives old or new bytes, by a free value, where writes of the step race with it (R125, R434; log 149). The model's
choices: the refusals of a misaligned copy, of DIAG and of LENGTH 0 (log 118), and the stream that a copy uses (log 175). -/
def Obligations.HostCopies : Prop :=
  ∀ (s : State) (q : Fin 8192) (e : Entry) (bs : List Byte),
    let t := taken s q
    let n := s.ridOf q
    let a := fld (wordAt e 2) 47 0
    let len := fld (wordAt e 3) 39 0
    s.denied q.val (.memory n true) = none → badCopy e = false →
    (∀ status, s.copyRefusal q e = some status →
      (Takes s q e 0x20 → exec (.copyIn q e (some bs)) s = completes t q e status []) ∧
      (Takes s q e 0x21 → exec (.copyOut q e) s = completes t q e status [])) ∧
    (s.copyRefusal q e = none → bitAt (wordAt e 3) 40 = false → s.lostGranules n = [] →
      (Takes s q e 0x20 → ∃ u : State, exec (.copyIn q e (some bs)) s = .next (u.cmdDone q.val (hostTag e) 0 []) ∧
        u.mem = writeBytes s.mem a (bs.take len) ∧ u.reqs = s.reqs ∧ u.regions = s.regions ∧
        ((s.region n).run = .waiting → u.races = s.races) ∧
        ((s.region n).run ≠ .waiting → ∃ ev, u.races = ev :: s.races ∧ ev.writer = .copy n ∧ ev.addr = a ∧
          ev.old = readBytes s.mem a (bs.take len).length ∧ ev.seen = [])) ∧
      (Takes s q e 0x21 → (s.region n).run = .waiting ∨ s.racing (.host n) a len = [] → exec (.copyOut q e) s =
        let u := t.wakeRegion n
        completes (u.sendTlp (u.queueVia q.val) (.hostWrite false (wordAt e 1) (readBytes s.mem a len))) q e 0 []) ∧
      (Takes s q e 0x21 → (s.region n).run ≠ .waiting → s.racing (.host n) a len ≠ [] → exec (.copyOut q e) s =
        let u := t.wakeRegion n
        let bytes := racedBytes s.mem s.races (fun x => x.races (.host n)) (fun x => x.known (.host n)) a len u.freeCtr
        let v := { u with freeCtr := u.freeCtr + granules a len }
        completes (v.sendTlp (v.queueVia q.val) (.hostWrite false (wordAt e 1) bytes)) q e 0 []))

/-! ## The owner, firmware, sessions -/

/-- Ownership and bindings (R443, R446, R447, R452, R461, R462). OWN_ENROLL stores the key of the open session, once;
OWN_RELEASE, or a token of KIND 2, erases the key, unbinds every queue but queue 0, marks every region for removal, and
drops the CAK, the fabric key, the pairing, the layouts and the ownership session; QUEUE_BIND sets a binding; a token of
KIND 1 under an ownership session erases the keys, so that memory can no longer be read as it stands, ends the sessions and
has every region removed, and sets DEBUG once none is left. Firmware and reports (R455 to R459). An image that the checks
refuse changes nothing in flash; one that they accept replaces the one in flash and runs from the next reset; SVN_COMMIT
blows the fuses up to the running SVN, never down; REPORT writes the signed report to host memory. RECOVERY_GO acts in
recovery only, and on success resets the module. The model's choices: tokens and OWN_RELEASE (log 121), QUEUE_ENABLED before
STREAM_INVALID (log 122), an interrupted flash write (log 124), that DEBUG is set once the last region is gone (log 177),
and what scrambled memory reads as (log 165). -/
def Obligations.OwnerAndFirmware : Prop :=
  (∀ (s : State) (q : Fin 8192) (e : Entry) (tok : List Byte),
    let t := taken s q
    let dropped := fun (u : State) => u.nv.ownerKey = none ∧ u.sec.cak = none ∧ u.sec.fabricKey = none ∧
      u.ho.pairing = none ∧ u.ho.layouts = [] ∧ (∀ k, k ≠ 0 → (u.queue k).role = .unbound) ∧
      (∀ n, (s.region n).live = true → (u.region n).removing = true) ∧ (∀ x ∈ u.sec.sessions, x.kind ≠ .ownership) ∧
      u.mem = s.mem
    (Takes s q e 0x10 → s.denied q.val .first = none → ((wordBytes e 1 8).drop 57).all (fun b => decide (b = 0)) = true →
      zeroFrom e 9 = true →
      let key := (wordBytes e 1 8).take 57
      (s.nv.ownerKey.isSome = true → exec (.ownEnroll q e) s = completes t q e 0x71 []) ∧
      (s.nv.ownerKey = none → s.candidate.map (·.key) ≠ some key → exec (.ownEnroll q e) s = completes t q e 0x72 []) ∧
      (s.nv.ownerKey = none → s.candidate.map (·.key) = some key →
        exec (.ownEnroll q e) s = completes { t with nv := { t.nv with ownerKey := some key } } q e 0 [])) ∧
    (Takes s q e 0x11 → s.denied q.val .owner = none → zeroFrom e 1 = true →
      ∃ u, exec (.ownRelease q e) s = .next u ∧ dropped u) ∧
    (Takes s q e 0x14 → s.denied q.val .owner = none → badBind (wordAt e 1) = false → zeroFrom e 2 = true →
      let w := wordAt e 1
      let k := fld w 12 0
      let n := fld w 16 15
      ((s.queue k).en = true → exec (.queueBind q e) s = completes t q e 0x7B []) ∧
      ((s.queue k).en = false → fld w 14 13 = 2 → (s.region n).sealed = true → s.tenantStream n (fld w 18 17) = false →
        exec (.queueBind q e) s = completes t q e 0x77 []) ∧
      ((s.queue k).en = false → ¬(fld w 14 13 = 2 ∧ (s.region n).sealed = true ∧ s.tenantStream n (fld w 18 17) = false) →
        exec (.queueBind q e) s = completes (t.modQueue k fun x => { x with
          role := if fld w 14 13 = 0 then .unbound else if fld w 14 13 = 1 then .owner else .tenant, brid := n,
          stream := fld w 18 17, diagok := bitAt w 19, domlo := fld w 35 20, domhi := fld w 51 36 }) q e 0 [])) ∧
    (Takes s q e 0x18 → s.denied q.val .first = none → zeroFrom e 2 = true →
      (s.tokenKind tok = none → exec (.silborToken q e (some tok)) s = completes t q e 0x78 []) ∧
      (s.tokenKind tok = some 1 → s.ownerSession = false → exec (.silborToken q e (some tok)) s = completes t q e 0x70 []) ∧
      (s.tokenKind tok = some 1 → s.ownerSession = true → ∃ u, exec (.silborToken q e (some tok)) s = .next u ∧
        u.sec.sessions = [] ∧ u.mc.keys = [] ∧ u.sec.cak = none ∧ u.sec.chal = s.freeCtr ∧
        ((∀ n, n < 4 → (s.region n).live = false) → u.sec.debug = true) ∧
        ((∃ n, n < 4 ∧ (s.region n).live = true) → u.sec.debug = s.sec.debug ∧ u.sec.unlocking = true) ∧
        (∀ n, (s.region n).live = true → (u.region n).removing = true ∧ (u.region n).abortAll = true) ∧ u.mem = s.scramble.mem) ∧
      (s.tokenKind tok = some 2 → ∃ u, exec (.silborToken q e (some tok)) s = .next u ∧ dropped u ∧
        u.sec.chal = s.freeCtr))) ∧
  (∀ (s : State) (q : Fin 8192) (e : Entry) (img : List Byte) (ok : Bool),
    let t := taken s q
    let check := checkImage s.nv.rollback img (wn e 2)
    (Takes s q e 0x15 → s.denied q.val .owner = none → wn e 2 < 2 ^ 32 → zeroFrom e 3 = true →
      (check = .badSignature → exec (.fwUpdate q e (some img) ok) s = completes t q e 0x79 []) ∧
      (check = .lowSvn → exec (.fwUpdate q e (some img) ok) s = completes t q e 0x7A []) ∧
      (∀ f, check = .good f →
        exec (.fwUpdate q e (some img) true) s = completes { t with nv := { t.nv with fw := some f } } q e 0 [] ∧
        exec (.fwUpdate q e (some img) false) s = .next { t with nv := { t.nv with fw := none } })) ∧
    (Takes s q e 0x16 → s.denied q.val .owner = none → zeroFrom e 1 = true →
      exec (.svnCommit q e) s =
        completes { t with nv := { t.nv with rollback := max s.nv.rollback s.fwSvn } } q e 0 []) ∧
    (Takes s q e 0x17 → zeroFrom e 6 = true →
      exec (.report q e) s = completes (t.sendTlp (t.queueVia q.val) (.hostWrite false (wordAt e 1) (t.report (wordBytes e 2 4)))) q e 0 []) ∧
    (s.barUp = true → s.sec.recovery = false → exec (.recoveryGo (some img) ok) s = .next s.wakeUp.badAccess) ∧
    (s.barUp = true → s.sec.recovery = true →
      let result := fun (r : BitVec 3) => Host.Outcome.next { s with sec := { s.sec with recovResult := r } }
      let c := checkImage s.nv.rollback img s.sec.recovLen.toNat
      exec (.recoveryGo none ok) s = result 4 ∧
      (c = .badSignature → exec (.recoveryGo (some img) ok) s = result 2) ∧
      (c = .lowSvn → exec (.recoveryGo (some img) ok) s = result 3) ∧
      (∀ f, c = .good f →
        (s.sys.stage ≠ 0 → ∃ u, exec (.recoveryGo (some img) true) s = .next u ∧ u.nv = { s.nv with fw := some f } ∧
          u.sys.stage = 1 ∧ u.sys.lastreset = 3 ∧ u.mem = []) ∧
        exec (.recoveryGo (some img) false) s =
          .next { s with nv := { s.nv with fw := none }, sec := { s.sec with recovResult := 6 } })))

/-- SPDM sessions and IDE (R422, R443, R444, R452, R453, R460). A session opens with the kind that its requester key gets,
within the limits on open sessions, an ownership session ending the earlier one; one that ends or misses its heartbeat
closes, and nothing else changes; only the owner's or a tenant's session over DOE keys a stream, the link stream under the
owner's alone and a selective stream in the session that keyed it first; KEY_PROG delivers keys and K_SET_GO switches to
them; a TLP outside a stream is counted and discarded. While a stream is enabled no TLP leaves outside one, and a sealed
region's leave in a stream of its tenant or not at all; which stream the others take is the model's choice (log 175). The
SPDM responder's messages on the GET_MEASUREMENTS row (log 176) and the kinds of session (log 123) are the model's choices
too. -/
def Obligations.SessionsAndStreams : Prop :=
  ∀ (s : State),
    (∀ side mutualAuth key,
      let up := if side then decide (s.pwr.rail ≠ .off) else s.hostUp && decide (3 ≤ s.sys.stage.toNat)
      let kind := s.sessionKind side mutualAuth key
      let old := s.sec.sessions.filter fun x => decide (kind ≠ .ownership) || decide (x.kind ≠ .ownership)
      let heard := if side then s.wakeUp else s
      (up = false → exec (.spdmKeyExchange side mutualAuth key) s = .next s) ∧
      (up = true → kind.limit ≤ (old.filter fun x => decide (x.kind = kind)).length →
        exec (.spdmKeyExchange side mutualAuth key) s = .next (heard.emit .spdmError)) ∧
      (up = true → (old.filter fun x => decide (x.kind = kind)).length < kind.limit →
        ∃ t, exec (.spdmKeyExchange side mutualAuth key) s = .next t ∧
          t.sec.sessions = old ++ [{ id := s.sec.nextSess, kind := kind, key := key, sideband := side }] ∧
          t.nv = s.nv ∧ t.mem = s.mem ∧ t.regions = s.regions) ∧
      (side = true ∨ mutualAuth = false → kind = .attestation) ∧
      (side = false → mutualAuth = true → s.nv.ownerKey = some key → kind = .ownership)) ∧
    (∀ id,
      let closed := fun (w : State) =>
        { w with sec := { w.sec with sessions := w.sec.sessions.filter fun x => decide (x.id ≠ id) } }
      exec (.spdmHeartbeatExpiry id) s = .next (closed s) ∧
      (∀ x, s.sec.sessions.find? (fun x => decide (x.id = id)) = some x →
        exec (.endSession id) s = .next ((closed (if x.sideband then s.wakeUp else s)).emit (.spdm []))) ∧
      ((∀ x ∈ s.sec.sessions, x.id ≠ id) → exec (.endSession id) s = .next (s.emit .spdmError))) ∧
    (∀ side, (if side then decide (s.pwr.rail ≠ .off) else s.hostUp && decide (3 ≤ s.sys.stage.toNat)) = true →
      let heard := if side then s.wakeUp else s
      let ask := fun (g : SpdmGet) => exec (.spdmGetMeasurements side g) s
      let signed := fun (bs nonce : List Byte) =>
        Host.Outcome.next (heard.emit (.spdm (bs ++ Config.ed448Sign s.aliasSeed (bs ++ nonce))))
      (∀ block nonce,
        (block.toNat = 0 → ask (.measurements block nonce) = signed [9] nonce) ∧
        (1 ≤ block.toNat → block.toNat ≤ 9 → ask (.measurements block nonce) = signed (s.measurement block.toNat) nonce) ∧
        (block.toNat = 255 → ask (.measurements block nonce) =
          signed ([1, 2, 3, 4, 5, 6, 7, 8, 9].flatMap s.measurement) nonce) ∧
        (9 < block.toNat → block.toNat < 255 → ask (.measurements block nonce) = .next (heard.emit .spdmError))) ∧
      (∀ slot nonce,
        (slot.toNat = 0 → ask (.certificate slot) = .next (heard.emit (.spdm s.certificateChain)) ∧
          ask (.challenge slot nonce) = signed s.certificateChain nonce) ∧
        (slot.toNat ≠ 0 → ask (.certificate slot) = .next (heard.emit .spdmError) ∧
          ask (.challenge slot nonce) = .next (heard.emit .spdmError))) ∧
      (∀ g ∈ [SpdmGet.version, .capabilities, .algorithms], ∃ bs, ask g = .next (heard.emit (.spdm bs))) ∧
      (∀ id, (∀ x ∈ s.sec.sessions, x.id ≠ id) → ask (.keyUpdate id) = .next (heard.emit .spdmError)) ∧
      (∀ id, (∃ x ∈ s.sec.sessions, x.id = id) → ∃ t, ask (.keyUpdate id) = .next t ∧
        t.sec.sessions = s.sec.sessions.map (fun x => if x.id = id then { x with keyNo := x.keyNo + 1 } else x) ∧ t.nv = s.nv ∧
        t.mem = s.mem)) ∧
    (∀ id stream keys x, s.authSession id = some x →
      (s.mayKey stream x = true →
        ∃ t, exec (.keyProg id stream keys) s = .next t ∧ (t.ide stream).pending = keys ∧
          (t.ide stream).current = (s.ide stream).current ∧ (t.ide stream).owner = some x.key ∧
          (t.ide stream).session = some x.id ∧ (∀ k, k ≠ stream → t.ide k = s.ide k)) ∧
      (s.mayKey stream x = false → exec (.keyProg id stream keys) s = .next (s.emit .spdmError) ∧
        exec (.kSetGo id stream) s = .next (s.emit .spdmError)) ∧
      (s.mayKey stream x = true → (s.ide stream).pending ≠ [] →
        ∃ t, exec (.kSetGo id stream) s = .next t ∧ (t.ide stream).enabled = true ∧
          (t.ide stream).current = (s.ide stream).pending ∧ (t.ide stream).pending = [] ∧
          (∀ k, k ≠ stream → t.ide k = s.ide k)) ∧
      (∀ k : Fin 4, stream = .selective k → ∀ first, (s.ide stream).session = some first → first ≠ x.id → s.mayKey stream x = false) ∧
      (x.kind ≠ .ownership → s.mayKey .link x = false ∧
        ∀ secret, exec (.vendorDefinedRequest id secret) s = .next (s.emit .spdmError)) ∧
      (x.kind = .ownership →
        (∀ ckn key, exec (.vendorDefinedRequest id (.cak ckn key)) s =
          .next (({ s with sec := { s.sec with cak := some (ckn, key) } }).emit (.spdm []))) ∧
        ∀ key, exec (.vendorDefinedRequest id (.fabricKey key)) s =
          .next (({ s with sec := { s.sec with fabricKey := some key } }).emit (.spdm [])))) ∧
    (∀ id, s.authSession id = none → ∀ stream keys secret,
      exec (.keyProg id stream keys) s = .next (s.emit .spdmError) ∧
      exec (.kSetGo id stream) s = .next (s.emit .spdmError) ∧
      exec (.vendorDefinedRequest id secret) s = .next (s.emit .spdmError)) ∧
    (let on := s.sec.linkIde.enabled = true ∨ ∃ x ∈ s.sec.selIde, x.2.enabled = true
     (on → exec .tlpOutsideIde s = .next { s with sec := { s.sec with tlpDiscards := s.sec.tlpDiscards + 1 } }) ∧
     (¬on → exec .tlpOutsideIde s = .next s ∧ ∀ o, s.sendTlp none o = s.emit o) ∧
     (on → ∀ o, s.sendTlp none o = s ∨ ∃ k, s.sendTlp none o = s.emit (.inStream k o) ∧ (s.ide k).enabled = true) ∧
     (∀ (n : Nat) (k : Fin 4) o,
       ((s.ide (.selective k)).enabled = true → (s.ide (.selective k)).owner = some (s.region n).tpub →
         s.sendTlp (some (n, k.val)) o = s.emit (.inStream (.selective k) o)) ∧
       ((s.ide (.selective k)).enabled = false ∨ (s.ide (.selective k)).owner ≠ some (s.region n).tpub →
         s.sendTlp (some (n, k.val)) o = s)))

/-! ## Steps -/

/-- The events about a region's step. STEP_BOUNDARY acts once compute has ended, the module is awake and no plan awaits its
launch value (or a hold keeps it: from UNTIL on none does, R408), and is then orders 1 to 9 of Table 9-4 (R289), order 1
only where a step has ended (log 74); SCRUB_DONE zeroes its page, or its table block, and frees it (R260, R263);
GROUP_LAUNCH starts a planned step at the agreed value, every context of the region's frames at the entry that the image
gives it (R147, R290, R399); STEP_HOLD_RELEASE ends a hold whose tick has come (R408). That a boundary which waits during a
hold runs order 9 and plans again at each repetition is the model's choice (log 144). -/
def Obligations.StepEvents : Prop :=
  ∀ (s : State) (rid : Fin 4),
    let n := rid.val
    let r := s.region n
    (∀ env, s.awake = false ∨ (r.planned = true ∧ s.onHold n = false) ∨ s.computeEnded n = false → exec (.stepBoundary rid env) s = .next s) ∧
    (∀ env, s.awake = true → r.planned = false ∨ s.onHold n = true → r.live = true ∨ r.bcmds ≠ [] → s.computeEnded n = true →
      let a := s.beginBatch.applyCaps
      let b := if (a.region n).run = .waiting then a.unplan n else a
      let one := if (b.region n).live = true ∧ (b.region n).run ≠ .waiting then (b.orderOne n env).raiseAlert else b
      let two := if (one.region n).live then (one.orderTwo n).restoreRegion n else one
      let three := (two.readyVariants n).orderThree n
      let nine := if (three.region n).live = false then three.finishDrains
        else if (three.region n).removing = true then three.finishDrains.takeShot n
        else (((((three.releaseEnded n).finishDrains).orderFive n).orderSix n).orderEight n).orderNine n
      let kept := if nine.moving n then nine.wakeRegion n else nine
      exec (.stepBoundary rid env) s = .next kept.pushHandoff.endBatch) ∧
    (∀ item, s.awake = false → exec (.scrubDone rid item) s = .next s) ∧
    (∀ (slot : Fin 2) (addr : Nat) (p : Page) (g : Geom), (r.pool slot.val).find? (fun x => decide (x.addr = addr)) = some p →
      r.geom slot.val = some g →
      (p.st ≠ .scrubbing → exec (.scrubDone rid (.page slot addr)) s = .next s) ∧
      (s.awake = true → (∀ k, s.lostGranules k = []) → p.st = .scrubbing → p.leaving = false → r.removals = [] →
        ∃ t, exec (.scrubDone rid (.page slot addr)) s = .next t ∧
          (∀ x, memGet t.mem x = (if addr ≤ x ∧ x < addr + g.pageSize then 0 else memGet s.mem x)) ∧
          ((t.region n).pool slot.val).find? (fun x => decide (x.addr = addr)) = some { p with st := .free })) ∧
    (∀ k, s.awake = true → (∀ k, s.lostGranules k = []) → (∃ b ∈ r.tblocks, b.n = k ∧ b.scrubbing = true) →
      ∃ t, exec (.scrubDone rid (.block k)) s = .next t ∧ (∀ b ∈ (t.region n).tblocks, b.n ≠ k) ∧
        ∀ x, memGet t.mem x = (if s.blockAddr n k ≤ x ∧ x < s.blockAddr n k + 4096 then 0 else memGet s.mem x)) ∧
    (s.launchValue n = none → exec (.groupLaunch rid) s = .next s) ∧
    (∀ v im, s.launchValue n = some v → s.isReady = true → r.planned = true → s.mayLaunch n = true → r.image = some im →
      (s.gc.toNat < v → exec (.groupLaunch rid) s = .next s) ∧
      (v ≤ s.gc.toNat → ∃ t, exec (.groupLaunch rid) s = .next t ∧ (t.region n).run = .stepping ∧
        (t.region n).planned = false ∧ (t.region n).stepNo = r.stepNo + 1 ∧ (t.region n).faultRecs = [] ∧ t.mem = s.mem ∧
        (∀ k, k ≠ n → t.region k = s.region k) ∧
        ∀ w : ThreadId, r.holdsFrame s.nv w.frame.val → w.frame.val < s.nv.frames →
          let pc := im.entries.getD (w.core.val * 16 + w.ctx.val) 0x1FFF8
          (t.ctx w).pc = BitVec.ofNat 64 pc ∧ (t.ctx w).run = (if pc = 0x1FFF8 then .halted else .running) ∧
          (t.ctx w).srseed = (s.ctx w).srseed)) ∧
    (r.hold = none → exec (.stepHoldRelease rid) s = .next s) ∧
    (∀ u, r.hold = some u → s.awake = false ∨ s.gc.toNat < u.toNat → exec (.stepHoldRelease rid) s = .next s) ∧
    (∀ u, r.hold = some u → s.awake = true → u.toNat ≤ s.gc.toNat →
      (∃ t, exec (.stepHoldRelease rid) s = .next t ∧ (t.region n).hold = none ∧ t.mem = s.mem) ∧
      (r.planned = true → exec (.stepHoldRelease rid) s = .next (s.modRegion n fun r => { r with hold := none })))

/-- The watchdogs (R150, R293, R305, R306). A context that waits in a region whose compute runs faults with WAIT_TIMEOUT at
its pc; a step past its time stops with code 0x14, the place in the record being free (log 35). After SETUP_RECHECK every
region with a set-up and an image passes the check of R296 with the guarantees that it then has. -/
def Obligations.Watchdogs : Prop :=
  ∀ (s : State),
    (∀ (w : ThreadId) (n : Nat), w.frame.val < s.nv.frames → s.regionOfFrame w.frame.val = some n →
      ((s.region n).run = .waiting → exec (.stepWatchdogExpiry w) s = .next s) ∧
      (∀ x, (s.region n).run ≠ .waiting → (s.ctx w).run = .blocked x →
        exec (.stepWatchdogExpiry w) s = .next (s.programFault w (s.ctx w).pc .waitTimeout 0))) ∧
    (∀ w : ThreadId, s.nv.frames ≤ w.frame.val → exec (.stepWatchdogExpiry w) s = .fault .absentFrame) ∧
    (∀ rid : Fin 4,
      ((s.region rid.val).run ≠ .stepping → exec (.stepTimeout rid) s = .next s) ∧
      ((s.region rid.val).run = .stepping → (s.region rid.val).faultRecs = [] →
        ∃ t rec, exec (.stepTimeout rid) s = .next t ∧ (t.region rid.val).run = .stopping ∧
          (t.region rid.val).faultRecs = [rec] ∧ fld rec 7 0 = 0x14 ∧ t.mem = s.mem)) ∧
    (s.isReady = false → exec .setupRecheck s = .next s) ∧
    (s.isReady = true → ∃ t, exec .setupRecheck s = .next t ∧ t.mem = s.mem ∧
      ∀ n su im, n < 4 → (s.region n).setup = some su → (s.region n).image = some im →
        ∃ k, t.checkSetup im su (t.region n).guaranteed ((t.region n).cols t.nv) = .accept k)

/-- The order of Table 9-5 (R302, R304): of the ends that hold for a request at once, the first in the table is its end.
PEER_FETCH keeps the blocks that a peer sent for a request that waits for them, to be verified at order 5 of the next
boundary, which is the model's choice (log 73); for any other request nothing happens. What orders 4 to 9 of a boundary do
(Table 9-4). Order 4: an ended request whose writes have been acknowledged becomes FREE and no other entry changes; its own
pages and table blocks go to be zeroed, its headers and its sampler record are zeroed (R263, R321). Order 5: the blocks that
are due are inserted in order; one that stands in the tree with the same tokens is matched, one with other tokens counts a
collision, a DEAD parent or a lack of room stops the request's insertions, and a new node hangs on the request's chain
(R270, R271). Order 6: earmarks, then admissions in increasing CLASS, TTFTDL and fetch order; an admitted request is in
PROMPT with its pages and blocks taken, and one that is not is refused with PAGES_SHORT, TABLE_SHORT or DEADLINE_SHORT or
waits (R261, R287, R288). Order 7: the lead width (R291). Order 8: lead entries and prompt grants within the chunk capacity,
and the snapshot (R257, R293). Order 9: the launch, or the plan of a serving group (R289, R290, R408). The model's choices:
PROMPT_RANGE for extents past 262,144 (log 166), the capacity of DEADLINE_SHORT (log 192), and one member's order 9 during a
hold (log 144). -/
def Obligations.RequestsInSteps : Prop :=
  (∀ (s : State) (n i : Nat) (x : Option StepReq) (late : Bool),
    let r := s.region n
    let q := s.req i
    let met := fun (f : StepReq → Bool) => match x with | some y => f y | none => false
    let order := [(r.faulted && !r.noEnd && x.isSome, 0x0F), (q.walkRace || met (·.race), 0x0E),
      (q.walkInvalid || met (·.invalid), 0x0C), (met (·.readonly), 0x0D), (r.aborts q, q.forcedStatus 0x0A),
      (q.walkLimit || met (·.limit), 0x0B), (late && r.latePolicy q.cls, 0x09)]
    s.earlyEnd n i x late = (order.find? fun y => y.1).map (·.2)) ∧
  (∀ (s : State) (rid : Fin 4) (i : Fin 32768) (nodes : List FetchedNode),
    (s.isReady = true → (s.req i.val).fetching = true → (s.req i.val).region = rid.val →
      ∃ t, exec (.peerFetch rid i nodes) s = .next t ∧ (t.req i.val).fetched = nodes ∧ (t.req i.val).fetching = false ∧
        (∀ j, j ≠ i.val → t.req j = s.req j) ∧ t.mem = s.mem ∧ t.regions = s.regions) ∧
    ((s.req i.val).fetching = false → exec (.peerFetch rid i nodes) s = .next s)) ∧
  (∀ (s : State) (n i : Nat), smWf {} s.reqs = true →
    let due := (s.req i).region = n ∧ (s.req i).state = .ended ∧ (s.req i).hoOut = []
    (due → (s.releaseEnded n).req i = {}) ∧ (¬ due → (s.releaseEnded n).req i = s.req i)) ∧
  (∀ (s : State) (n i : Nat), (s.req i).nodes = [] → (s.req i).vuid = 0 → (∀ k, s.lostGranules k = []) →
    let t := s.releaseReq n i
    let h := s.headerAddr n i 0
    let c := s.recordAddr n i
    (∀ a, memGet t.mem a = (if (h ≤ a ∧ a < h + 128) ∨ (c ≤ a ∧ a < c + recordSize) then 0 else memGet s.mem a)) ∧
    (∀ sl, sl < 2 → (t.region n).pool sl = ((s.region n).pool sl).map fun p =>
      if (s.ownPages n i sl).contains p.addr then { p with st := .scrubbing } else p) ∧
    ((t.region n).tblocks = (s.region n).tblocks.map fun b => if b.ridx = i then { b with scrubbing := true } else b) ∧
    (∀ k, k ≠ n → t.region k = s.region k) ∧
    ((s.req i).noPost = false → (t.queue (s.req i).queue).unfinished = (s.queue (s.req i).queue).unfinished - 1)) ∧
  (∀ (s : State) (fuel n i : Nat),
    let q := s.req i
    let r := s.region n
    let due := q.stopInsert = false ∧ q.nextBlock < r.shareBlocks q ∧ s.blockAppended n i q.nextBlock = true
    (¬ due → s.insertDue fuel n i = s) ∧
    (due → s.insertDue (fuel + 1) n i = (s.insertBlock n i q.nextBlock).insertDue fuel n i)) ∧
  (∀ (s : State) (n i k : Nat),
    let q := s.req i
    let r := s.region n
    let t := s.insertBlock n i k
    let ph : W64 := if q.lastNode = noParent then 0 else (s.node n q.lastNode).hash
    let h := blockHash ph q.domain q.variant r.ppos (r.blockTokens q k)
    let stands := (s.probed n h).find? fun j =>
      let x := s.node n j
      !x.dead && decide (x.hash = h) && decide (x.domain = q.domain) && decide (x.variant = q.variant) &&
        decide (x.parent = q.lastNode)
    let hangs := fun (j : Nat) => (t.req i).nodes = q.nodes ++ [j] ∧ (t.req i).lastNode = j ∧ (t.req i).nextBlock = k + 1 ∧
      (t.req i).stopInsert = q.stopInsert
    let stops := (t.req i).stopInsert = true ∧ (t.req i).nodes = q.nodes ∧ (t.req i).nextBlock = q.nextBlock
    (q.lastNode ≠ noParent → (s.node n q.lastNode).dead = true → stops) ∧
    (q.lastNode = noParent ∨ (s.node n q.lastNode).dead = false →
      (∀ j, stands = some j → (s.node n j).tokens = r.blockTokens q k → hangs j ∧ (t.region n).nodesUsed = r.nodesUsed) ∧
      (∀ j, stands = some j → (s.node n j).tokens ≠ r.blockTokens q k → stops ∧ (t.region n).collide = satAdd r.collide 1) ∧
      (stands = none → (s.nodeRoom n h).2 = none → stops) ∧
      (∀ num b, stands = none → (s.nodeRoom n h).2 = some (num, b) → hangs num ∧
        (t.region n).nodesUsed = ((s.nodeRoom n h).1.region n).nodesUsed ++ [num] ∧
        (t.region n).gen i 0 = r.gen i 0 + 1))) ∧
  (∀ (s : State) (is : List Nat), (s.inOrder is).Perm is ∧ (s.inOrder is).Pairwise fun i j => s.comesBefore j i = false) ∧
  (∀ (s : State) (i : Nat), (s.req i).earmark = false →
    let q := s.req i
    let d := (s.region q.region).need q 0 none
    let fits := d.own0 ≤ s.freeFor q.region i 0 ∧ d.own1 ≤ s.freeFor q.region i 1 ∧ d.blocks ≤ s.blocksFor q.region i
    (¬ fits → s.tryEarmark i = s) ∧
    (fits → (s.tryEarmark i).req i = { q with earmark := true, earPages0 := d.own0, earPages1 := d.own1, earBlocks := d.blocks })) ∧
  (∀ (s : State) (n i : Nat), (s.req i).variant = 0 →
    let u := s.modReq i fun q => { q with vlen := 0 }
    let q := u.req i
    let r := s.region n
    let ring := u.ringPlace n q
    let d := r.need q 0 ring
    let ext := extentsOf q r.ppos ring
    u.prefixHits n q = ([], false) → r.nodesUsed = [] →
    (262144 < ext.2.1 + ext.2.2.2 → s.admitOne n i = u.endWith i 0x23) ∧
    (ext.2.1 + ext.2.2.2 ≤ 262144 →
      (u.freeFor n i 0 < d.own0 ∨ u.freeFor n i 1 < d.own1 ∨ u.findDirs n i d = none →
        s.admitOne n i = u.admitShort n i d) ∧
      (∀ dirs, d.own0 ≤ u.freeFor n i 0 → d.own1 ≤ u.freeFor n i 1 → u.findDirs n i d = some dirs →
        (sampBlock q.sampler).pcount = false → u.sharesPrefixes n = none →
        let t := s.admitOne n i
        (t.req i).state = .prompt ∧ (t.req i).nodes = [] ∧ (t.req i).promptDone = 0 ∧ (t.req i).seqlen = 0 ∧
        (t.req i).earmark = false ∧ (t.req i).pthdr = s.headerAddr n i 0 ∧ (∀ j, j ≠ i → t.req j = s.req j) ∧
        (t.region n).tblocks.length = r.tblocks.length + d.blocks ∧
        (t.region n).pool 0 = (r.pool 0).map fun p =>
          if ((r.freePages 0).take d.own0).contains p.addr then { p with st := .used } else p))) ∧
  (∀ (s : State) (n i : Nat) (d : Need) (su : Setup), (s.region n).setup = some su →
    let q := s.req i
    let r := s.region n
    let t := su.stepMax + 50000
    let never := r.pool0.length < d.own0 ∨ r.pool1.length < d.own1
    let late := q.besteff = false ∧ (su.classes.getD q.cls {}).guar = true ∧
      q.ttftdl.toNat < s.gc.toNat + t + ceilDiv q.promptLen (s.setupCapacity n) * t
    (q.earmark = false → never → s.admitShort n i d = s.endWith i 0x11) ∧
    (q.earmark = false → ¬ never → tableBlocks < d.blocks → s.admitShort n i d = s.endWith i 0x12) ∧
    (q.earmark = true ∨ (¬ never ∧ d.blocks ≤ tableBlocks) →
      (late → s.admitShort n i d = s.endWith i 0x13) ∧ (¬ late → s.admitShort n i d = s))) ∧
  (∀ (s : State) (n : Nat) (im : Image) (stepMax l : Nat),
    let c := (s.region n).cols s.nv
    let fits := fun (k : Nat) => im.cbLead s.stepPair c (k + 1) l ≤ stepMax
    (∀ b, s.splitWidth n im stepMax 0 b = 0) ∧
    (l ≠ 0 → s.splitWidth n im stepMax l false = c) ∧
    (∀ k w, l ≠ 0 → im.leadw[k]? = some w → fits k → (∀ j, j < k → ¬ fits j) → s.splitWidth n im stepMax l true = w) ∧
    (∀ w, l ≠ 0 → im.leadw.getLast? = some w → (∀ j, j < im.leadw.length → ¬ fits j) → s.splitWidth n im stepMax l true = w) ∧
    (l ≠ 0 → im.leadw = [] → s.splitWidth n im stepMax l true = if (s.region n).nleadLast = c then 0 else c)) ∧
  (∀ (s : State) (n : Nat) (im : Image) (su : Setup), (s.region n).image = some im → (s.region n).setup = some su →
    let leads := (s.live n).filter fun i => decide ((s.req i).state = .lead)
    let prompts := (s.live n).filter fun i => decide ((s.req i).state = .prompt)
    let c := (s.region n).cols s.nv
    let w := s.splitWidth n im su.stepMax leads.length (decide (prompts ≠ []))
    let cap := if leads = [] then 262144 else im.capacity s.stepPair ((im.widths c).idxOf w) su.stepMax
    let t := s.orderEight n
    let work := (t.region n).stepReqs
    (t.region n).nlead = w ∧ (t.region n).snaps = (t.region n).gens ∧
    (∀ x ∈ work, x.lead = true → w ≠ 0 ∧ (s.req x.ridx).state = .lead) ∧
    (∀ x ∈ work, x.lead = false → w ≠ c ∧ (s.req x.ridx).state = .prompt ∧ (s.req x.ridx).fetching = false ∧ 0 < x.grant ∧
      (s.req x.ridx).promptDone + x.grant ≤ (s.req x.ridx).promptLen ∧
      ((s.req x.ridx).promptDone + x.grant = (s.req x.ridx).promptLen ∨ x.grant % 64 = 0)) ∧
    (((work.filter fun x => !x.lead).map fun x => x.grant).foldl (· + ·) 0 ≤ cap) ∧
    (t.region n).promptN = (work.filter fun x => !x.lead).length ∧ (t.region n).tokenN = (work.filter fun x => x.lead).length) ∧
  (∀ (s : State) (n : Nat),
    let t := s.orderNine n
    (s.mayPlan n = false → t = s) ∧
    (s.mayPlan n = true → s.sharedLaunch n = none → s.onHold n = true → t = s) ∧
    (s.mayPlan n = true → s.sharedLaunch n = none → s.onHold n = false →
      (t.region n).run = .stepping ∧ (t.region n).stepNo = (s.region n).stepNo + 1 ∧ t.mem = s.mem ∧ t.reqs = s.reqs) ∧
    (s.mayPlan n = true → s.sharedLaunch n ≠ none → (t.region n).planned = true ∧ (t.region n).run = .waiting ∧ t.mem = s.mem))

/-! ## Power, clocks, resets, start-up -/

/-- Power states (R465, R467, R468, R470). Each wake event (CoresAndSideband has those of the sideband bus) makes both
halves Active and ends Lull; a half is gated only when the conditions of R467 hold and the module enters Lull only when
those of R468 do; the keeper's alarm wakes it for a hold. That a wake event makes both halves Active is the model's choice
(log 77). -/
def Obligations.PowerStates : Prop :=
  ∀ (s : State), s.isReady = true →
    let awake := { s with atLull := none, pwr := { s.pwr with
      lull := false, west := { s.pwr.west with active := true }, east := { s.pwr.east with active := true } } }
    (∀ c, (∀ x, c ≠ .sideband x) → exec (.wakeEvent c) s = .next awake) ∧ awake.moduleState = 0 ∧
    (s.alarmDue = true → exec .keeperAlarm s = .next awake) ∧ (s.alarmDue = false → exec .keeperAlarm s = .next s) ∧
    (∀ h, (s.half h).active = true → s.mayWarm h = true →
      ∃ t, exec (.warmEntry h) s = .next t ∧ (t.half h).active = false ∧ (t.half h).step = (s.half h).step ∧
        (∀ k, k ≠ h → t.half k = s.half k) ∧ t.mem = s.mem ∧ t.regions = s.regions ∧ t.frames = s.frames ∧
        t.reqs = s.reqs ∧ t.hif = s.hif) ∧
    (∀ h, (s.half h).active = false ∨ s.mayWarm h = false → exec (.warmEntry h) s = .next s) ∧
    (s.pwr.lull = false → s.mayLull = true →
      exec .lullEntry s = .next { s with atLull := some s.view, pwr := { s.pwr with lull := true } }) ∧
    (s.pwr.lull = true ∨ s.mayLull = false → exec .lullEntry s = .next s) ∧
    (∀ n, n < 4 → (s.region n).inHalf .west = true → (s.region n).low = 0 ∨ (s.region n).run ≠ .waiting →
      s.mayWarm .west = false)

/-- Clock steps, the thermal table and the coolant (R473 to R475, R520, R523, Table 16-3). A junction at 115 °C sets its
half to 1.0 GHz; at 105 °C the half goes one step down; above PWR_LIMIT one of the halves does, a free one (log 41); after
50 checks with margin a half below its cap begins a step up, which takes effect at STEP_UP_COMPLETE; a check shows its
readings. That the 50 checks are counted per half and started anew, and what one check does to a half, is the model's choice
(log 196). -/
def Obligations.ClockSteps : Prop :=
  ∀ (s : State), s.isReady = true →
    let down := fun (x : BitVec 2) => if x.toNat < 2 then x + 1 else (2 : BitVec 2)
    (∀ h, ∃ t, exec (.hardwareThrottle h) s = .next t ∧ (t.half h).step = 2 ∧ (t.half h).throttled = true ∧
      (t.half h).thermal = true ∧ (t.half h).up = none ∧ (∀ k, k ≠ h → (t.half k).step = (s.half k).step) ∧ t.mem = s.mem) ∧
    (∀ h, (s.half h).up = none → exec (.stepUpComplete h) s = .next s) ∧
    (∀ h x, (s.half h).up = some x → ∃ t, exec (.stepUpComplete h) s = .next t ∧ (t.half h).step = x ∧
      (t.half h).up = none ∧ (∀ k, k ≠ h → (t.half k).step = (s.half k).step) ∧ t.mem = s.mem) ∧
    (∀ m : Telemetry,
      let above := decide (s.pwr.limit.toNat < m.input.toNat)
      let margin := decide (m.input.toNat * 10 < s.pwr.limit.toNat * 9) && decide (m.wtj.toNat < 95) &&
        decide (m.etj.toNat < 95) && decide (m.stj.toNat < 95)
      ∃ t, exec (.throttleCheck m) s = .next t ∧ t.pwr.input = m.input ∧ t.pwr.stj = m.stj ∧ t.pwr.plate = m.plate ∧
        t.pwr.west.tj = m.wtj ∧ t.pwr.east.tj = m.etj ∧ t.mem = s.mem ∧
        (above = false → m.wtj.toNat < 105 → m.etj.toNat < 105 →
          t.pwr.west.step = s.pwr.west.step ∧ t.pwr.east.step = s.pwr.east.step) ∧
        (above = false → 105 ≤ m.wtj.toNat → m.etj.toNat < 105 →
          t.pwr.west.step = down s.pwr.west.step ∧ t.pwr.east.step = s.pwr.east.step ∧ t.pwr.west.throttled = true) ∧
        (above = true → m.wtj.toNat < 105 → m.etj.toNat < 105 →
          (t.pwr.west.step = down s.pwr.west.step ∧ t.pwr.east.step = s.pwr.east.step) ∨
          (t.pwr.west.step = s.pwr.west.step ∧ t.pwr.east.step = down s.pwr.east.step)) ∧
        (margin = false → t.pwr.west.cool = 0 ∧ t.pwr.east.cool = 0) ∧
        (margin = true → above = false → s.pwr.west.cool < 49 → t.pwr.west.cool = s.pwr.west.cool + 1) ∧
        (margin = true → above = false → 49 ≤ s.pwr.west.cool → s.pwr.wmax.toNat < s.pwr.west.step.toNat →
          s.pwr.west.up = none → t.pwr.west.up = some (s.pwr.west.step - 1) ∧ t.pwr.west.cool = 0)) ∧
    (∀ p : BitVec 8, p.toNat ≤ 45 → exec (.plateHot p) s = .next s) ∧
    (∀ p : BitVec 8, 45 < p.toNat → ∃ t, exec (.plateHot p) s = .next t ∧ t.pwr.plate = p ∧ t.pwr.alert = true ∧
      t.pwr.west = s.pwr.west ∧ t.pwr.east = s.pwr.east ∧ t.mem = s.mem)

/-- Control cores and the keeper's watchdog (R496, R497). A core that faults or whose task overruns returns when its
self-test passes, and is otherwise retired, the spare taking its place; a second expiry of the keeper's watchdog within 1 s
resets the module. The sideband bus (R470, R518 to R520). The keeper answers while its rail is up, in the order of Table
19-6's fields (log 48), and each command wakes a READY module; GET_STATUS releases ALERT# when no cause remains; without
power nothing answers. A message whose code Table 19-6 does not have is answered with an MCTP error. ENTDAA and SETAASA give
a module without a dynamic address one, and that they leave another's alone is the model's choice, like the row that carries
them (log 200). -/
def Obligations.CoresAndSideband : Prop :=
  (∀ (s : State) (core : Fin 5), s.isReady = true →
    let counted := Host.Outcome.next { s with sys := { s.sys with ceCount := satAdd s.sys.ceCount 1 } }
    (s.sys.cores[core.val]? = some .service →
      exec (.controlCoreFault core true) s = counted ∧ exec (.taskWatchdogExpiry core true) s = counted ∧
      ∀ c ∈ [Instr.controlCoreFault core false, Instr.taskWatchdogExpiry core false], ∃ t, exec c s = .next t ∧ t.mem = s.mem ∧
        t.sys.cores[core.val]? = some .retired ∧
        (∀ k : Nat, k ≠ core.val → s.sys.cores[k]? = some .service → t.sys.cores[k]? = some .service) ∧
        (∀ k : Nat, s.sys.cores.findIdx? (fun c => decide (c = .spare)) = some k → t.sys.cores[k]? = some .service)) ∧
    (s.sys.cores[core.val]? ≠ some .service →
      exec (.controlCoreFault core false) s = .next s ∧ exec (.taskWatchdogExpiry core false) s = .next s) ∧
    (s.sys.keeperExpiry = none →
      exec .keeperWatchdogExpiry s = .next { s with sys := { s.sys with keeperExpiry := some s.gc } }) ∧
    (∀ u, s.sys.keeperExpiry = some u → 1000000000 < (s.gc - u).toNat →
      exec .keeperWatchdogExpiry s = .next { s with sys := { s.sys with keeperExpiry := some s.gc } }) ∧
    (∀ u, s.sys.keeperExpiry = some u → (s.gc - u).toNat ≤ 1000000000 →
      ∃ t, exec .keeperWatchdogExpiry s = .next t ∧ t.sys.stage = 1 ∧ t.sys.lastreset = 4 ∧ t.mem = [])) ∧
  (∀ (s : State),
    let reply := fun (ws : List Nat) => (s.emit (.sideband (ws.map (BitVec.ofNat 64)))).wakeUp
    (s.pwr.rail = .off →
      exec .getStatus s = .next s ∧ exec .getEnergy s = .next s ∧ exec .getIdent s = .next s ∧ exec .wake s = .next s ∧
      exec .reset s = .next s) ∧
    (s.pwr.rail ≠ .off →
      exec .getEnergy s = .next (reply [s.pwr.energy / 1000000 % 2 ^ 64]) ∧
      exec .getIdent s = .next (reply [s.sysIdent, s.nv.serial.toNat, s.sysFwver]) ∧
      exec .wake s = .next (reply [0x11]) ∧
      ∃ t, exec .getStatus s = .next t ∧ t.mem = s.mem ∧ t.pwr.alert = decide (s.alertCauses ≠ 0) ∧
        t.out = s.out ++ [.sideband ([s.sysStatus, s.pwrState, s.pwrTemp, s.pwrPower, s.sysSpare, s.pwr.offcause.toNat,
          s.alertCauses].map (BitVec.ofNat 64))]) ∧
    let command := fun (c : SbCommand) => exec (.wakeEvent (.sideband c)) s
    let addressed := fun (a : BitVec 7) => { s with sys := { s.sys with sbAddr := s.sys.sbAddr.or (some a) } }
    (s.pwr.rail = .off → ∀ c, command c = .next s.wakeUp) ∧
    (s.pwr.rail ≠ .off →
      (∀ code : Byte, command (.message code) = .next (if code ∈ [0x01, 0x02, 0x03, 0x10, 0x11] then s.wakeUp
        else (s.emit .sidebandError).wakeUp)) ∧
      (∀ a, command (.entdaa a) = .next (addressed a).wakeUp) ∧ command .setaasa = .next (addressed 0x5A).wakeUp))

/-- Resets (R476 to R481, R512, R513, R516, R519, Tables 16-4 and 16-5). A module reset restarts start-up at stage 0x1 with
its cause and clears memory, regions, requests, queues and sessions, keeping the fuses and module flash, the global counter
and the debug state (a debug unlock in course is finished by it: log 177); a power-on reset starts at stage 0x0 and clears
the counter too; with the power off, or after a THERMTRIP, a module reset does nothing. An over-voltage holds the module
off, a tripped one too; a RESET resets what the keeper holds, start-up waiting for the input (R513, R519), whose return
starts the module anew, but a tripped one stays tripped (log 199). A Function Level Reset clears the queues but for their
bindings and closes the sessions, keeping regions, memory, the counter, fabric and handoff ports. -/
def Obligations.Resets : Prop :=
  ∀ (s : State),
    let cleared := fun (t : State) => t.mem = [] ∧ t.regions = [] ∧ t.reqs = [] ∧ t.frames = [] ∧ t.hif = {} ∧ t.fab = {} ∧
      t.ho = Handoff.unlinked ∧ t.sec.sessions = [] ∧ t.sec.cak = none ∧ t.sec.fabricKey = none ∧ t.nv = s.nv ∧ t.pending = s.pending
    let module := fun (c : Instr) (cause : BitVec 3) => ∃ t, exec c s = .next t ∧ cleared t ∧ t.sys.stage = 1 ∧
      t.sys.lastreset = cause ∧ t.gc = s.gc ∧ t.sec.debug = (s.sec.debug || s.sec.unlocking) ∧ t.pwr.rail = .on
    (s.pwr.rail = .on →
      (∀ cause : BitVec 3, 1 ≤ cause.toNat → cause.toNat ≤ 4 → module (.moduleReset cause) cause) ∧
      module .perstAssert 1 ∧ module .reset 2) ∧
    (s.pwr.rail ≠ .on → (s.pwr.rail = .overHold → s.trip = true) → ∀ cause, exec (.moduleReset cause) s = .next s) ∧
    (∃ t, exec .powerOnReset s = .next t ∧ cleared t ∧ t.sys.stage = 0 ∧ t.sys.lastreset = 0 ∧ t.gc = 0 ∧
      t.sec.debug = false ∧ t.pwr.rail = .on) ∧
    (s.pwr.rail = .overHold → s.trip = false → ∃ t, exec .inputReturn s = .next t ∧ cleared t ∧ t.sys.stage = 0 ∧
      t.pwr.rail = .on ∧ t.sys.lastreset = 0) ∧
    (s.pwr.rail = .overHold → s.trip = true → ∃ t, exec .inputReturn s = .next t ∧ t.pwr.rail = .tripped ∧ t.mem = s.mem ∧
      t.trip = true ∧ t.sys = s.sys) ∧
    (s.pwr.rail ≠ .overHold → exec .inputReturn s = .next s) ∧
    (∃ t, exec .underVoltageOff s = .next t ∧ cleared t ∧ t.pwr.rail = .off ∧ t.pwr.thermLatched = false ∧
      t.pwr.psLatched = false) ∧
    (s.pwr.rail = .on →
      (∃ t, exec (.thermtrip false) s = .next t ∧ cleared t ∧ t.pwr.rail = .tripped ∧ t.pwr.thermLatched = true ∧
        t.pwr.offcause = 1) ∧
      (∃ t, exec (.thermtrip true) s = .next t ∧ cleared t ∧ t.pwr.rail = .tripped ∧ t.pwr.psLatched = true ∧
        t.pwr.offcause = 2)) ∧
    (s.pwr.rail ≠ .on → ∀ b, exec (.thermtrip b) s = .next s) ∧
    (s.pwr.rail = .on ∨ s.pwr.rail = .tripped → ∃ t, exec .overVoltageOff s = .next t ∧ cleared t ∧ t.pwr.rail = .overHold ∧
      t.pwr.offcause = 3 ∧ t.trip = s.trip) ∧
    (s.pwr.rail = .off ∨ s.pwr.rail = .overHold → exec .overVoltageOff s = .next s) ∧
    (s.pwr.rail = .tripped →
      (s.cooled = true → s.pwr.psLatched = false → ∃ t, exec .reset s = .next t ∧ t.sys.stage = 0 ∧ t.sys.lastreset = 5 ∧
        t.pwr.rail = .on ∧ t.mem = []) ∧
      (s.cooled = false ∨ s.pwr.psLatched = true → exec .reset s = .next (s.emit .sidebandError))) ∧
    (s.pwr.rail = .overHold →
      (s.trip = true → exec .reset s = .next (s.emit .sidebandError)) ∧
      (s.trip = false →
        let held := fun (c : Instr) (cause : BitVec 3) (out : List Out) => ∃ t, exec c s = .next t ∧ cleared t ∧ t.sys.stage = 0 ∧
          t.sys.lastreset = cause ∧ t.gc = s.gc ∧ t.pwr = s.pwr ∧ t.out = s.out ++ out
        held .reset 2 [.sideband [0x10]] ∧
        ∀ cause : BitVec 3, 1 ≤ cause.toNat → cause.toNat ≤ 4 → held (.moduleReset cause) cause [])) ∧
    (exec .presentMate s = .next { s with sys := { s.sys with present := true } }) ∧
    (s.pwr.rail ≠ .on ∨ s.sys.stage ≠ 0 → exec .perstDeassert s = .next { s with sys := { s.sys with perst := false } }) ∧
    (s.pwr.rail = .on → s.sys.stage = 0 →
      exec .perstDeassert s = .next { s with sys := { s.sys with earlyDeassert := true } }) ∧
    (s.isReady = true → ∃ t, exec .functionLevelReset s = .next t ∧ t.mem = s.mem ∧ t.gc = s.gc ∧ t.nv = s.nv ∧
      t.fab.ports = s.fab.ports ∧ t.ho.pairing = s.ho.pairing ∧ t.sys.stage = s.sys.stage ∧ t.sec.sessions = [] ∧ t.hif.err = {} ∧
      (∀ n, (t.region n).live = (s.region n).live ∧ (t.region n).setup = (s.region n).setup ∧ (t.region n).bcmds = []) ∧
      (smWf {} s.hif.queues = true → ∀ k, t.queue k = {
        role := (s.queue k).role, brid := (s.queue k).brid, stream := (s.queue k).stream, diagok := (s.queue k).diagok,
        domlo := (s.queue k).domlo, domhi := (s.queue k).domhi }))

/-- Start-up (R482 to R485, R458, R516, Table 16-6). Each completed stage leads to the next; stage 0x1 leads to 0x3 with an
acceptable image, which then runs, and to recovery in stage 0x2 without one; stage 0x2 ends only with recovery; nothing goes
on past stage 0x0 while PERST# is asserted; at READY the map generation reads 2; stage 0x6 brings up each handoff link that
has lost no lane of its mode. -/
def Obligations.StartUp : Prop :=
  ∀ (s : State) (rep : StageReport),
    let leads := fun (n : BitVec 4) (q : State → Prop) => ∃ t, exec (.startupStageDone rep) s = .next t ∧ t.sys.stage = n ∧
      t.nv.rollback = s.nv.rollback ∧ t.nv.ownerKey = s.nv.ownerKey ∧ q t
    (s.pwr.rail ≠ .on → exec (.startupStageDone rep) s = .next s) ∧
    (s.pwr.rail = .on →
      (s.sys.stage = 0 → leads 1 fun t => t.sys.homodeGround = rep.homodeGround ∧
        t.sys.perst = (s.sys.perst && !s.sys.earlyDeassert)) ∧
      (1 ≤ s.sys.stage.toNat → s.sys.stage.toNat ≤ 6 → s.sys.perst = true → exec (.startupStageDone rep) s = .next s) ∧
      (s.sys.stage = 2 → exec (.startupStageDone rep) s = .next s) ∧
      (s.sys.perst = false →
        (∀ f, s.sys.stage = 1 → s.nv.fw = some f → s.nv.rollback ≤ f.svn →
          leads 3 fun t => t.sec.running = some f ∧ t.sec.recovery = false ∧ t.hif.width = rep.linkWidth) ∧
        (s.sys.stage = 1 → (∀ f, s.nv.fw = some f → f.svn < s.nv.rollback) →
          leads 2 fun t => t.sec.running = none ∧ t.sec.recovery = true) ∧
        (s.sys.stage = 3 → exec (.startupStageDone rep) s = .next { s with sys := { s.sys with stage := 4 } }) ∧
        (s.sys.stage = 4 → leads 5 fun t => t.sys.mapgen = 2 ∧ t.frames = []) ∧
        (s.sys.stage = 5 → leads 6 fun t => t.sys.mapgen = s.sys.mapgen) ∧
        (s.sys.stage = 6 → leads 7 fun t => t.mem = s.mem ∧ t.regions = s.regions ∧
          ∀ p : Fin 2, (t.hoPort p.val).linkUp = true ↔
            ∀ lane ∈ (s.hoPort p.val).lanesLost, s.sys.homodeGround = true ∧ 4 ≤ lane)) ∧
      (7 ≤ s.sys.stage.toNat → exec (.startupStageDone rep) s = .next s))

/-! ## Reset and invariants -/

/-- The state after reset: READY with no region, no request and nothing waiting, queue 0 bound to the owner and not enabled,
the counter 0, both halves at the highest step, and memory in canonical form with every byte 0 (R447, R478, R485; that the
module stands at READY, and that unwritten memory reads 0, is the model's choice: logs 5 and 8). -/
def Obligations.ResetState : Prop :=
  let s := State.reset
  s.pending = [] ∧ s.isReady = true ∧ s.gc = 0 ∧ s.sys.mapgen = 2 ∧ s.reqs = [] ∧ s.out = [] ∧
  (∀ n, (s.region n).live = false) ∧ (s.queue 0).role = .owner ∧ (∀ k, k ≠ 0 → (s.queue k).role = .unbound) ∧
  (∀ k, (s.queue k).en = false) ∧ s.pwr.west.step = 0 ∧ s.pwr.east.step = 0 ∧ s.pwr.limit.toNat = 1650 ∧
  s.fab.coordSet = false ∧ s.ho.pairing = none ∧ (∀ w, (s.ctx w).run = .halted) ∧ (∀ x, memGet s.mem x = 0) ∧
  Memory.wf s.mem = true ∧ smWf {} s.reqs = true ∧ smWf {} s.hif.queues = true

/-- The invariant of the model's tables: from every state whose memory, request table and queues are in canonical form, each
step leads to such a state. -/
def Obligations.CanonicalForm : Prop :=
  ∀ s t : State, step s = .next t → Memory.wf s.mem = true ∧ smWf {} s.reqs = true ∧ smWf {} s.hif.queues = true →
    Memory.wf t.mem = true ∧ smWf {} t.reqs = true ∧ smWf {} t.hif.queues = true

/-- What no step undoes (R457, R498, Table 16-5): each step takes the front command off the queue and nothing else, keeps
every output that was given, never changes what is fused or programmed in the factory, never lowers the rollback fuses, and
never removes a record of the fault history. -/
def Obligations.NothingUndone : Prop :=
  ∀ s t : State, step s = .next t →
    t.pending = s.pending.tail ∧ s.out <+: t.out ∧ t.nv.grade352 = s.nv.grade352 ∧ t.nv.fused = s.nv.fused ∧
    t.nv.serial = s.nv.serial ∧ t.nv.dierev = s.nv.dierev ∧ t.nv.modrev = s.nv.modrev ∧ t.nv.qualT1 = s.nv.qualT1 ∧
    t.nv.qualT2 = s.nv.qualT2 ∧ s.nv.rollback ≤ t.nv.rollback ∧ s.nv.history <+: t.nv.history
end

