-- ==== Sys2Proof/WellFormed.lean ====
section
/-! DEFINITION. Well-formed commands: those that name units the grade has (R1, R3, R23), entries of 32 words (R429) and cells of 48 bytes
(R396). A part is given
by C, the number of its logical columns: 24 or 22. -/

namespace Sys2Proof

/-- A frame index of a part with `c` columns (R23). -/
def frameOk (c f : Nat) : Bool := decide (f < c * 16)

/-- A ring entry has at most its 32 words (R429). -/
def entryOk (e : Entry) : Bool := decide (e.length ≤ 32)

/-- An SRAM structure that the part has. -/
def unitOk (c : Nat) : SramUnit → Bool
  | .frameStore f _ => frameOk c f.val
  | .instrStore f => frameOk c f.val
  | .chainStore f => frameOk c f.val
  | .staging _ => true
  | .seamFifo _ _ _ => true
  | .coreMemory _ _ => true
  | .requestTable i => decide (i < 32768)
  | .walkCache _ => true

/-- A cell carries LEN bytes of payload, at most 48 (R396, Table 12-7). -/
def cellOk (x : Cell) : Bool := decide (x.payload.length = x.len.toNat) && decide (x.len.toNat ≤ 48)

/-- A command of the table that can reach a part with `c` columns. -/
def Instr.wellFormed (c : Nat) : Instr → Bool
  | .powerOnReset => true
  | .underVoltageOff => true
  | .overVoltageOff => true
  | .inputReturn => true
  | .perstAssert => true
  | .perstDeassert => true
  | .presentMate => true
  | .moduleReset cause => decide (1 ≤ cause.toNat) && decide (cause.toNat ≤ 4)
  | .functionLevelReset => true
  | .startupStageDone _ => true
  | .thermtrip _ => true
  | .hardwareThrottle _ => true
  | .throttleCheck _ => true
  | .stepUpComplete _ => true
  | .plateHot _ => true
  | .warmEntry _ => true
  | .lullEntry => true
  | .wakeEvent _ => true
  | .keeperAlarm => true
  | .keeperWatchdogExpiry => true
  | .taskWatchdogExpiry _ _ => true
  | .controlCoreFault _ _ => true
  | .registerWrite _ _ => true
  | .barUndecodedAccess _ => true
  | .rcRead _ => true
  | .pairLoRead _ => true
  | .sysReset _ => true
  | .pwrCtl _ => true
  | .pwrLimit _ => true
  | .fabCoord _ => true
  | .queueEnable _ _ => true
  | .queueDisable _ _ => true
  | .recoveryGo _ _ => true
  | .sqtail _ _ => true
  | .cqhead _ _ => true
  | .dighead _ _ => true
  | .errhead _ _ => true
  | .request _ e _ _ => entryOk e
  | .ownEnroll _ e => entryOk e
  | .ownRelease _ e => entryOk e
  | .regionCreate _ e _ => entryOk e
  | .regionRemove _ e => entryOk e
  | .queueBind _ e => entryOk e
  | .fwUpdate _ e _ _ => entryOk e
  | .svnCommit _ e => entryOk e
  | .report _ e => entryOk e
  | .silborToken _ e _ => entryOk e
  | .copyIn _ e _ => entryOk e
  | .copyOut _ e => entryOk e
  | .imageLoad _ e _ => entryOk e
  | .serveSetup _ e => entryOk e
  | .cancel _ e => entryOk e
  | .disable _ e => entryOk e
  | .enable _ e => entryOk e
  | .query _ e => entryOk e
  | .stepHold _ e => entryOk e
  | .digestTrace _ e => entryOk e
  | .kvGeometry _ e => entryOk e
  | .poolAdd _ e => entryOk e
  | .poolRemove _ e => entryOk e
  | .variantLoad _ e _ => entryOk e
  | .variantUnload _ e => entryOk e
  | .prefixFlush _ e => entryOk e
  | .handleRelease _ e => entryOk e
  | .partnerPair _ e => entryOk e
  | .partnerUnpair _ e => entryOk e
  | .layoutSet _ e => entryOk e
  | .groupSet _ e => entryOk e
  | .groupClear _ e => entryOk e
  | .getStatus => true
  | .getEnergy => true
  | .getIdent => true
  | .reset => true
  | .wake => true
  | .spdmKeyExchange _ _ _ => true
  | .endSession _ => true
  | .spdmHeartbeatExpiry _ => true
  | .spdmGetMeasurements _ _ => true
  | .keyProg _ _ _ => true
  | .kSetGo _ _ => true
  | .vendorDefinedRequest _ _ => true
  | .tlpOutsideIde => true
  | .stepBoundary _ _ => true
  | .scrubDone _ _ => true
  | .groupLaunch _ => true
  | .stepHoldRelease _ => true
  | .setupRecheck => true
  | .stepWatchdogExpiry who => frameOk c who.frame.val
  | .stepTimeout _ => true
  | .add who _ _ _ => frameOk c who.frame.val
  | .sub who _ => frameOk c who.frame.val
  | .and who _ => frameOk c who.frame.val
  | .or who _ => frameOk c who.frame.val
  | .xor who _ => frameOk c who.frame.val
  | .shl who _ => frameOk c who.frame.val
  | .shr who _ => frameOk c who.frame.val
  | .sra who _ => frameOk c who.frame.val
  | .slt who _ => frameOk c who.frame.val
  | .sltu who _ => frameOk c who.frame.val
  | .addi who _ _ => frameOk c who.frame.val
  | .sltui who _ => frameOk c who.frame.val
  | .lui who _ => frameOk c who.frame.val
  | .mul who _ => frameOk c who.frame.val
  | .mulh who _ => frameOk c who.frame.val
  | .mulhu who _ => frameOk c who.frame.val
  | .div who _ => frameOk c who.frame.val
  | .divu who _ => frameOk c who.frame.val
  | .rem who _ => frameOk c who.frame.val
  | .remu who _ => frameOk c who.frame.val
  | .ld1 who _ _ => frameOk c who.frame.val
  | .st1 who _ _ => frameOk c who.frame.val
  | .beq who _ _ => frameOk c who.frame.val
  | .jal who _ => frameOk c who.frame.val
  | .jr who _ => frameOk c who.frame.val
  | .halt who _ => frameOk c who.frame.val
  | .vadd who _ => frameOk c who.frame.val
  | .vsub who _ => frameOk c who.frame.val
  | .vmul who _ => frameOk c who.frame.val
  | .vfma who _ => frameOk c who.frame.val
  | .vdiv who _ => frameOk c who.frame.val
  | .vsqrt who _ => frameOk c who.frame.val
  | .vmin who _ => frameOk c who.frame.val
  | .vmax who _ => frameOk c who.frame.val
  | .vneg who _ => frameOk c who.frame.val
  | .vabs who _ => frameOk c who.frame.val
  | .vcsgn who _ => frameOk c who.frame.val
  | .vcmp who _ => frameOk c who.frame.val
  | .vsel who _ => frameOk c who.frame.val
  | .vmov who _ => frameOk c who.frame.val
  | .vbcast who _ => frameOk c who.frame.val
  | .vlane who _ => frameOk c who.frame.val
  | .vand who _ => frameOk c who.frame.val
  | .vor who _ => frameOk c who.frame.val
  | .vxor who _ => frameOk c who.frame.val
  | .vshl who _ => frameOk c who.frame.val
  | .vshr who _ => frameOk c who.frame.val
  | .vrsum who _ => frameOk c who.frame.val
  | .vperm who _ => frameOk c who.frame.val
  | .vld who _ => frameOk c who.frame.val
  | .vst who _ => frameOk c who.frame.val
  | .vgath who _ => frameOk c who.frame.val
  | .vscat who _ => frameOk c who.frame.val
  | .vaadd who _ => frameOk c who.frame.val
  | .vaaddr who _ => frameOk c who.frame.val
  | .vfaadd who _ => frameOk c who.frame.val
  | .vamax who _ => frameOk c who.frame.val
  | .sclaim who _ => frameOk c who.frame.val
  | .cvt who _ => frameOk c who.frame.val
  | .vqblk who _ => frameOk c who.frame.val
  | .vdqblk who _ => frameOk c who.frame.val
  | .mjob who _ => frameOk c who.frame.val
  | .dma who _ => frameOk c who.frame.val
  | .bar who _ => frameOk c who.frame.val
  | .fences who _ => frameOk c who.frame.val
  | .fencej who _ => frameOk c who.frame.val
  | .waitj who _ => frameOk c who.frame.val
  | .waitd who _ => frameOk c who.frame.val
  | .waits who _ => frameOk c who.frame.val
  | .sigadd who _ => frameOk c who.frame.val
  | .rdcnt who _ => frameOk c who.frame.val
  | .rccnt who _ => frameOk c who.frame.val
  | .rdfpsr who _ => frameOk c who.frame.val
  | .wrfpsr who _ => frameOk c who.frame.val
  | .wrfpcr who _ => frameOk c who.frame.val
  | .setseed who _ => frameOk c who.frame.val
  | .rdtid who _ => frameOk c who.frame.val
  | .rdgc who _ => frameOk c who.frame.val
  | .tileJobStart f => frameOk c f.val
  | .tileDelivered f => frameOk c f.val
  | .chainProgramEnd f => frameOk c f.val
  | .tallyContribution f _ => frameOk c f.val
  | .dmaTransferStart f => frameOk c f.val
  | .dmaTransferDone f => frameOk c f.val
  | .attentionDescriptorStart _ _ => true
  | .attentionDescriptorDone _ _ => true
  | .splitMerge _ _ _ => true
  | .ringStepStart _ _ _ => true
  | .samplerRunStart _ _ => true
  | .samplerRunDone _ _ => true
  | .meshPacket p => decide (p.srcCol < c) && decide (p.dstCol < c)
  | .meshFlitError _ _ _ _ => true
  | .memoryReadError tier2 ctrl _ _ _ _ => (!tier2 || decide (ctrl.val < 12))
  | .sramError u _ _ _ _ => unitOk c u
  | .frameParityError f => frameOk c f.val
  | .gddrMigrationDone => true
  | .packageLastingFault tier2 ctrl => (!tier2 || decide (ctrl.val < 12))
  | .zlLinkTraining _ _ => true
  | .zlFlit _ _ _ => true
  | .zlReplayFailure _ _ => true
  | .gcSyncExchange _ _ _ _ => true
  | .collectiveStart _ _ => true
  | .collectiveDone _ _ => true
  | .chunk _ _ _ => true
  | .verifyToken _ _ _ => true
  | .provisionalReexecute f _ => frameOk c f.val
  | .dataCell _ _ x => cellOk x
  | .requestCell _ _ x => cellOk x
  | .grant _ _ x => cellOk x
  | .rerun _ _ x => cellOk x
  | .haltCell _ _ x => cellOk x
  | .ready _ _ x => cellOk x
  | .notice _ _ x => cellOk x
  | .peerFetch _ _ _ => true
  | .layerBatchSend _ _ => true
  | .roceAck _ _ => true
  | .roceNak _ _ => true
  | .congestionNotification _ => true
  | .communicationManagement _ _ => true
  | .transportTimeout _ => true
  | .partnerReconnect => true
  | .eapolMka _ _ => true
  | .priorityFlowControl _ _ => true
  | .handoffFrameDiscard _ => true
  | .handoffLaneLoss _ _ => true
  | .configurationRequest _ => true
  | .misalignedRegisterRead _ => true

end Sys2Proof
end

