-- ==== Sys2Proof/Laws/PerInstr.lean ====
section
/-! SUPPORT. A statement about every command as syntax, one lemma a row: what is well formed for a part is well formed for a part with
more columns (R1, R3). -/

namespace Sys2Proof.Laws.Rows

/-- A command that is well formed for C columns is well formed for any larger number of them. -/
def Statement (i : Instr) : Prop := ∀ c d : Nat, c ≤ d → i.wellFormed c = true → i.wellFormed d = true

theorem frameOk_mono {c d f : Nat} (h : c ≤ d) (hf : frameOk c f = true) : frameOk d f = true := by
  simp only [frameOk, decide_eq_true_eq] at *; omega

theorem unitOk_mono {c d : Nat} {u : SramUnit} (h : c ≤ d) (hu : unitOk c u = true) : unitOk d u = true := by
  cases u <;> first | exact hu | exact frameOk_mono h hu

theorem powerOnReset : Statement (.powerOnReset) := fun _ _ _ w => w
theorem underVoltageOff : Statement (.underVoltageOff) := fun _ _ _ w => w
theorem overVoltageOff : Statement (.overVoltageOff) := fun _ _ _ w => w
theorem inputReturn : Statement (.inputReturn) := fun _ _ _ w => w
theorem perstAssert : Statement (.perstAssert) := fun _ _ _ w => w
theorem perstDeassert : Statement (.perstDeassert) := fun _ _ _ w => w
theorem presentMate : Statement (.presentMate) := fun _ _ _ w => w
theorem moduleReset (x0 : BitVec 3) : Statement (.moduleReset x0) := fun _ _ _ w => w
theorem functionLevelReset : Statement (.functionLevelReset) := fun _ _ _ w => w
theorem startupStageDone (x0 : StageReport) : Statement (.startupStageDone x0) := fun _ _ _ w => w
theorem thermtrip (x0 : Bool) : Statement (.thermtrip x0) := fun _ _ _ w => w
theorem hardwareThrottle (x0 : Half) : Statement (.hardwareThrottle x0) := fun _ _ _ w => w
theorem throttleCheck (x0 : Telemetry) : Statement (.throttleCheck x0) := fun _ _ _ w => w
theorem stepUpComplete (x0 : Half) : Statement (.stepUpComplete x0) := fun _ _ _ w => w
theorem plateHot (x0 : BitVec 8) : Statement (.plateHot x0) := fun _ _ _ w => w
theorem warmEntry (x0 : Half) : Statement (.warmEntry x0) := fun _ _ _ w => w
theorem lullEntry : Statement (.lullEntry) := fun _ _ _ w => w
theorem wakeEvent (x0 : WakeCause) : Statement (.wakeEvent x0) := fun _ _ _ w => w
theorem keeperAlarm : Statement (.keeperAlarm) := fun _ _ _ w => w
theorem keeperWatchdogExpiry : Statement (.keeperWatchdogExpiry) := fun _ _ _ w => w
theorem taskWatchdogExpiry (x0 : Fin 5) (x1 : Bool) : Statement (.taskWatchdogExpiry x0 x1) := fun _ _ _ w => w
theorem controlCoreFault (x0 : Fin 5) (x1 : Bool) : Statement (.controlCoreFault x0 x1) := fun _ _ _ w => w
theorem registerWrite (x0 : BarAccess) (x1 : W64) : Statement (.registerWrite x0 x1) := fun _ _ _ w => w
theorem barUndecodedAccess (x0 : W64) : Statement (.barUndecodedAccess x0) := fun _ _ _ w => w
theorem rcRead (x0 : BarAccess) : Statement (.rcRead x0) := fun _ _ _ w => w
theorem pairLoRead (x0 : BarAccess) : Statement (.pairLoRead x0) := fun _ _ _ w => w
theorem sysReset (x0 : W32) : Statement (.sysReset x0) := fun _ _ _ w => w
theorem pwrCtl (x0 : W32) : Statement (.pwrCtl x0) := fun _ _ _ w => w
theorem pwrLimit (x0 : W32) : Statement (.pwrLimit x0) := fun _ _ _ w => w
theorem fabCoord (x0 : W32) : Statement (.fabCoord x0) := fun _ _ _ w => w
theorem queueEnable (x0 : Fin 8192) (x1 : W32) : Statement (.queueEnable x0 x1) := fun _ _ _ w => w
theorem queueDisable (x0 : Fin 8192) (x1 : W32) : Statement (.queueDisable x0 x1) := fun _ _ _ w => w
theorem recoveryGo (x0 : HostRead) (x1 : Bool) : Statement (.recoveryGo x0 x1) := fun _ _ _ w => w
theorem sqtail (x0 : Fin 8192) (x1 : DbWrite) : Statement (.sqtail x0 x1) := fun _ _ _ w => w
theorem cqhead (x0 : Fin 8192) (x1 : DbWrite) : Statement (.cqhead x0 x1) := fun _ _ _ w => w
theorem dighead (x0 : Fin 8192) (x1 : DbWrite) : Statement (.dighead x0 x1) := fun _ _ _ w => w
theorem errhead (x0 : Fin 8192) (x1 : DbWrite) : Statement (.errhead x0 x1) := fun _ _ _ w => w
theorem request (x0 : Fin 8192) (x1 : Entry) (x2 : HostRead) (x3 : HostRead) : Statement (.request x0 x1 x2 x3) := fun _ _ _ w => w
theorem ownEnroll (x0 : Fin 8192) (x1 : Entry) : Statement (.ownEnroll x0 x1) := fun _ _ _ w => w
theorem ownRelease (x0 : Fin 8192) (x1 : Entry) : Statement (.ownRelease x0 x1) := fun _ _ _ w => w
theorem regionCreate (x0 : Fin 8192) (x1 : Entry) (x2 : HostRead) : Statement (.regionCreate x0 x1 x2) := fun _ _ _ w => w
theorem regionRemove (x0 : Fin 8192) (x1 : Entry) : Statement (.regionRemove x0 x1) := fun _ _ _ w => w
theorem queueBind (x0 : Fin 8192) (x1 : Entry) : Statement (.queueBind x0 x1) := fun _ _ _ w => w
theorem fwUpdate (x0 : Fin 8192) (x1 : Entry) (x2 : HostRead) (x3 : Bool) : Statement (.fwUpdate x0 x1 x2 x3) := fun _ _ _ w => w
theorem svnCommit (x0 : Fin 8192) (x1 : Entry) : Statement (.svnCommit x0 x1) := fun _ _ _ w => w
theorem report (x0 : Fin 8192) (x1 : Entry) : Statement (.report x0 x1) := fun _ _ _ w => w
theorem silborToken (x0 : Fin 8192) (x1 : Entry) (x2 : HostRead) : Statement (.silborToken x0 x1 x2) := fun _ _ _ w => w
theorem copyIn (x0 : Fin 8192) (x1 : Entry) (x2 : HostRead) : Statement (.copyIn x0 x1 x2) := fun _ _ _ w => w
theorem copyOut (x0 : Fin 8192) (x1 : Entry) : Statement (.copyOut x0 x1) := fun _ _ _ w => w
theorem imageLoad (x0 : Fin 8192) (x1 : Entry) (x2 : HostRead) : Statement (.imageLoad x0 x1 x2) := fun _ _ _ w => w
theorem serveSetup (x0 : Fin 8192) (x1 : Entry) : Statement (.serveSetup x0 x1) := fun _ _ _ w => w
theorem cancel (x0 : Fin 8192) (x1 : Entry) : Statement (.cancel x0 x1) := fun _ _ _ w => w
theorem disable (x0 : Fin 8192) (x1 : Entry) : Statement (.disable x0 x1) := fun _ _ _ w => w
theorem enable (x0 : Fin 8192) (x1 : Entry) : Statement (.enable x0 x1) := fun _ _ _ w => w
theorem query (x0 : Fin 8192) (x1 : Entry) : Statement (.query x0 x1) := fun _ _ _ w => w
theorem stepHold (x0 : Fin 8192) (x1 : Entry) : Statement (.stepHold x0 x1) := fun _ _ _ w => w
theorem digestTrace (x0 : Fin 8192) (x1 : Entry) : Statement (.digestTrace x0 x1) := fun _ _ _ w => w
theorem kvGeometry (x0 : Fin 8192) (x1 : Entry) : Statement (.kvGeometry x0 x1) := fun _ _ _ w => w
theorem poolAdd (x0 : Fin 8192) (x1 : Entry) : Statement (.poolAdd x0 x1) := fun _ _ _ w => w
theorem poolRemove (x0 : Fin 8192) (x1 : Entry) : Statement (.poolRemove x0 x1) := fun _ _ _ w => w
theorem variantLoad (x0 : Fin 8192) (x1 : Entry) (x2 : HostRead) : Statement (.variantLoad x0 x1 x2) := fun _ _ _ w => w
theorem variantUnload (x0 : Fin 8192) (x1 : Entry) : Statement (.variantUnload x0 x1) := fun _ _ _ w => w
theorem prefixFlush (x0 : Fin 8192) (x1 : Entry) : Statement (.prefixFlush x0 x1) := fun _ _ _ w => w
theorem handleRelease (x0 : Fin 8192) (x1 : Entry) : Statement (.handleRelease x0 x1) := fun _ _ _ w => w
theorem partnerPair (x0 : Fin 8192) (x1 : Entry) : Statement (.partnerPair x0 x1) := fun _ _ _ w => w
theorem partnerUnpair (x0 : Fin 8192) (x1 : Entry) : Statement (.partnerUnpair x0 x1) := fun _ _ _ w => w
theorem layoutSet (x0 : Fin 8192) (x1 : Entry) : Statement (.layoutSet x0 x1) := fun _ _ _ w => w
theorem groupSet (x0 : Fin 8192) (x1 : Entry) : Statement (.groupSet x0 x1) := fun _ _ _ w => w
theorem groupClear (x0 : Fin 8192) (x1 : Entry) : Statement (.groupClear x0 x1) := fun _ _ _ w => w
theorem getStatus : Statement (.getStatus) := fun _ _ _ w => w
theorem getEnergy : Statement (.getEnergy) := fun _ _ _ w => w
theorem getIdent : Statement (.getIdent) := fun _ _ _ w => w
theorem reset : Statement (.reset) := fun _ _ _ w => w
theorem wake : Statement (.wake) := fun _ _ _ w => w
theorem spdmKeyExchange (x0 : Bool) (x1 : Bool) (x2 : List Byte) : Statement (.spdmKeyExchange x0 x1 x2) := fun _ _ _ w => w
theorem endSession (x0 : Nat) : Statement (.endSession x0) := fun _ _ _ w => w
theorem spdmHeartbeatExpiry (x0 : Nat) : Statement (.spdmHeartbeatExpiry x0) := fun _ _ _ w => w
theorem spdmGetMeasurements (x0 : Bool) (x1 : SpdmGet) : Statement (.spdmGetMeasurements x0 x1) := fun _ _ _ w => w
theorem keyProg (x0 : Nat) (x1 : IdeStream) (x2 : List Byte) : Statement (.keyProg x0 x1 x2) := fun _ _ _ w => w
theorem kSetGo (x0 : Nat) (x1 : IdeStream) : Statement (.kSetGo x0 x1) := fun _ _ _ w => w
theorem vendorDefinedRequest (x0 : Nat) (x1 : VendorSecret) : Statement (.vendorDefinedRequest x0 x1) := fun _ _ _ w => w
theorem tlpOutsideIde : Statement (.tlpOutsideIde) := fun _ _ _ w => w
theorem stepBoundary (x0 : Fin 4) (x1 : BoundaryEnv) : Statement (.stepBoundary x0 x1) := fun _ _ _ w => w
theorem scrubDone (x0 : Fin 4) (x1 : ScrubItem) : Statement (.scrubDone x0 x1) := fun _ _ _ w => w
theorem groupLaunch (x0 : Fin 4) : Statement (.groupLaunch x0) := fun _ _ _ w => w
theorem stepHoldRelease (x0 : Fin 4) : Statement (.stepHoldRelease x0) := fun _ _ _ w => w
theorem setupRecheck : Statement (.setupRecheck) := fun _ _ _ w => w
theorem stepWatchdogExpiry (x0 : ThreadId) : Statement (.stepWatchdogExpiry x0) := fun _ _ h w => frameOk_mono h w
theorem stepTimeout (x0 : Fin 4) : Statement (.stepTimeout x0) := fun _ _ _ w => w
theorem add (x0 : ThreadId) (x1 : BitVec 4) (x2 : BitVec 9) (x3 : Insn) : Statement (.add x0 x1 x2 x3) := fun _ _ h w => frameOk_mono h w
theorem sub (x0 : ThreadId) (x1 : Insn) : Statement (.sub x0 x1) := fun _ _ h w => frameOk_mono h w
theorem and (x0 : ThreadId) (x1 : Insn) : Statement (.and x0 x1) := fun _ _ h w => frameOk_mono h w
theorem or (x0 : ThreadId) (x1 : Insn) : Statement (.or x0 x1) := fun _ _ h w => frameOk_mono h w
theorem xor (x0 : ThreadId) (x1 : Insn) : Statement (.xor x0 x1) := fun _ _ h w => frameOk_mono h w
theorem shl (x0 : ThreadId) (x1 : Insn) : Statement (.shl x0 x1) := fun _ _ h w => frameOk_mono h w
theorem shr (x0 : ThreadId) (x1 : Insn) : Statement (.shr x0 x1) := fun _ _ h w => frameOk_mono h w
theorem sra (x0 : ThreadId) (x1 : Insn) : Statement (.sra x0 x1) := fun _ _ h w => frameOk_mono h w
theorem slt (x0 : ThreadId) (x1 : Insn) : Statement (.slt x0 x1) := fun _ _ h w => frameOk_mono h w
theorem sltu (x0 : ThreadId) (x1 : Insn) : Statement (.sltu x0 x1) := fun _ _ h w => frameOk_mono h w
theorem addi (x0 : ThreadId) (x1 : Fin 9) (x2 : Insn) : Statement (.addi x0 x1 x2) := fun _ _ h w => frameOk_mono h w
theorem sltui (x0 : ThreadId) (x1 : Insn) : Statement (.sltui x0 x1) := fun _ _ h w => frameOk_mono h w
theorem lui (x0 : ThreadId) (x1 : Insn) : Statement (.lui x0 x1) := fun _ _ h w => frameOk_mono h w
theorem mul (x0 : ThreadId) (x1 : Insn) : Statement (.mul x0 x1) := fun _ _ h w => frameOk_mono h w
theorem mulh (x0 : ThreadId) (x1 : Insn) : Statement (.mulh x0 x1) := fun _ _ h w => frameOk_mono h w
theorem mulhu (x0 : ThreadId) (x1 : Insn) : Statement (.mulhu x0 x1) := fun _ _ h w => frameOk_mono h w
theorem div (x0 : ThreadId) (x1 : Insn) : Statement (.div x0 x1) := fun _ _ h w => frameOk_mono h w
theorem divu (x0 : ThreadId) (x1 : Insn) : Statement (.divu x0 x1) := fun _ _ h w => frameOk_mono h w
theorem rem (x0 : ThreadId) (x1 : Insn) : Statement (.rem x0 x1) := fun _ _ h w => frameOk_mono h w
theorem remu (x0 : ThreadId) (x1 : Insn) : Statement (.remu x0 x1) := fun _ _ h w => frameOk_mono h w
theorem ld1 (x0 : ThreadId) (x1 : Fin 4) (x2 : Insn) : Statement (.ld1 x0 x1 x2) := fun _ _ h w => frameOk_mono h w
theorem st1 (x0 : ThreadId) (x1 : Fin 4) (x2 : Insn) : Statement (.st1 x0 x1 x2) := fun _ _ h w => frameOk_mono h w
theorem beq (x0 : ThreadId) (x1 : Fin 6) (x2 : Insn) : Statement (.beq x0 x1 x2) := fun _ _ h w => frameOk_mono h w
theorem jal (x0 : ThreadId) (x1 : Insn) : Statement (.jal x0 x1) := fun _ _ h w => frameOk_mono h w
theorem jr (x0 : ThreadId) (x1 : Insn) : Statement (.jr x0 x1) := fun _ _ h w => frameOk_mono h w
theorem halt (x0 : ThreadId) (x1 : Insn) : Statement (.halt x0 x1) := fun _ _ h w => frameOk_mono h w
theorem vadd (x0 : ThreadId) (x1 : Insn) : Statement (.vadd x0 x1) := fun _ _ h w => frameOk_mono h w
theorem vsub (x0 : ThreadId) (x1 : Insn) : Statement (.vsub x0 x1) := fun _ _ h w => frameOk_mono h w
theorem vmul (x0 : ThreadId) (x1 : Insn) : Statement (.vmul x0 x1) := fun _ _ h w => frameOk_mono h w
theorem vfma (x0 : ThreadId) (x1 : Insn) : Statement (.vfma x0 x1) := fun _ _ h w => frameOk_mono h w
theorem vdiv (x0 : ThreadId) (x1 : Insn) : Statement (.vdiv x0 x1) := fun _ _ h w => frameOk_mono h w
theorem vsqrt (x0 : ThreadId) (x1 : Insn) : Statement (.vsqrt x0 x1) := fun _ _ h w => frameOk_mono h w
theorem vmin (x0 : ThreadId) (x1 : Insn) : Statement (.vmin x0 x1) := fun _ _ h w => frameOk_mono h w
theorem vmax (x0 : ThreadId) (x1 : Insn) : Statement (.vmax x0 x1) := fun _ _ h w => frameOk_mono h w
theorem vneg (x0 : ThreadId) (x1 : Insn) : Statement (.vneg x0 x1) := fun _ _ h w => frameOk_mono h w
theorem vabs (x0 : ThreadId) (x1 : Insn) : Statement (.vabs x0 x1) := fun _ _ h w => frameOk_mono h w
theorem vcsgn (x0 : ThreadId) (x1 : Insn) : Statement (.vcsgn x0 x1) := fun _ _ h w => frameOk_mono h w
theorem vcmp (x0 : ThreadId) (x1 : Insn) : Statement (.vcmp x0 x1) := fun _ _ h w => frameOk_mono h w
theorem vsel (x0 : ThreadId) (x1 : Insn) : Statement (.vsel x0 x1) := fun _ _ h w => frameOk_mono h w
theorem vmov (x0 : ThreadId) (x1 : Insn) : Statement (.vmov x0 x1) := fun _ _ h w => frameOk_mono h w
theorem vbcast (x0 : ThreadId) (x1 : Insn) : Statement (.vbcast x0 x1) := fun _ _ h w => frameOk_mono h w
theorem vlane (x0 : ThreadId) (x1 : Insn) : Statement (.vlane x0 x1) := fun _ _ h w => frameOk_mono h w
theorem vand (x0 : ThreadId) (x1 : Insn) : Statement (.vand x0 x1) := fun _ _ h w => frameOk_mono h w
theorem vor (x0 : ThreadId) (x1 : Insn) : Statement (.vor x0 x1) := fun _ _ h w => frameOk_mono h w
theorem vxor (x0 : ThreadId) (x1 : Insn) : Statement (.vxor x0 x1) := fun _ _ h w => frameOk_mono h w
theorem vshl (x0 : ThreadId) (x1 : Insn) : Statement (.vshl x0 x1) := fun _ _ h w => frameOk_mono h w
theorem vshr (x0 : ThreadId) (x1 : Insn) : Statement (.vshr x0 x1) := fun _ _ h w => frameOk_mono h w
theorem vrsum (x0 : ThreadId) (x1 : Insn) : Statement (.vrsum x0 x1) := fun _ _ h w => frameOk_mono h w
theorem vperm (x0 : ThreadId) (x1 : Insn) : Statement (.vperm x0 x1) := fun _ _ h w => frameOk_mono h w
theorem vld (x0 : ThreadId) (x1 : Insn) : Statement (.vld x0 x1) := fun _ _ h w => frameOk_mono h w
theorem vst (x0 : ThreadId) (x1 : Insn) : Statement (.vst x0 x1) := fun _ _ h w => frameOk_mono h w
theorem vgath (x0 : ThreadId) (x1 : Insn) : Statement (.vgath x0 x1) := fun _ _ h w => frameOk_mono h w
theorem vscat (x0 : ThreadId) (x1 : Insn) : Statement (.vscat x0 x1) := fun _ _ h w => frameOk_mono h w
theorem vaadd (x0 : ThreadId) (x1 : Insn) : Statement (.vaadd x0 x1) := fun _ _ h w => frameOk_mono h w
theorem vaaddr (x0 : ThreadId) (x1 : Insn) : Statement (.vaaddr x0 x1) := fun _ _ h w => frameOk_mono h w
theorem vfaadd (x0 : ThreadId) (x1 : Insn) : Statement (.vfaadd x0 x1) := fun _ _ h w => frameOk_mono h w
theorem vamax (x0 : ThreadId) (x1 : Insn) : Statement (.vamax x0 x1) := fun _ _ h w => frameOk_mono h w
theorem sclaim (x0 : ThreadId) (x1 : Insn) : Statement (.sclaim x0 x1) := fun _ _ h w => frameOk_mono h w
theorem cvt (x0 : ThreadId) (x1 : Insn) : Statement (.cvt x0 x1) := fun _ _ h w => frameOk_mono h w
theorem vqblk (x0 : ThreadId) (x1 : Insn) : Statement (.vqblk x0 x1) := fun _ _ h w => frameOk_mono h w
theorem vdqblk (x0 : ThreadId) (x1 : Insn) : Statement (.vdqblk x0 x1) := fun _ _ h w => frameOk_mono h w
theorem mjob (x0 : ThreadId) (x1 : Insn) : Statement (.mjob x0 x1) := fun _ _ h w => frameOk_mono h w
theorem dma (x0 : ThreadId) (x1 : Insn) : Statement (.dma x0 x1) := fun _ _ h w => frameOk_mono h w
theorem bar (x0 : ThreadId) (x1 : Insn) : Statement (.bar x0 x1) := fun _ _ h w => frameOk_mono h w
theorem fences (x0 : ThreadId) (x1 : Insn) : Statement (.fences x0 x1) := fun _ _ h w => frameOk_mono h w
theorem fencej (x0 : ThreadId) (x1 : Insn) : Statement (.fencej x0 x1) := fun _ _ h w => frameOk_mono h w
theorem waitj (x0 : ThreadId) (x1 : Insn) : Statement (.waitj x0 x1) := fun _ _ h w => frameOk_mono h w
theorem waitd (x0 : ThreadId) (x1 : Insn) : Statement (.waitd x0 x1) := fun _ _ h w => frameOk_mono h w
theorem waits (x0 : ThreadId) (x1 : Insn) : Statement (.waits x0 x1) := fun _ _ h w => frameOk_mono h w
theorem sigadd (x0 : ThreadId) (x1 : Insn) : Statement (.sigadd x0 x1) := fun _ _ h w => frameOk_mono h w
theorem rdcnt (x0 : ThreadId) (x1 : Insn) : Statement (.rdcnt x0 x1) := fun _ _ h w => frameOk_mono h w
theorem rccnt (x0 : ThreadId) (x1 : Insn) : Statement (.rccnt x0 x1) := fun _ _ h w => frameOk_mono h w
theorem rdfpsr (x0 : ThreadId) (x1 : Insn) : Statement (.rdfpsr x0 x1) := fun _ _ h w => frameOk_mono h w
theorem wrfpsr (x0 : ThreadId) (x1 : Insn) : Statement (.wrfpsr x0 x1) := fun _ _ h w => frameOk_mono h w
theorem wrfpcr (x0 : ThreadId) (x1 : Insn) : Statement (.wrfpcr x0 x1) := fun _ _ h w => frameOk_mono h w
theorem setseed (x0 : ThreadId) (x1 : Insn) : Statement (.setseed x0 x1) := fun _ _ h w => frameOk_mono h w
theorem rdtid (x0 : ThreadId) (x1 : Insn) : Statement (.rdtid x0 x1) := fun _ _ h w => frameOk_mono h w
theorem rdgc (x0 : ThreadId) (x1 : Insn) : Statement (.rdgc x0 x1) := fun _ _ h w => frameOk_mono h w
theorem tileJobStart (x0 : Fin 384) : Statement (.tileJobStart x0) := fun _ _ h w => frameOk_mono h w
theorem tileDelivered (x0 : Fin 384) : Statement (.tileDelivered x0) := fun _ _ h w => frameOk_mono h w
theorem chainProgramEnd (x0 : Fin 384) : Statement (.chainProgramEnd x0) := fun _ _ h w => frameOk_mono h w
theorem tallyContribution (x0 : Fin 384) (x1 : Nat) : Statement (.tallyContribution x0 x1) := fun _ _ h w => frameOk_mono h w
theorem dmaTransferStart (x0 : Fin 384) : Statement (.dmaTransferStart x0) := fun _ _ h w => frameOk_mono h w
theorem dmaTransferDone (x0 : Fin 384) : Statement (.dmaTransferDone x0) := fun _ _ h w => frameOk_mono h w
theorem attentionDescriptorStart (x0 : Fin 4) (x1 : Fin 1024) : Statement (.attentionDescriptorStart x0 x1) := fun _ _ _ w => w
theorem attentionDescriptorDone (x0 : Fin 4) (x1 : Fin 1024) : Statement (.attentionDescriptorDone x0 x1) := fun _ _ _ w => w
theorem splitMerge (x0 : Fin 4) (x1 : Fin 1024) (x2 : Nat) : Statement (.splitMerge x0 x1 x2) := fun _ _ _ w => w
theorem ringStepStart (x0 : Fin 4) (x1 : Fin 1024) (x2 : Nat) : Statement (.ringStepStart x0 x1 x2) := fun _ _ _ w => w
theorem samplerRunStart (x0 : Fin 4) (x1 : Fin 2) : Statement (.samplerRunStart x0 x1) := fun _ _ _ w => w
theorem samplerRunDone (x0 : Fin 4) (x1 : Fin 2) : Statement (.samplerRunDone x0 x1) := fun _ _ _ w => w
theorem meshPacket (x0 : Packet) : Statement (.meshPacket x0) := by
  intro c d h w
  simp only [Instr.wellFormed, Bool.and_eq_true, decide_eq_true_eq] at *; omega
theorem meshFlitError (x0 : Pos) (x1 : Pos) (x2 : Bool) (x3 : Bool) : Statement (.meshFlitError x0 x1 x2 x3) := fun _ _ _ w => w
theorem memoryReadError (x0 : Bool) (x1 : Fin 25) (x2 : Nat) (x3 : Nat) (x4 : Reader) (x5 : Bool) : Statement (.memoryReadError x0 x1 x2 x3 x4 x5) := fun _ _ _ w => w
theorem sramError (x0 : SramUnit) (x1 : Nat) (x2 : Nat) (x3 : Reader) (x4 : RetryOutcome) : Statement (.sramError x0 x1 x2 x3 x4) := fun _ _ h w => unitOk_mono h w
theorem frameParityError (x0 : Fin 384) : Statement (.frameParityError x0) := fun _ _ h w => frameOk_mono h w
theorem gddrMigrationDone : Statement (.gddrMigrationDone) := fun _ _ _ w => w
theorem packageLastingFault (x0 : Bool) (x1 : Fin 25) : Statement (.packageLastingFault x0 x1) := fun _ _ _ w => w
theorem zlLinkTraining (x0 : Fin 12) (x1 : ZlTraining) : Statement (.zlLinkTraining x0 x1) := fun _ _ _ w => w
theorem zlFlit (x0 : Fin 12) (x1 : ZlLane) (x2 : Bool) : Statement (.zlFlit x0 x1 x2) := fun _ _ _ w => w
theorem zlReplayFailure (x0 : Fin 12) (x1 : List (Fin 5)) : Statement (.zlReplayFailure x0 x1) := fun _ _ _ w => w
theorem gcSyncExchange (x0 : W64) (x1 : W64) (x2 : W64) (x3 : W64) : Statement (.gcSyncExchange x0 x1 x2 x3) := fun _ _ _ w => w
theorem collectiveStart (x0 : Fin 4) (x1 : List Nat) : Statement (.collectiveStart x0 x1) := fun _ _ _ w => w
theorem collectiveDone (x0 : Fin 4) (x1 : W32) : Statement (.collectiveDone x0 x1) := fun _ _ _ w => w
theorem chunk (x0 : Fin 12) (x1 : BitVec 14) (x2 : ChunkMsg) : Statement (.chunk x0 x1 x2) := fun _ _ _ w => w
theorem verifyToken (x0 : Fin 12) (x1 : BitVec 14) (x2 : TokenMsg) : Statement (.verifyToken x0 x1 x2) := fun _ _ _ w => w
theorem provisionalReexecute (x0 : Fin 384) (x1 : Fin 128) : Statement (.provisionalReexecute x0 x1) := fun _ _ h w => frameOk_mono h w
theorem dataCell (x0 : Fin 12) (x1 : BitVec 14) (x2 : Cell) : Statement (.dataCell x0 x1 x2) := fun _ _ _ w => w
theorem requestCell (x0 : Fin 12) (x1 : BitVec 14) (x2 : Cell) : Statement (.requestCell x0 x1 x2) := fun _ _ _ w => w
theorem grant (x0 : Fin 12) (x1 : BitVec 14) (x2 : Cell) : Statement (.grant x0 x1 x2) := fun _ _ _ w => w
theorem rerun (x0 : Fin 12) (x1 : BitVec 14) (x2 : Cell) : Statement (.rerun x0 x1 x2) := fun _ _ _ w => w
theorem haltCell (x0 : Fin 12) (x1 : BitVec 14) (x2 : Cell) : Statement (.haltCell x0 x1 x2) := fun _ _ _ w => w
theorem ready (x0 : Fin 12) (x1 : BitVec 14) (x2 : Cell) : Statement (.ready x0 x1 x2) := fun _ _ _ w => w
theorem notice (x0 : Fin 12) (x1 : BitVec 14) (x2 : Cell) : Statement (.notice x0 x1 x2) := fun _ _ _ w => w
theorem peerFetch (x0 : Fin 4) (x1 : Fin 32768) (x2 : List FetchedNode) : Statement (.peerFetch x0 x1 x2) := fun _ _ _ w => w
theorem layerBatchSend (x0 : Fin 32768) (x1 : Fin 256) : Statement (.layerBatchSend x0 x1) := fun _ _ _ w => w
theorem roceAck (x0 : Fin 2) (x1 : AckOf) : Statement (.roceAck x0 x1) := fun _ _ _ w => w
theorem roceNak (x0 : Fin 2) (x1 : Bool) : Statement (.roceNak x0 x1) := fun _ _ _ w => w
theorem congestionNotification (x0 : Fin 2) : Statement (.congestionNotification x0) := fun _ _ _ w => w
theorem communicationManagement (x0 : Fin 2) (x1 : CmMsg) : Statement (.communicationManagement x0 x1) := fun _ _ _ w => w
theorem transportTimeout (x0 : Fin 2) : Statement (.transportTimeout x0) := fun _ _ _ w => w
theorem partnerReconnect : Statement (.partnerReconnect) := fun _ _ _ w => w
theorem eapolMka (x0 : Fin 2) (x1 : List Byte) : Statement (.eapolMka x0 x1) := fun _ _ _ w => w
theorem priorityFlowControl (x0 : Fin 2) (x1 : Bool) : Statement (.priorityFlowControl x0 x1) := fun _ _ _ w => w
theorem handoffFrameDiscard (x0 : Fin 2) : Statement (.handoffFrameDiscard x0) := fun _ _ _ w => w
theorem handoffLaneLoss (x0 : Fin 2) (x1 : Fin 8) : Statement (.handoffLaneLoss x0 x1) := fun _ _ _ w => w
theorem configurationRequest (x0 : ConfigReq) : Statement (.configurationRequest x0) := fun _ _ _ w => w
theorem misalignedRegisterRead (x0 : BarAccess) : Statement (.misalignedRegisterRead x0) := fun _ _ _ w => w

end Sys2Proof.Laws.Rows
end

