-- ==== Sys2Proof/Laws/Table.lean ====
section
/-! SUPPORT. Laws of sparse tables and of memory: a read after a write, and the canonical form that every operation
keeps. -/

namespace Sys2Proof.Laws

open Sys2Proof.Machine

/-! ## Reads after writes -/

section Tables
variable {α : Type}

theorem smGet_smPut (d : α) (m : SMap α) (n k : Nat) (x : α) :
    smGet d (smPut m n x) k = if k = n then x else smGet d m k := by
  induction m with
  | nil => simp [smPut, smGet, eq_comm]
  | cons p r ih =>
    obtain ⟨a, v⟩ := p
    by_cases h1 : a < n
    · by_cases h2 : a = k
      · subst h2; simp [smPut, smGet, h1, show a ≠ n by omega]
      · simp [smPut, smGet, h1, h2, ih]
    · by_cases h2 : a = n
      · by_cases h3 : k = n
        · simp [smPut, smGet, h2, h3]
        · simp [smPut, smGet, h2, h3, Ne.symm h3]
      · by_cases h3 : k = n
        · simp [smPut, smGet, h1, h2, h3]
        · simp [smPut, smGet, h1, h2, h3, Ne.symm h3]

theorem smGet_smDel (d : α) (m : SMap α) (n k : Nat) :
    smGet d (smDel m n) k = if k = n then d else smGet d m k := by
  induction m with
  | nil => simp [smDel, smGet]
  | cons p r ih =>
    obtain ⟨a, v⟩ := p
    by_cases h1 : a = n
    · by_cases h3 : k = n
      · subst h3; simpa [smDel, h1] using ih
      · simp [smDel, smGet, h1, h3, ih, Ne.symm h3]
    · by_cases h3 : k = n
      · subst h3; simpa [smDel, smGet, h1] using ih
      · simp [smDel, smGet, h1, h3, ih]

variable [DecidableEq α]

/-- A read of a sparse table after a write. -/
theorem smGet_smSet (d : α) (m : SMap α) (n k : Nat) (x : α) :
    smGet d (smSet d m n x) k = if k = n then x else smGet d m k := by
  unfold smSet
  split <;> rename_i h
  · subst h; exact smGet_smDel _ m n k
  · exact smGet_smPut d m n k x

@[simp] theorem smGet_smSet_self (d : α) (m : SMap α) (n : Nat) (x : α) : smGet d (smSet d m n x) n = x := by
  simp [smGet_smSet]

theorem smGet_smSet_ne (d : α) (m : SMap α) {n k : Nat} (x : α) (h : k ≠ n) :
    smGet d (smSet d m n x) k = smGet d m k := by
  simp [smGet_smSet, h]

/-! ## The canonical form -/

theorem smWfFrom_mono (d : α) (m : SMap α) {lo lo' : Nat} (h : lo' ≤ lo) (w : smWfFrom d lo m = true) :
    smWfFrom d lo' m = true := by
  cases m with
  | nil => rfl
  | cons p r =>
    obtain ⟨k, v⟩ := p
    simp only [smWfFrom, Bool.and_eq_true, decide_eq_true_eq] at w ⊢
    exact ⟨⟨by omega, w.1.2⟩, w.2⟩

theorem smWfFrom_filter (d : α) (p : Nat × α → Bool) (m : SMap α) :
    ∀ lo, smWfFrom d lo m = true → smWfFrom d lo (m.filter p) = true := by
  induction m with
  | nil => intro lo _; rfl
  | cons q r ih =>
    obtain ⟨k, v⟩ := q
    intro lo w
    simp only [smWfFrom, Bool.and_eq_true, decide_eq_true_eq] at w
    rw [List.filter_cons]
    split
    · simp only [smWfFrom, Bool.and_eq_true, decide_eq_true_eq]
      exact ⟨w.1, ih _ w.2⟩
    · exact smWfFrom_mono d _ (by omega) (ih _ w.2)

theorem smWfFrom_smDel (d : α) (n : Nat) (m : SMap α) :
    ∀ lo, smWfFrom d lo m = true → smWfFrom d lo (smDel m n) = true := by
  induction m with
  | nil => intro lo _; rfl
  | cons q r ih =>
    obtain ⟨k, v⟩ := q
    intro lo w
    simp only [smWfFrom, Bool.and_eq_true, decide_eq_true_eq] at w
    simp only [smDel]
    split
    · exact smWfFrom_mono d _ (by omega) (ih _ w.2)
    · simp only [smWfFrom, Bool.and_eq_true, decide_eq_true_eq]
      exact ⟨w.1, ih _ w.2⟩

theorem smWfFrom_smPut (d : α) (n : Nat) (x : α) (hx : x ≠ d) (m : SMap α) :
    ∀ lo, lo ≤ n → smWfFrom d lo m = true → smWfFrom d lo (smPut m n x) = true := by
  induction m with
  | nil => intro lo h _; simp [smPut, smWfFrom, h, hx]
  | cons q r ih =>
    obtain ⟨k, v⟩ := q
    intro lo h w
    simp only [smWfFrom, Bool.and_eq_true, decide_eq_true_eq] at w
    simp only [smPut]
    split <;> rename_i h1
    · simp only [smWfFrom, Bool.and_eq_true, decide_eq_true_eq]
      exact ⟨w.1, ih _ (by omega) w.2⟩
    · split <;> rename_i h2
      · simp only [smWfFrom, Bool.and_eq_true, decide_eq_true_eq]
        exact ⟨⟨h, hx⟩, h2 ▸ w.2⟩
      · simp only [smWfFrom, Bool.and_eq_true, decide_eq_true_eq]
        exact ⟨⟨h, hx⟩, ⟨by omega, w.1.2⟩, w.2⟩

/-- A write keeps the canonical form of a sparse table. -/
theorem smWf_smSet (d : α) (m : SMap α) (n : Nat) (x : α) (w : smWf d m = true) : smWf d (smSet d m n x) = true := by
  unfold smSet
  split <;> rename_i h
  · exact smWfFrom_smDel d n m 0 w
  · exact smWfFrom_smPut d n x h m 0 (by omega) w

end Tables

/-! ## Memory -/

/-- A byte read after a byte written. -/
@[simp] theorem memGet_memSet (m : List Host.Cell) (a k : Nat) (b : Byte) :
    memGet (memSet m a b) k = if k = a then b else memGet m k := smGet_smSet _ m a k b

/-- A byte string is written at its addresses and nowhere else. -/
theorem memGet_writeBytes (bs : List Byte) : ∀ (m : List Host.Cell) (a k : Nat),
    memGet (writeBytes m a bs) k = if a ≤ k ∧ k < a + bs.length then bs.getD (k - a) 0 else memGet m k := by
  induction bs with
  | nil => intro m a k; simp only [writeBytes, List.length_nil]; split <;> first | omega | rfl
  | cons b bs ih =>
    intro m a k
    simp only [writeBytes, ih, memGet_memSet, List.length_cons]
    by_cases h1 : k = a
    · subst h1; simp [show ¬ (k + 1 ≤ k) by omega]
    · by_cases h2 : a + 1 ≤ k ∧ k < a + 1 + bs.length
      · have h3 : a ≤ k ∧ k < a + (bs.length + 1) := by omega
        have h4 : k - a = (k - (a + 1)) + 1 := by omega
        rw [if_pos h2, if_pos h3, h4]; rfl
      · have h3 : ¬ (a ≤ k ∧ k < a + (bs.length + 1)) := by omega
        rw [if_neg h2, if_neg h3, if_neg h1]

theorem length_leBytes (n : Nat) : ∀ v, (leBytes n v).length = n := by
  induction n with
  | zero => intro v; rfl
  | succ n ih => intro v; simp [leBytes, ih]

theorem leNat_leBytes (n : Nat) : ∀ v, leNat (leBytes n v) = v % 256 ^ n := by
  induction n with
  | zero => intro v; simp [leBytes, leNat, Nat.mod_one]
  | succ n ih =>
    intro v
    have h : v % 256 ^ (n + 1) = v % 256 + 256 * (v / 256 % 256 ^ n) := by
      rw [show 256 ^ (n + 1) = 256 * 256 ^ n from Nat.pow_succ', Nat.mod_mul]
    rw [h]
    simp only [leBytes, leNat, ih, BitVec.toNat_ofNat]

/-- Memory outside the `n` bytes that a number is written to reads as before. -/
theorem memGet_writeLe_of_outside (m : List Host.Cell) (a n v k : Nat) (h : k < a ∨ a + n ≤ k) :
    memGet (writeLe m a n v) k = memGet m k := by
  simp only [writeLe, memGet_writeBytes, length_leBytes]
  rw [if_neg (by omega)]

theorem readBytes_congr {m m' : List Host.Cell} : ∀ (n a : Nat),
    (∀ k, a ≤ k → k < a + n → memGet m k = memGet m' k) → readBytes m a n = readBytes m' a n := by
  intro n
  induction n with
  | zero => intros; rfl
  | succ n ih =>
    intro a h
    simp only [readBytes]
    rw [h a (by omega) (by omega), ih (a + 1) (fun k h1 h2 => h k (by omega) (by omega))]

/-- A byte string read back where it was written. -/
theorem readBytes_writeBytes_self (bs : List Byte) : ∀ (m : List Host.Cell) (a : Nat),
    readBytes (writeBytes m a bs) a bs.length = bs := by
  induction bs with
  | nil => intros; rfl
  | cons b bs ih =>
    intro m a
    simp only [List.length_cons, readBytes]
    have h : memGet (writeBytes m a (b :: bs)) a = b := by simp [memGet_writeBytes]
    rw [h]
    simp only [writeBytes, ih]

/-- A number read back where it was written. -/
theorem readLe_writeLe_self (m : List Host.Cell) (a n v : Nat) : readLe (writeLe m a n v) a n = v % 256 ^ n := by
  unfold readLe writeLe
  have h := readBytes_writeBytes_self (leBytes n v) m a
  rw [length_leBytes] at h
  rw [h, leNat_leBytes]

theorem memWf_memSet (m : List Host.Cell) (a : Nat) (b : Byte) (w : Memory.wf m = true) :
    Memory.wf (memSet m a b) = true := smWf_smSet _ m a b w

theorem memWf_writeBytes (bs : List Byte) : ∀ (m : List Host.Cell) (a : Nat), Memory.wf m = true →
    Memory.wf (writeBytes m a bs) = true := by
  induction bs with
  | nil => intro m a w; exact w
  | cons b bs ih => intro m a w; exact ih _ _ (memWf_memSet m a b w)

theorem memWf_writeLe (m : List Host.Cell) (a n v : Nat) (w : Memory.wf m = true) : Memory.wf (writeLe m a n v) = true :=
  memWf_writeBytes _ m a w

theorem memWf_writeAll (ws : List (Nat × List Byte)) : ∀ (m : List Host.Cell), Memory.wf m = true →
    Memory.wf (writeAll m ws) = true := by
  induction ws with
  | nil => intro m w; exact w
  | cons x ws ih => intro m w; exact ih _ (memWf_writeBytes x.2 m x.1 w)

theorem memWf_zeroBytes (m : List Host.Cell) (a n : Nat) (w : Memory.wf m = true) :
    Memory.wf (zeroBytes m a n) = true := smWfFrom_filter _ _ m 0 w

theorem memGet_filter (p : Nat → Bool) (m : List Host.Cell) (k : Nat) :
    memGet (m.filter fun c => p c.1) k = if p k then memGet m k else Memory.unwritten := by
  induction m with
  | nil => simp [memGet, smGet]
  | cons q r ih =>
    obtain ⟨a, v⟩ := q
    simp only [memGet] at ih
    by_cases h : p a = true <;> by_cases e : a = k <;> simp_all [memGet, smGet]

/-- Zeroed bytes read 0, all others as before. -/
theorem memGet_zeroBytes (m : List Host.Cell) (a n k : Nat) :
    memGet (zeroBytes m a n) k = if a ≤ k ∧ k < a + n then 0 else memGet m k := by
  have h := memGet_filter (fun x => !(decide (a ≤ x) && decide (x < a + n))) m k
  unfold zeroBytes
  rw [h]
  by_cases c : a ≤ k ∧ k < a + n
  · simp [c, Memory.unwritten]
  · have c' : ¬ (a ≤ k) ∨ ¬ (k < a + n) := by omega
    rcases c' with c' | c' <;> simp [c']

end Sys2Proof.Laws
end

