-- ==== Sys2Proof/Laws/State.lean ====
section
/-! SUPPORT. One lemma per field and update of the state, true by unfolding, and the reads of a part after its update. -/

namespace Sys2Proof.Laws

open Sys2Proof.Machine

/-! ## setRegion -/

@[simp] theorem setRegion_pending (s : State) (n : Nat) (r : Region) : (s.setRegion n r).pending = s.pending := rfl
@[simp] theorem setRegion_gc (s : State) (n : Nat) (r : Region) : (s.setRegion n r).gc = s.gc := rfl
@[simp] theorem setRegion_mem (s : State) (n : Nat) (r : Region) : (s.setRegion n r).mem = s.mem := rfl
@[simp] theorem setRegion_nv (s : State) (n : Nat) (r : Region) : (s.setRegion n r).nv = s.nv := rfl
@[simp] theorem setRegion_sys (s : State) (n : Nat) (r : Region) : (s.setRegion n r).sys = s.sys := rfl
@[simp] theorem setRegion_pwr (s : State) (n : Nat) (r : Region) : (s.setRegion n r).pwr = s.pwr := rfl
@[simp] theorem setRegion_map (s : State) (n : Nat) (r : Region) : (s.setRegion n r).map = s.map := rfl
@[simp] theorem setRegion_mc (s : State) (n : Nat) (r : Region) : (s.setRegion n r).mc = s.mc := rfl
@[simp] theorem setRegion_hif (s : State) (n : Nat) (r : Region) : (s.setRegion n r).hif = s.hif := rfl
@[simp] theorem setRegion_sec (s : State) (n : Nat) (r : Region) : (s.setRegion n r).sec = s.sec := rfl
@[simp] theorem setRegion_reqs (s : State) (n : Nat) (r : Region) : (s.setRegion n r).reqs = s.reqs := rfl
@[simp] theorem setRegion_frames (s : State) (n : Nat) (r : Region) : (s.setRegion n r).frames = s.frames := rfl
@[simp] theorem setRegion_att (s : State) (n : Nat) (r : Region) : (s.setRegion n r).att = s.att := rfl
@[simp] theorem setRegion_fab (s : State) (n : Nat) (r : Region) : (s.setRegion n r).fab = s.fab := rfl
@[simp] theorem setRegion_ho (s : State) (n : Nat) (r : Region) : (s.setRegion n r).ho = s.ho := rfl
@[simp] theorem setRegion_mesh (s : State) (n : Nat) (r : Region) : (s.setRegion n r).mesh = s.mesh := rfl
@[simp] theorem setRegion_out (s : State) (n : Nat) (r : Region) : (s.setRegion n r).out = s.out := rfl
@[simp] theorem setRegion_atLull (s : State) (n : Nat) (r : Region) : (s.setRegion n r).atLull = s.atLull := rfl
@[simp] theorem setRegion_races (s : State) (n : Nat) (r : Region) : (s.setRegion n r).races = s.races := rfl
@[simp] theorem setRegion_stamp (s : State) (n : Nat) (r : Region) : (s.setRegion n r).stamp = s.stamp := rfl
@[simp] theorem setRegion_freeCtr (s : State) (n : Nat) (r : Region) : (s.setRegion n r).freeCtr = s.freeCtr := rfl

/-! ## modRegion -/

@[simp] theorem modRegion_pending (s : State) (n : Nat) (f : Region → Region) : (s.modRegion n f).pending = s.pending := rfl
@[simp] theorem modRegion_gc (s : State) (n : Nat) (f : Region → Region) : (s.modRegion n f).gc = s.gc := rfl
@[simp] theorem modRegion_mem (s : State) (n : Nat) (f : Region → Region) : (s.modRegion n f).mem = s.mem := rfl
@[simp] theorem modRegion_nv (s : State) (n : Nat) (f : Region → Region) : (s.modRegion n f).nv = s.nv := rfl
@[simp] theorem modRegion_sys (s : State) (n : Nat) (f : Region → Region) : (s.modRegion n f).sys = s.sys := rfl
@[simp] theorem modRegion_pwr (s : State) (n : Nat) (f : Region → Region) : (s.modRegion n f).pwr = s.pwr := rfl
@[simp] theorem modRegion_map (s : State) (n : Nat) (f : Region → Region) : (s.modRegion n f).map = s.map := rfl
@[simp] theorem modRegion_mc (s : State) (n : Nat) (f : Region → Region) : (s.modRegion n f).mc = s.mc := rfl
@[simp] theorem modRegion_hif (s : State) (n : Nat) (f : Region → Region) : (s.modRegion n f).hif = s.hif := rfl
@[simp] theorem modRegion_sec (s : State) (n : Nat) (f : Region → Region) : (s.modRegion n f).sec = s.sec := rfl
@[simp] theorem modRegion_reqs (s : State) (n : Nat) (f : Region → Region) : (s.modRegion n f).reqs = s.reqs := rfl
@[simp] theorem modRegion_frames (s : State) (n : Nat) (f : Region → Region) : (s.modRegion n f).frames = s.frames := rfl
@[simp] theorem modRegion_att (s : State) (n : Nat) (f : Region → Region) : (s.modRegion n f).att = s.att := rfl
@[simp] theorem modRegion_fab (s : State) (n : Nat) (f : Region → Region) : (s.modRegion n f).fab = s.fab := rfl
@[simp] theorem modRegion_ho (s : State) (n : Nat) (f : Region → Region) : (s.modRegion n f).ho = s.ho := rfl
@[simp] theorem modRegion_mesh (s : State) (n : Nat) (f : Region → Region) : (s.modRegion n f).mesh = s.mesh := rfl
@[simp] theorem modRegion_out (s : State) (n : Nat) (f : Region → Region) : (s.modRegion n f).out = s.out := rfl
@[simp] theorem modRegion_atLull (s : State) (n : Nat) (f : Region → Region) : (s.modRegion n f).atLull = s.atLull := rfl
@[simp] theorem modRegion_races (s : State) (n : Nat) (f : Region → Region) : (s.modRegion n f).races = s.races := rfl
@[simp] theorem modRegion_stamp (s : State) (n : Nat) (f : Region → Region) : (s.modRegion n f).stamp = s.stamp := rfl
@[simp] theorem modRegion_freeCtr (s : State) (n : Nat) (f : Region → Region) : (s.modRegion n f).freeCtr = s.freeCtr := rfl

/-! ## setFrame -/

@[simp] theorem setFrame_pending (s : State) (n : Nat) (x : Frame) : (s.setFrame n x).pending = s.pending := rfl
@[simp] theorem setFrame_gc (s : State) (n : Nat) (x : Frame) : (s.setFrame n x).gc = s.gc := rfl
@[simp] theorem setFrame_mem (s : State) (n : Nat) (x : Frame) : (s.setFrame n x).mem = s.mem := rfl
@[simp] theorem setFrame_nv (s : State) (n : Nat) (x : Frame) : (s.setFrame n x).nv = s.nv := rfl
@[simp] theorem setFrame_sys (s : State) (n : Nat) (x : Frame) : (s.setFrame n x).sys = s.sys := rfl
@[simp] theorem setFrame_pwr (s : State) (n : Nat) (x : Frame) : (s.setFrame n x).pwr = s.pwr := rfl
@[simp] theorem setFrame_map (s : State) (n : Nat) (x : Frame) : (s.setFrame n x).map = s.map := rfl
@[simp] theorem setFrame_mc (s : State) (n : Nat) (x : Frame) : (s.setFrame n x).mc = s.mc := rfl
@[simp] theorem setFrame_hif (s : State) (n : Nat) (x : Frame) : (s.setFrame n x).hif = s.hif := rfl
@[simp] theorem setFrame_sec (s : State) (n : Nat) (x : Frame) : (s.setFrame n x).sec = s.sec := rfl
@[simp] theorem setFrame_regions (s : State) (n : Nat) (x : Frame) : (s.setFrame n x).regions = s.regions := rfl
@[simp] theorem setFrame_reqs (s : State) (n : Nat) (x : Frame) : (s.setFrame n x).reqs = s.reqs := rfl
@[simp] theorem setFrame_att (s : State) (n : Nat) (x : Frame) : (s.setFrame n x).att = s.att := rfl
@[simp] theorem setFrame_fab (s : State) (n : Nat) (x : Frame) : (s.setFrame n x).fab = s.fab := rfl
@[simp] theorem setFrame_ho (s : State) (n : Nat) (x : Frame) : (s.setFrame n x).ho = s.ho := rfl
@[simp] theorem setFrame_mesh (s : State) (n : Nat) (x : Frame) : (s.setFrame n x).mesh = s.mesh := rfl
@[simp] theorem setFrame_out (s : State) (n : Nat) (x : Frame) : (s.setFrame n x).out = s.out := rfl
@[simp] theorem setFrame_atLull (s : State) (n : Nat) (x : Frame) : (s.setFrame n x).atLull = s.atLull := rfl
@[simp] theorem setFrame_races (s : State) (n : Nat) (x : Frame) : (s.setFrame n x).races = s.races := rfl
@[simp] theorem setFrame_stamp (s : State) (n : Nat) (x : Frame) : (s.setFrame n x).stamp = s.stamp := rfl
@[simp] theorem setFrame_freeCtr (s : State) (n : Nat) (x : Frame) : (s.setFrame n x).freeCtr = s.freeCtr := rfl

/-! ## modFrame -/

@[simp] theorem modFrame_pending (s : State) (n : Nat) (g : Frame → Frame) : (s.modFrame n g).pending = s.pending := rfl
@[simp] theorem modFrame_gc (s : State) (n : Nat) (g : Frame → Frame) : (s.modFrame n g).gc = s.gc := rfl
@[simp] theorem modFrame_mem (s : State) (n : Nat) (g : Frame → Frame) : (s.modFrame n g).mem = s.mem := rfl
@[simp] theorem modFrame_nv (s : State) (n : Nat) (g : Frame → Frame) : (s.modFrame n g).nv = s.nv := rfl
@[simp] theorem modFrame_sys (s : State) (n : Nat) (g : Frame → Frame) : (s.modFrame n g).sys = s.sys := rfl
@[simp] theorem modFrame_pwr (s : State) (n : Nat) (g : Frame → Frame) : (s.modFrame n g).pwr = s.pwr := rfl
@[simp] theorem modFrame_map (s : State) (n : Nat) (g : Frame → Frame) : (s.modFrame n g).map = s.map := rfl
@[simp] theorem modFrame_mc (s : State) (n : Nat) (g : Frame → Frame) : (s.modFrame n g).mc = s.mc := rfl
@[simp] theorem modFrame_hif (s : State) (n : Nat) (g : Frame → Frame) : (s.modFrame n g).hif = s.hif := rfl
@[simp] theorem modFrame_sec (s : State) (n : Nat) (g : Frame → Frame) : (s.modFrame n g).sec = s.sec := rfl
@[simp] theorem modFrame_regions (s : State) (n : Nat) (g : Frame → Frame) : (s.modFrame n g).regions = s.regions := rfl
@[simp] theorem modFrame_reqs (s : State) (n : Nat) (g : Frame → Frame) : (s.modFrame n g).reqs = s.reqs := rfl
@[simp] theorem modFrame_att (s : State) (n : Nat) (g : Frame → Frame) : (s.modFrame n g).att = s.att := rfl
@[simp] theorem modFrame_fab (s : State) (n : Nat) (g : Frame → Frame) : (s.modFrame n g).fab = s.fab := rfl
@[simp] theorem modFrame_ho (s : State) (n : Nat) (g : Frame → Frame) : (s.modFrame n g).ho = s.ho := rfl
@[simp] theorem modFrame_mesh (s : State) (n : Nat) (g : Frame → Frame) : (s.modFrame n g).mesh = s.mesh := rfl
@[simp] theorem modFrame_out (s : State) (n : Nat) (g : Frame → Frame) : (s.modFrame n g).out = s.out := rfl
@[simp] theorem modFrame_atLull (s : State) (n : Nat) (g : Frame → Frame) : (s.modFrame n g).atLull = s.atLull := rfl
@[simp] theorem modFrame_races (s : State) (n : Nat) (g : Frame → Frame) : (s.modFrame n g).races = s.races := rfl
@[simp] theorem modFrame_stamp (s : State) (n : Nat) (g : Frame → Frame) : (s.modFrame n g).stamp = s.stamp := rfl
@[simp] theorem modFrame_freeCtr (s : State) (n : Nat) (g : Frame → Frame) : (s.modFrame n g).freeCtr = s.freeCtr := rfl

/-! ## setReq -/

@[simp] theorem setReq_pending (s : State) (i : Nat) (r : Req) : (s.setReq i r).pending = s.pending := rfl
@[simp] theorem setReq_gc (s : State) (i : Nat) (r : Req) : (s.setReq i r).gc = s.gc := rfl
@[simp] theorem setReq_mem (s : State) (i : Nat) (r : Req) : (s.setReq i r).mem = s.mem := rfl
@[simp] theorem setReq_nv (s : State) (i : Nat) (r : Req) : (s.setReq i r).nv = s.nv := rfl
@[simp] theorem setReq_sys (s : State) (i : Nat) (r : Req) : (s.setReq i r).sys = s.sys := rfl
@[simp] theorem setReq_pwr (s : State) (i : Nat) (r : Req) : (s.setReq i r).pwr = s.pwr := rfl
@[simp] theorem setReq_map (s : State) (i : Nat) (r : Req) : (s.setReq i r).map = s.map := rfl
@[simp] theorem setReq_mc (s : State) (i : Nat) (r : Req) : (s.setReq i r).mc = s.mc := rfl
@[simp] theorem setReq_hif (s : State) (i : Nat) (r : Req) : (s.setReq i r).hif = s.hif := rfl
@[simp] theorem setReq_sec (s : State) (i : Nat) (r : Req) : (s.setReq i r).sec = s.sec := rfl
@[simp] theorem setReq_regions (s : State) (i : Nat) (r : Req) : (s.setReq i r).regions = s.regions := rfl
@[simp] theorem setReq_frames (s : State) (i : Nat) (r : Req) : (s.setReq i r).frames = s.frames := rfl
@[simp] theorem setReq_att (s : State) (i : Nat) (r : Req) : (s.setReq i r).att = s.att := rfl
@[simp] theorem setReq_fab (s : State) (i : Nat) (r : Req) : (s.setReq i r).fab = s.fab := rfl
@[simp] theorem setReq_ho (s : State) (i : Nat) (r : Req) : (s.setReq i r).ho = s.ho := rfl
@[simp] theorem setReq_mesh (s : State) (i : Nat) (r : Req) : (s.setReq i r).mesh = s.mesh := rfl
@[simp] theorem setReq_out (s : State) (i : Nat) (r : Req) : (s.setReq i r).out = s.out := rfl
@[simp] theorem setReq_atLull (s : State) (i : Nat) (r : Req) : (s.setReq i r).atLull = s.atLull := rfl
@[simp] theorem setReq_races (s : State) (i : Nat) (r : Req) : (s.setReq i r).races = s.races := rfl
@[simp] theorem setReq_stamp (s : State) (i : Nat) (r : Req) : (s.setReq i r).stamp = s.stamp := rfl
@[simp] theorem setReq_freeCtr (s : State) (i : Nat) (r : Req) : (s.setReq i r).freeCtr = s.freeCtr := rfl

/-! ## modReq -/

@[simp] theorem modReq_pending (s : State) (i : Nat) (f : Req → Req) : (s.modReq i f).pending = s.pending := rfl
@[simp] theorem modReq_gc (s : State) (i : Nat) (f : Req → Req) : (s.modReq i f).gc = s.gc := rfl
@[simp] theorem modReq_mem (s : State) (i : Nat) (f : Req → Req) : (s.modReq i f).mem = s.mem := rfl
@[simp] theorem modReq_nv (s : State) (i : Nat) (f : Req → Req) : (s.modReq i f).nv = s.nv := rfl
@[simp] theorem modReq_sys (s : State) (i : Nat) (f : Req → Req) : (s.modReq i f).sys = s.sys := rfl
@[simp] theorem modReq_pwr (s : State) (i : Nat) (f : Req → Req) : (s.modReq i f).pwr = s.pwr := rfl
@[simp] theorem modReq_map (s : State) (i : Nat) (f : Req → Req) : (s.modReq i f).map = s.map := rfl
@[simp] theorem modReq_mc (s : State) (i : Nat) (f : Req → Req) : (s.modReq i f).mc = s.mc := rfl
@[simp] theorem modReq_hif (s : State) (i : Nat) (f : Req → Req) : (s.modReq i f).hif = s.hif := rfl
@[simp] theorem modReq_sec (s : State) (i : Nat) (f : Req → Req) : (s.modReq i f).sec = s.sec := rfl
@[simp] theorem modReq_regions (s : State) (i : Nat) (f : Req → Req) : (s.modReq i f).regions = s.regions := rfl
@[simp] theorem modReq_frames (s : State) (i : Nat) (f : Req → Req) : (s.modReq i f).frames = s.frames := rfl
@[simp] theorem modReq_att (s : State) (i : Nat) (f : Req → Req) : (s.modReq i f).att = s.att := rfl
@[simp] theorem modReq_fab (s : State) (i : Nat) (f : Req → Req) : (s.modReq i f).fab = s.fab := rfl
@[simp] theorem modReq_ho (s : State) (i : Nat) (f : Req → Req) : (s.modReq i f).ho = s.ho := rfl
@[simp] theorem modReq_mesh (s : State) (i : Nat) (f : Req → Req) : (s.modReq i f).mesh = s.mesh := rfl
@[simp] theorem modReq_out (s : State) (i : Nat) (f : Req → Req) : (s.modReq i f).out = s.out := rfl
@[simp] theorem modReq_atLull (s : State) (i : Nat) (f : Req → Req) : (s.modReq i f).atLull = s.atLull := rfl
@[simp] theorem modReq_races (s : State) (i : Nat) (f : Req → Req) : (s.modReq i f).races = s.races := rfl
@[simp] theorem modReq_stamp (s : State) (i : Nat) (f : Req → Req) : (s.modReq i f).stamp = s.stamp := rfl
@[simp] theorem modReq_freeCtr (s : State) (i : Nat) (f : Req → Req) : (s.modReq i f).freeCtr = s.freeCtr := rfl

/-! ## setQueue -/

@[simp] theorem setQueue_pending (s : State) (q : Nat) (x : Queue) : (s.setQueue q x).pending = s.pending := rfl
@[simp] theorem setQueue_gc (s : State) (q : Nat) (x : Queue) : (s.setQueue q x).gc = s.gc := rfl
@[simp] theorem setQueue_mem (s : State) (q : Nat) (x : Queue) : (s.setQueue q x).mem = s.mem := rfl
@[simp] theorem setQueue_nv (s : State) (q : Nat) (x : Queue) : (s.setQueue q x).nv = s.nv := rfl
@[simp] theorem setQueue_sys (s : State) (q : Nat) (x : Queue) : (s.setQueue q x).sys = s.sys := rfl
@[simp] theorem setQueue_pwr (s : State) (q : Nat) (x : Queue) : (s.setQueue q x).pwr = s.pwr := rfl
@[simp] theorem setQueue_map (s : State) (q : Nat) (x : Queue) : (s.setQueue q x).map = s.map := rfl
@[simp] theorem setQueue_mc (s : State) (q : Nat) (x : Queue) : (s.setQueue q x).mc = s.mc := rfl
@[simp] theorem setQueue_sec (s : State) (q : Nat) (x : Queue) : (s.setQueue q x).sec = s.sec := rfl
@[simp] theorem setQueue_regions (s : State) (q : Nat) (x : Queue) : (s.setQueue q x).regions = s.regions := rfl
@[simp] theorem setQueue_reqs (s : State) (q : Nat) (x : Queue) : (s.setQueue q x).reqs = s.reqs := rfl
@[simp] theorem setQueue_frames (s : State) (q : Nat) (x : Queue) : (s.setQueue q x).frames = s.frames := rfl
@[simp] theorem setQueue_att (s : State) (q : Nat) (x : Queue) : (s.setQueue q x).att = s.att := rfl
@[simp] theorem setQueue_fab (s : State) (q : Nat) (x : Queue) : (s.setQueue q x).fab = s.fab := rfl
@[simp] theorem setQueue_ho (s : State) (q : Nat) (x : Queue) : (s.setQueue q x).ho = s.ho := rfl
@[simp] theorem setQueue_mesh (s : State) (q : Nat) (x : Queue) : (s.setQueue q x).mesh = s.mesh := rfl
@[simp] theorem setQueue_out (s : State) (q : Nat) (x : Queue) : (s.setQueue q x).out = s.out := rfl
@[simp] theorem setQueue_atLull (s : State) (q : Nat) (x : Queue) : (s.setQueue q x).atLull = s.atLull := rfl
@[simp] theorem setQueue_races (s : State) (q : Nat) (x : Queue) : (s.setQueue q x).races = s.races := rfl
@[simp] theorem setQueue_stamp (s : State) (q : Nat) (x : Queue) : (s.setQueue q x).stamp = s.stamp := rfl
@[simp] theorem setQueue_freeCtr (s : State) (q : Nat) (x : Queue) : (s.setQueue q x).freeCtr = s.freeCtr := rfl

/-! ## modQueue -/

@[simp] theorem modQueue_pending (s : State) (q : Nat) (f : Queue → Queue) : (s.modQueue q f).pending = s.pending := rfl
@[simp] theorem modQueue_gc (s : State) (q : Nat) (f : Queue → Queue) : (s.modQueue q f).gc = s.gc := rfl
@[simp] theorem modQueue_mem (s : State) (q : Nat) (f : Queue → Queue) : (s.modQueue q f).mem = s.mem := rfl
@[simp] theorem modQueue_nv (s : State) (q : Nat) (f : Queue → Queue) : (s.modQueue q f).nv = s.nv := rfl
@[simp] theorem modQueue_sys (s : State) (q : Nat) (f : Queue → Queue) : (s.modQueue q f).sys = s.sys := rfl
@[simp] theorem modQueue_pwr (s : State) (q : Nat) (f : Queue → Queue) : (s.modQueue q f).pwr = s.pwr := rfl
@[simp] theorem modQueue_map (s : State) (q : Nat) (f : Queue → Queue) : (s.modQueue q f).map = s.map := rfl
@[simp] theorem modQueue_mc (s : State) (q : Nat) (f : Queue → Queue) : (s.modQueue q f).mc = s.mc := rfl
@[simp] theorem modQueue_sec (s : State) (q : Nat) (f : Queue → Queue) : (s.modQueue q f).sec = s.sec := rfl
@[simp] theorem modQueue_regions (s : State) (q : Nat) (f : Queue → Queue) : (s.modQueue q f).regions = s.regions := rfl
@[simp] theorem modQueue_reqs (s : State) (q : Nat) (f : Queue → Queue) : (s.modQueue q f).reqs = s.reqs := rfl
@[simp] theorem modQueue_frames (s : State) (q : Nat) (f : Queue → Queue) : (s.modQueue q f).frames = s.frames := rfl
@[simp] theorem modQueue_att (s : State) (q : Nat) (f : Queue → Queue) : (s.modQueue q f).att = s.att := rfl
@[simp] theorem modQueue_fab (s : State) (q : Nat) (f : Queue → Queue) : (s.modQueue q f).fab = s.fab := rfl
@[simp] theorem modQueue_ho (s : State) (q : Nat) (f : Queue → Queue) : (s.modQueue q f).ho = s.ho := rfl
@[simp] theorem modQueue_mesh (s : State) (q : Nat) (f : Queue → Queue) : (s.modQueue q f).mesh = s.mesh := rfl
@[simp] theorem modQueue_out (s : State) (q : Nat) (f : Queue → Queue) : (s.modQueue q f).out = s.out := rfl
@[simp] theorem modQueue_atLull (s : State) (q : Nat) (f : Queue → Queue) : (s.modQueue q f).atLull = s.atLull := rfl
@[simp] theorem modQueue_races (s : State) (q : Nat) (f : Queue → Queue) : (s.modQueue q f).races = s.races := rfl
@[simp] theorem modQueue_stamp (s : State) (q : Nat) (f : Queue → Queue) : (s.modQueue q f).stamp = s.stamp := rfl
@[simp] theorem modQueue_freeCtr (s : State) (q : Nat) (f : Queue → Queue) : (s.modQueue q f).freeCtr = s.freeCtr := rfl

/-! ## setDigRing -/

@[simp] theorem setDigRing_pending (s : State) (n : Nat) (r : Ring) : (s.setDigRing n r).pending = s.pending := rfl
@[simp] theorem setDigRing_gc (s : State) (n : Nat) (r : Ring) : (s.setDigRing n r).gc = s.gc := rfl
@[simp] theorem setDigRing_mem (s : State) (n : Nat) (r : Ring) : (s.setDigRing n r).mem = s.mem := rfl
@[simp] theorem setDigRing_nv (s : State) (n : Nat) (r : Ring) : (s.setDigRing n r).nv = s.nv := rfl
@[simp] theorem setDigRing_sys (s : State) (n : Nat) (r : Ring) : (s.setDigRing n r).sys = s.sys := rfl
@[simp] theorem setDigRing_pwr (s : State) (n : Nat) (r : Ring) : (s.setDigRing n r).pwr = s.pwr := rfl
@[simp] theorem setDigRing_map (s : State) (n : Nat) (r : Ring) : (s.setDigRing n r).map = s.map := rfl
@[simp] theorem setDigRing_mc (s : State) (n : Nat) (r : Ring) : (s.setDigRing n r).mc = s.mc := rfl
@[simp] theorem setDigRing_sec (s : State) (n : Nat) (r : Ring) : (s.setDigRing n r).sec = s.sec := rfl
@[simp] theorem setDigRing_regions (s : State) (n : Nat) (r : Ring) : (s.setDigRing n r).regions = s.regions := rfl
@[simp] theorem setDigRing_reqs (s : State) (n : Nat) (r : Ring) : (s.setDigRing n r).reqs = s.reqs := rfl
@[simp] theorem setDigRing_frames (s : State) (n : Nat) (r : Ring) : (s.setDigRing n r).frames = s.frames := rfl
@[simp] theorem setDigRing_att (s : State) (n : Nat) (r : Ring) : (s.setDigRing n r).att = s.att := rfl
@[simp] theorem setDigRing_fab (s : State) (n : Nat) (r : Ring) : (s.setDigRing n r).fab = s.fab := rfl
@[simp] theorem setDigRing_ho (s : State) (n : Nat) (r : Ring) : (s.setDigRing n r).ho = s.ho := rfl
@[simp] theorem setDigRing_mesh (s : State) (n : Nat) (r : Ring) : (s.setDigRing n r).mesh = s.mesh := rfl
@[simp] theorem setDigRing_out (s : State) (n : Nat) (r : Ring) : (s.setDigRing n r).out = s.out := rfl
@[simp] theorem setDigRing_atLull (s : State) (n : Nat) (r : Ring) : (s.setDigRing n r).atLull = s.atLull := rfl
@[simp] theorem setDigRing_races (s : State) (n : Nat) (r : Ring) : (s.setDigRing n r).races = s.races := rfl
@[simp] theorem setDigRing_stamp (s : State) (n : Nat) (r : Ring) : (s.setDigRing n r).stamp = s.stamp := rfl
@[simp] theorem setDigRing_freeCtr (s : State) (n : Nat) (r : Ring) : (s.setDigRing n r).freeCtr = s.freeCtr := rfl

/-! ## modEngine -/

@[simp] theorem modEngine_pending (s : State) (e : Nat) (f : Eng → Eng) : (s.modEngine e f).pending = s.pending := rfl
@[simp] theorem modEngine_gc (s : State) (e : Nat) (f : Eng → Eng) : (s.modEngine e f).gc = s.gc := rfl
@[simp] theorem modEngine_mem (s : State) (e : Nat) (f : Eng → Eng) : (s.modEngine e f).mem = s.mem := rfl
@[simp] theorem modEngine_nv (s : State) (e : Nat) (f : Eng → Eng) : (s.modEngine e f).nv = s.nv := rfl
@[simp] theorem modEngine_sys (s : State) (e : Nat) (f : Eng → Eng) : (s.modEngine e f).sys = s.sys := rfl
@[simp] theorem modEngine_pwr (s : State) (e : Nat) (f : Eng → Eng) : (s.modEngine e f).pwr = s.pwr := rfl
@[simp] theorem modEngine_map (s : State) (e : Nat) (f : Eng → Eng) : (s.modEngine e f).map = s.map := rfl
@[simp] theorem modEngine_mc (s : State) (e : Nat) (f : Eng → Eng) : (s.modEngine e f).mc = s.mc := rfl
@[simp] theorem modEngine_hif (s : State) (e : Nat) (f : Eng → Eng) : (s.modEngine e f).hif = s.hif := rfl
@[simp] theorem modEngine_sec (s : State) (e : Nat) (f : Eng → Eng) : (s.modEngine e f).sec = s.sec := rfl
@[simp] theorem modEngine_regions (s : State) (e : Nat) (f : Eng → Eng) : (s.modEngine e f).regions = s.regions := rfl
@[simp] theorem modEngine_reqs (s : State) (e : Nat) (f : Eng → Eng) : (s.modEngine e f).reqs = s.reqs := rfl
@[simp] theorem modEngine_frames (s : State) (e : Nat) (f : Eng → Eng) : (s.modEngine e f).frames = s.frames := rfl
@[simp] theorem modEngine_fab (s : State) (e : Nat) (f : Eng → Eng) : (s.modEngine e f).fab = s.fab := rfl
@[simp] theorem modEngine_ho (s : State) (e : Nat) (f : Eng → Eng) : (s.modEngine e f).ho = s.ho := rfl
@[simp] theorem modEngine_mesh (s : State) (e : Nat) (f : Eng → Eng) : (s.modEngine e f).mesh = s.mesh := rfl
@[simp] theorem modEngine_out (s : State) (e : Nat) (f : Eng → Eng) : (s.modEngine e f).out = s.out := rfl
@[simp] theorem modEngine_atLull (s : State) (e : Nat) (f : Eng → Eng) : (s.modEngine e f).atLull = s.atLull := rfl
@[simp] theorem modEngine_races (s : State) (e : Nat) (f : Eng → Eng) : (s.modEngine e f).races = s.races := rfl
@[simp] theorem modEngine_stamp (s : State) (e : Nat) (f : Eng → Eng) : (s.modEngine e f).stamp = s.stamp := rfl
@[simp] theorem modEngine_freeCtr (s : State) (e : Nat) (f : Eng → Eng) : (s.modEngine e f).freeCtr = s.freeCtr := rfl

/-! ## modPort -/

@[simp] theorem modPort_pending (s : State) (k : Nat) (f : Port → Port) : (s.modPort k f).pending = s.pending := rfl
@[simp] theorem modPort_gc (s : State) (k : Nat) (f : Port → Port) : (s.modPort k f).gc = s.gc := rfl
@[simp] theorem modPort_mem (s : State) (k : Nat) (f : Port → Port) : (s.modPort k f).mem = s.mem := rfl
@[simp] theorem modPort_nv (s : State) (k : Nat) (f : Port → Port) : (s.modPort k f).nv = s.nv := rfl
@[simp] theorem modPort_sys (s : State) (k : Nat) (f : Port → Port) : (s.modPort k f).sys = s.sys := rfl
@[simp] theorem modPort_pwr (s : State) (k : Nat) (f : Port → Port) : (s.modPort k f).pwr = s.pwr := rfl
@[simp] theorem modPort_map (s : State) (k : Nat) (f : Port → Port) : (s.modPort k f).map = s.map := rfl
@[simp] theorem modPort_mc (s : State) (k : Nat) (f : Port → Port) : (s.modPort k f).mc = s.mc := rfl
@[simp] theorem modPort_hif (s : State) (k : Nat) (f : Port → Port) : (s.modPort k f).hif = s.hif := rfl
@[simp] theorem modPort_sec (s : State) (k : Nat) (f : Port → Port) : (s.modPort k f).sec = s.sec := rfl
@[simp] theorem modPort_regions (s : State) (k : Nat) (f : Port → Port) : (s.modPort k f).regions = s.regions := rfl
@[simp] theorem modPort_reqs (s : State) (k : Nat) (f : Port → Port) : (s.modPort k f).reqs = s.reqs := rfl
@[simp] theorem modPort_frames (s : State) (k : Nat) (f : Port → Port) : (s.modPort k f).frames = s.frames := rfl
@[simp] theorem modPort_att (s : State) (k : Nat) (f : Port → Port) : (s.modPort k f).att = s.att := rfl
@[simp] theorem modPort_ho (s : State) (k : Nat) (f : Port → Port) : (s.modPort k f).ho = s.ho := rfl
@[simp] theorem modPort_mesh (s : State) (k : Nat) (f : Port → Port) : (s.modPort k f).mesh = s.mesh := rfl
@[simp] theorem modPort_out (s : State) (k : Nat) (f : Port → Port) : (s.modPort k f).out = s.out := rfl
@[simp] theorem modPort_atLull (s : State) (k : Nat) (f : Port → Port) : (s.modPort k f).atLull = s.atLull := rfl
@[simp] theorem modPort_races (s : State) (k : Nat) (f : Port → Port) : (s.modPort k f).races = s.races := rfl
@[simp] theorem modPort_stamp (s : State) (k : Nat) (f : Port → Port) : (s.modPort k f).stamp = s.stamp := rfl
@[simp] theorem modPort_freeCtr (s : State) (k : Nat) (f : Port → Port) : (s.modPort k f).freeCtr = s.freeCtr := rfl

/-! ## modT1 -/

@[simp] theorem modT1_pending (s : State) (c : Nat) (f : Ctrl → Ctrl) : (s.modT1 c f).pending = s.pending := rfl
@[simp] theorem modT1_gc (s : State) (c : Nat) (f : Ctrl → Ctrl) : (s.modT1 c f).gc = s.gc := rfl
@[simp] theorem modT1_mem (s : State) (c : Nat) (f : Ctrl → Ctrl) : (s.modT1 c f).mem = s.mem := rfl
@[simp] theorem modT1_nv (s : State) (c : Nat) (f : Ctrl → Ctrl) : (s.modT1 c f).nv = s.nv := rfl
@[simp] theorem modT1_sys (s : State) (c : Nat) (f : Ctrl → Ctrl) : (s.modT1 c f).sys = s.sys := rfl
@[simp] theorem modT1_pwr (s : State) (c : Nat) (f : Ctrl → Ctrl) : (s.modT1 c f).pwr = s.pwr := rfl
@[simp] theorem modT1_map (s : State) (c : Nat) (f : Ctrl → Ctrl) : (s.modT1 c f).map = s.map := rfl
@[simp] theorem modT1_hif (s : State) (c : Nat) (f : Ctrl → Ctrl) : (s.modT1 c f).hif = s.hif := rfl
@[simp] theorem modT1_sec (s : State) (c : Nat) (f : Ctrl → Ctrl) : (s.modT1 c f).sec = s.sec := rfl
@[simp] theorem modT1_regions (s : State) (c : Nat) (f : Ctrl → Ctrl) : (s.modT1 c f).regions = s.regions := rfl
@[simp] theorem modT1_reqs (s : State) (c : Nat) (f : Ctrl → Ctrl) : (s.modT1 c f).reqs = s.reqs := rfl
@[simp] theorem modT1_frames (s : State) (c : Nat) (f : Ctrl → Ctrl) : (s.modT1 c f).frames = s.frames := rfl
@[simp] theorem modT1_att (s : State) (c : Nat) (f : Ctrl → Ctrl) : (s.modT1 c f).att = s.att := rfl
@[simp] theorem modT1_fab (s : State) (c : Nat) (f : Ctrl → Ctrl) : (s.modT1 c f).fab = s.fab := rfl
@[simp] theorem modT1_ho (s : State) (c : Nat) (f : Ctrl → Ctrl) : (s.modT1 c f).ho = s.ho := rfl
@[simp] theorem modT1_mesh (s : State) (c : Nat) (f : Ctrl → Ctrl) : (s.modT1 c f).mesh = s.mesh := rfl
@[simp] theorem modT1_out (s : State) (c : Nat) (f : Ctrl → Ctrl) : (s.modT1 c f).out = s.out := rfl
@[simp] theorem modT1_atLull (s : State) (c : Nat) (f : Ctrl → Ctrl) : (s.modT1 c f).atLull = s.atLull := rfl
@[simp] theorem modT1_races (s : State) (c : Nat) (f : Ctrl → Ctrl) : (s.modT1 c f).races = s.races := rfl
@[simp] theorem modT1_stamp (s : State) (c : Nat) (f : Ctrl → Ctrl) : (s.modT1 c f).stamp = s.stamp := rfl
@[simp] theorem modT1_freeCtr (s : State) (c : Nat) (f : Ctrl → Ctrl) : (s.modT1 c f).freeCtr = s.freeCtr := rfl

/-! ## modT2 -/

@[simp] theorem modT2_pending (s : State) (c : Nat) (f : Ctrl → Ctrl) : (s.modT2 c f).pending = s.pending := rfl
@[simp] theorem modT2_gc (s : State) (c : Nat) (f : Ctrl → Ctrl) : (s.modT2 c f).gc = s.gc := rfl
@[simp] theorem modT2_mem (s : State) (c : Nat) (f : Ctrl → Ctrl) : (s.modT2 c f).mem = s.mem := rfl
@[simp] theorem modT2_nv (s : State) (c : Nat) (f : Ctrl → Ctrl) : (s.modT2 c f).nv = s.nv := rfl
@[simp] theorem modT2_sys (s : State) (c : Nat) (f : Ctrl → Ctrl) : (s.modT2 c f).sys = s.sys := rfl
@[simp] theorem modT2_pwr (s : State) (c : Nat) (f : Ctrl → Ctrl) : (s.modT2 c f).pwr = s.pwr := rfl
@[simp] theorem modT2_map (s : State) (c : Nat) (f : Ctrl → Ctrl) : (s.modT2 c f).map = s.map := rfl
@[simp] theorem modT2_hif (s : State) (c : Nat) (f : Ctrl → Ctrl) : (s.modT2 c f).hif = s.hif := rfl
@[simp] theorem modT2_sec (s : State) (c : Nat) (f : Ctrl → Ctrl) : (s.modT2 c f).sec = s.sec := rfl
@[simp] theorem modT2_regions (s : State) (c : Nat) (f : Ctrl → Ctrl) : (s.modT2 c f).regions = s.regions := rfl
@[simp] theorem modT2_reqs (s : State) (c : Nat) (f : Ctrl → Ctrl) : (s.modT2 c f).reqs = s.reqs := rfl
@[simp] theorem modT2_frames (s : State) (c : Nat) (f : Ctrl → Ctrl) : (s.modT2 c f).frames = s.frames := rfl
@[simp] theorem modT2_att (s : State) (c : Nat) (f : Ctrl → Ctrl) : (s.modT2 c f).att = s.att := rfl
@[simp] theorem modT2_fab (s : State) (c : Nat) (f : Ctrl → Ctrl) : (s.modT2 c f).fab = s.fab := rfl
@[simp] theorem modT2_ho (s : State) (c : Nat) (f : Ctrl → Ctrl) : (s.modT2 c f).ho = s.ho := rfl
@[simp] theorem modT2_mesh (s : State) (c : Nat) (f : Ctrl → Ctrl) : (s.modT2 c f).mesh = s.mesh := rfl
@[simp] theorem modT2_out (s : State) (c : Nat) (f : Ctrl → Ctrl) : (s.modT2 c f).out = s.out := rfl
@[simp] theorem modT2_atLull (s : State) (c : Nat) (f : Ctrl → Ctrl) : (s.modT2 c f).atLull = s.atLull := rfl
@[simp] theorem modT2_races (s : State) (c : Nat) (f : Ctrl → Ctrl) : (s.modT2 c f).races = s.races := rfl
@[simp] theorem modT2_stamp (s : State) (c : Nat) (f : Ctrl → Ctrl) : (s.modT2 c f).stamp = s.stamp := rfl
@[simp] theorem modT2_freeCtr (s : State) (c : Nat) (f : Ctrl → Ctrl) : (s.modT2 c f).freeCtr = s.freeCtr := rfl

/-! ## modHoPort -/

@[simp] theorem modHoPort_pending (s : State) (p : Nat) (f : HoPort → HoPort) : (s.modHoPort p f).pending = s.pending := rfl
@[simp] theorem modHoPort_gc (s : State) (p : Nat) (f : HoPort → HoPort) : (s.modHoPort p f).gc = s.gc := rfl
@[simp] theorem modHoPort_mem (s : State) (p : Nat) (f : HoPort → HoPort) : (s.modHoPort p f).mem = s.mem := rfl
@[simp] theorem modHoPort_nv (s : State) (p : Nat) (f : HoPort → HoPort) : (s.modHoPort p f).nv = s.nv := rfl
@[simp] theorem modHoPort_sys (s : State) (p : Nat) (f : HoPort → HoPort) : (s.modHoPort p f).sys = s.sys := rfl
@[simp] theorem modHoPort_pwr (s : State) (p : Nat) (f : HoPort → HoPort) : (s.modHoPort p f).pwr = s.pwr := rfl
@[simp] theorem modHoPort_map (s : State) (p : Nat) (f : HoPort → HoPort) : (s.modHoPort p f).map = s.map := rfl
@[simp] theorem modHoPort_mc (s : State) (p : Nat) (f : HoPort → HoPort) : (s.modHoPort p f).mc = s.mc := rfl
@[simp] theorem modHoPort_hif (s : State) (p : Nat) (f : HoPort → HoPort) : (s.modHoPort p f).hif = s.hif := rfl
@[simp] theorem modHoPort_sec (s : State) (p : Nat) (f : HoPort → HoPort) : (s.modHoPort p f).sec = s.sec := rfl
@[simp] theorem modHoPort_regions (s : State) (p : Nat) (f : HoPort → HoPort) : (s.modHoPort p f).regions = s.regions := rfl
@[simp] theorem modHoPort_reqs (s : State) (p : Nat) (f : HoPort → HoPort) : (s.modHoPort p f).reqs = s.reqs := rfl
@[simp] theorem modHoPort_frames (s : State) (p : Nat) (f : HoPort → HoPort) : (s.modHoPort p f).frames = s.frames := rfl
@[simp] theorem modHoPort_att (s : State) (p : Nat) (f : HoPort → HoPort) : (s.modHoPort p f).att = s.att := rfl
@[simp] theorem modHoPort_fab (s : State) (p : Nat) (f : HoPort → HoPort) : (s.modHoPort p f).fab = s.fab := rfl
@[simp] theorem modHoPort_mesh (s : State) (p : Nat) (f : HoPort → HoPort) : (s.modHoPort p f).mesh = s.mesh := rfl
@[simp] theorem modHoPort_out (s : State) (p : Nat) (f : HoPort → HoPort) : (s.modHoPort p f).out = s.out := rfl
@[simp] theorem modHoPort_atLull (s : State) (p : Nat) (f : HoPort → HoPort) : (s.modHoPort p f).atLull = s.atLull := rfl
@[simp] theorem modHoPort_races (s : State) (p : Nat) (f : HoPort → HoPort) : (s.modHoPort p f).races = s.races := rfl
@[simp] theorem modHoPort_stamp (s : State) (p : Nat) (f : HoPort → HoPort) : (s.modHoPort p f).stamp = s.stamp := rfl
@[simp] theorem modHoPort_freeCtr (s : State) (p : Nat) (f : HoPort → HoPort) : (s.modHoPort p f).freeCtr = s.freeCtr := rfl

/-! ## modHalf -/

@[simp] theorem modHalf_pending (s : State) (h : Half) (f : HalfPwr → HalfPwr) : (s.modHalf h f).pending = s.pending := by cases h <;> rfl
@[simp] theorem modHalf_gc (s : State) (h : Half) (f : HalfPwr → HalfPwr) : (s.modHalf h f).gc = s.gc := by cases h <;> rfl
@[simp] theorem modHalf_mem (s : State) (h : Half) (f : HalfPwr → HalfPwr) : (s.modHalf h f).mem = s.mem := by cases h <;> rfl
@[simp] theorem modHalf_nv (s : State) (h : Half) (f : HalfPwr → HalfPwr) : (s.modHalf h f).nv = s.nv := by cases h <;> rfl
@[simp] theorem modHalf_sys (s : State) (h : Half) (f : HalfPwr → HalfPwr) : (s.modHalf h f).sys = s.sys := by cases h <;> rfl
@[simp] theorem modHalf_map (s : State) (h : Half) (f : HalfPwr → HalfPwr) : (s.modHalf h f).map = s.map := by cases h <;> rfl
@[simp] theorem modHalf_mc (s : State) (h : Half) (f : HalfPwr → HalfPwr) : (s.modHalf h f).mc = s.mc := by cases h <;> rfl
@[simp] theorem modHalf_hif (s : State) (h : Half) (f : HalfPwr → HalfPwr) : (s.modHalf h f).hif = s.hif := by cases h <;> rfl
@[simp] theorem modHalf_sec (s : State) (h : Half) (f : HalfPwr → HalfPwr) : (s.modHalf h f).sec = s.sec := by cases h <;> rfl
@[simp] theorem modHalf_regions (s : State) (h : Half) (f : HalfPwr → HalfPwr) : (s.modHalf h f).regions = s.regions := by cases h <;> rfl
@[simp] theorem modHalf_reqs (s : State) (h : Half) (f : HalfPwr → HalfPwr) : (s.modHalf h f).reqs = s.reqs := by cases h <;> rfl
@[simp] theorem modHalf_frames (s : State) (h : Half) (f : HalfPwr → HalfPwr) : (s.modHalf h f).frames = s.frames := by cases h <;> rfl
@[simp] theorem modHalf_att (s : State) (h : Half) (f : HalfPwr → HalfPwr) : (s.modHalf h f).att = s.att := by cases h <;> rfl
@[simp] theorem modHalf_fab (s : State) (h : Half) (f : HalfPwr → HalfPwr) : (s.modHalf h f).fab = s.fab := by cases h <;> rfl
@[simp] theorem modHalf_ho (s : State) (h : Half) (f : HalfPwr → HalfPwr) : (s.modHalf h f).ho = s.ho := by cases h <;> rfl
@[simp] theorem modHalf_mesh (s : State) (h : Half) (f : HalfPwr → HalfPwr) : (s.modHalf h f).mesh = s.mesh := by cases h <;> rfl
@[simp] theorem modHalf_out (s : State) (h : Half) (f : HalfPwr → HalfPwr) : (s.modHalf h f).out = s.out := by cases h <;> rfl
@[simp] theorem modHalf_atLull (s : State) (h : Half) (f : HalfPwr → HalfPwr) : (s.modHalf h f).atLull = s.atLull := by cases h <;> rfl
@[simp] theorem modHalf_races (s : State) (h : Half) (f : HalfPwr → HalfPwr) : (s.modHalf h f).races = s.races := by cases h <;> rfl
@[simp] theorem modHalf_stamp (s : State) (h : Half) (f : HalfPwr → HalfPwr) : (s.modHalf h f).stamp = s.stamp := by cases h <;> rfl
@[simp] theorem modHalf_freeCtr (s : State) (h : Half) (f : HalfPwr → HalfPwr) : (s.modHalf h f).freeCtr = s.freeCtr := by cases h <;> rfl

/-! ## emit -/

@[simp] theorem emit_pending (s : State) (o : Out) : (s.emit o).pending = s.pending := rfl
@[simp] theorem emit_gc (s : State) (o : Out) : (s.emit o).gc = s.gc := rfl
@[simp] theorem emit_mem (s : State) (o : Out) : (s.emit o).mem = s.mem := rfl
@[simp] theorem emit_nv (s : State) (o : Out) : (s.emit o).nv = s.nv := rfl
@[simp] theorem emit_sys (s : State) (o : Out) : (s.emit o).sys = s.sys := rfl
@[simp] theorem emit_pwr (s : State) (o : Out) : (s.emit o).pwr = s.pwr := rfl
@[simp] theorem emit_map (s : State) (o : Out) : (s.emit o).map = s.map := rfl
@[simp] theorem emit_mc (s : State) (o : Out) : (s.emit o).mc = s.mc := rfl
@[simp] theorem emit_hif (s : State) (o : Out) : (s.emit o).hif = s.hif := rfl
@[simp] theorem emit_sec (s : State) (o : Out) : (s.emit o).sec = s.sec := rfl
@[simp] theorem emit_regions (s : State) (o : Out) : (s.emit o).regions = s.regions := rfl
@[simp] theorem emit_reqs (s : State) (o : Out) : (s.emit o).reqs = s.reqs := rfl
@[simp] theorem emit_frames (s : State) (o : Out) : (s.emit o).frames = s.frames := rfl
@[simp] theorem emit_att (s : State) (o : Out) : (s.emit o).att = s.att := rfl
@[simp] theorem emit_fab (s : State) (o : Out) : (s.emit o).fab = s.fab := rfl
@[simp] theorem emit_ho (s : State) (o : Out) : (s.emit o).ho = s.ho := rfl
@[simp] theorem emit_mesh (s : State) (o : Out) : (s.emit o).mesh = s.mesh := rfl
@[simp] theorem emit_atLull (s : State) (o : Out) : (s.emit o).atLull = s.atLull := rfl
@[simp] theorem emit_races (s : State) (o : Out) : (s.emit o).races = s.races := rfl
@[simp] theorem emit_stamp (s : State) (o : Out) : (s.emit o).stamp = s.stamp := rfl
@[simp] theorem emit_freeCtr (s : State) (o : Out) : (s.emit o).freeCtr = s.freeCtr := rfl

/-! ## beginBatch -/

@[simp] theorem beginBatch_pending (s : State) : (s.beginBatch).pending = s.pending := rfl
@[simp] theorem beginBatch_gc (s : State) : (s.beginBatch).gc = s.gc := rfl
@[simp] theorem beginBatch_mem (s : State) : (s.beginBatch).mem = s.mem := rfl
@[simp] theorem beginBatch_nv (s : State) : (s.beginBatch).nv = s.nv := rfl
@[simp] theorem beginBatch_sys (s : State) : (s.beginBatch).sys = s.sys := rfl
@[simp] theorem beginBatch_pwr (s : State) : (s.beginBatch).pwr = s.pwr := rfl
@[simp] theorem beginBatch_map (s : State) : (s.beginBatch).map = s.map := rfl
@[simp] theorem beginBatch_mc (s : State) : (s.beginBatch).mc = s.mc := rfl
@[simp] theorem beginBatch_sec (s : State) : (s.beginBatch).sec = s.sec := rfl
@[simp] theorem beginBatch_regions (s : State) : (s.beginBatch).regions = s.regions := rfl
@[simp] theorem beginBatch_reqs (s : State) : (s.beginBatch).reqs = s.reqs := rfl
@[simp] theorem beginBatch_frames (s : State) : (s.beginBatch).frames = s.frames := rfl
@[simp] theorem beginBatch_att (s : State) : (s.beginBatch).att = s.att := rfl
@[simp] theorem beginBatch_fab (s : State) : (s.beginBatch).fab = s.fab := rfl
@[simp] theorem beginBatch_ho (s : State) : (s.beginBatch).ho = s.ho := rfl
@[simp] theorem beginBatch_mesh (s : State) : (s.beginBatch).mesh = s.mesh := rfl
@[simp] theorem beginBatch_out (s : State) : (s.beginBatch).out = s.out := rfl
@[simp] theorem beginBatch_atLull (s : State) : (s.beginBatch).atLull = s.atLull := rfl
@[simp] theorem beginBatch_races (s : State) : (s.beginBatch).races = s.races := rfl
@[simp] theorem beginBatch_stamp (s : State) : (s.beginBatch).stamp = s.stamp := rfl
@[simp] theorem beginBatch_freeCtr (s : State) : (s.beginBatch).freeCtr = s.freeCtr := rfl

/-! ## countCe -/

@[simp] theorem countCe_pending (s : State) : (s.countCe).pending = s.pending := rfl
@[simp] theorem countCe_gc (s : State) : (s.countCe).gc = s.gc := rfl
@[simp] theorem countCe_mem (s : State) : (s.countCe).mem = s.mem := rfl
@[simp] theorem countCe_nv (s : State) : (s.countCe).nv = s.nv := rfl
@[simp] theorem countCe_pwr (s : State) : (s.countCe).pwr = s.pwr := rfl
@[simp] theorem countCe_map (s : State) : (s.countCe).map = s.map := rfl
@[simp] theorem countCe_mc (s : State) : (s.countCe).mc = s.mc := rfl
@[simp] theorem countCe_hif (s : State) : (s.countCe).hif = s.hif := rfl
@[simp] theorem countCe_sec (s : State) : (s.countCe).sec = s.sec := rfl
@[simp] theorem countCe_regions (s : State) : (s.countCe).regions = s.regions := rfl
@[simp] theorem countCe_reqs (s : State) : (s.countCe).reqs = s.reqs := rfl
@[simp] theorem countCe_frames (s : State) : (s.countCe).frames = s.frames := rfl
@[simp] theorem countCe_att (s : State) : (s.countCe).att = s.att := rfl
@[simp] theorem countCe_fab (s : State) : (s.countCe).fab = s.fab := rfl
@[simp] theorem countCe_ho (s : State) : (s.countCe).ho = s.ho := rfl
@[simp] theorem countCe_mesh (s : State) : (s.countCe).mesh = s.mesh := rfl
@[simp] theorem countCe_out (s : State) : (s.countCe).out = s.out := rfl
@[simp] theorem countCe_atLull (s : State) : (s.countCe).atLull = s.atLull := rfl
@[simp] theorem countCe_races (s : State) : (s.countCe).races = s.races := rfl
@[simp] theorem countCe_stamp (s : State) : (s.countCe).stamp = s.stamp := rfl
@[simp] theorem countCe_freeCtr (s : State) : (s.countCe).freeCtr = s.freeCtr := rfl

/-! ## setCtx -/

@[simp] theorem setCtx_pending (s : State) (w : ThreadId) (c : Ctx) : (s.setCtx w c).pending = s.pending := rfl
@[simp] theorem setCtx_gc (s : State) (w : ThreadId) (c : Ctx) : (s.setCtx w c).gc = s.gc := rfl
@[simp] theorem setCtx_mem (s : State) (w : ThreadId) (c : Ctx) : (s.setCtx w c).mem = s.mem := rfl
@[simp] theorem setCtx_nv (s : State) (w : ThreadId) (c : Ctx) : (s.setCtx w c).nv = s.nv := rfl
@[simp] theorem setCtx_sys (s : State) (w : ThreadId) (c : Ctx) : (s.setCtx w c).sys = s.sys := rfl
@[simp] theorem setCtx_pwr (s : State) (w : ThreadId) (c : Ctx) : (s.setCtx w c).pwr = s.pwr := rfl
@[simp] theorem setCtx_map (s : State) (w : ThreadId) (c : Ctx) : (s.setCtx w c).map = s.map := rfl
@[simp] theorem setCtx_mc (s : State) (w : ThreadId) (c : Ctx) : (s.setCtx w c).mc = s.mc := rfl
@[simp] theorem setCtx_hif (s : State) (w : ThreadId) (c : Ctx) : (s.setCtx w c).hif = s.hif := rfl
@[simp] theorem setCtx_sec (s : State) (w : ThreadId) (c : Ctx) : (s.setCtx w c).sec = s.sec := rfl
@[simp] theorem setCtx_regions (s : State) (w : ThreadId) (c : Ctx) : (s.setCtx w c).regions = s.regions := rfl
@[simp] theorem setCtx_reqs (s : State) (w : ThreadId) (c : Ctx) : (s.setCtx w c).reqs = s.reqs := rfl
@[simp] theorem setCtx_att (s : State) (w : ThreadId) (c : Ctx) : (s.setCtx w c).att = s.att := rfl
@[simp] theorem setCtx_fab (s : State) (w : ThreadId) (c : Ctx) : (s.setCtx w c).fab = s.fab := rfl
@[simp] theorem setCtx_ho (s : State) (w : ThreadId) (c : Ctx) : (s.setCtx w c).ho = s.ho := rfl
@[simp] theorem setCtx_mesh (s : State) (w : ThreadId) (c : Ctx) : (s.setCtx w c).mesh = s.mesh := rfl
@[simp] theorem setCtx_out (s : State) (w : ThreadId) (c : Ctx) : (s.setCtx w c).out = s.out := rfl
@[simp] theorem setCtx_atLull (s : State) (w : ThreadId) (c : Ctx) : (s.setCtx w c).atLull = s.atLull := rfl
@[simp] theorem setCtx_races (s : State) (w : ThreadId) (c : Ctx) : (s.setCtx w c).races = s.races := rfl
@[simp] theorem setCtx_stamp (s : State) (w : ThreadId) (c : Ctx) : (s.setCtx w c).stamp = s.stamp := rfl
@[simp] theorem setCtx_freeCtr (s : State) (w : ThreadId) (c : Ctx) : (s.setCtx w c).freeCtr = s.freeCtr := rfl

/-! ## storeStore -/

@[simp] theorem storeStore_pending (s : State) (f off n v : Nat) : (s.storeStore f off n v).pending = s.pending := rfl
@[simp] theorem storeStore_gc (s : State) (f off n v : Nat) : (s.storeStore f off n v).gc = s.gc := rfl
@[simp] theorem storeStore_nv (s : State) (f off n v : Nat) : (s.storeStore f off n v).nv = s.nv := rfl
@[simp] theorem storeStore_sys (s : State) (f off n v : Nat) : (s.storeStore f off n v).sys = s.sys := rfl
@[simp] theorem storeStore_pwr (s : State) (f off n v : Nat) : (s.storeStore f off n v).pwr = s.pwr := rfl
@[simp] theorem storeStore_map (s : State) (f off n v : Nat) : (s.storeStore f off n v).map = s.map := rfl
@[simp] theorem storeStore_mc (s : State) (f off n v : Nat) : (s.storeStore f off n v).mc = s.mc := rfl
@[simp] theorem storeStore_hif (s : State) (f off n v : Nat) : (s.storeStore f off n v).hif = s.hif := rfl
@[simp] theorem storeStore_sec (s : State) (f off n v : Nat) : (s.storeStore f off n v).sec = s.sec := rfl
@[simp] theorem storeStore_regions (s : State) (f off n v : Nat) : (s.storeStore f off n v).regions = s.regions := rfl
@[simp] theorem storeStore_reqs (s : State) (f off n v : Nat) : (s.storeStore f off n v).reqs = s.reqs := rfl
@[simp] theorem storeStore_frames (s : State) (f off n v : Nat) : (s.storeStore f off n v).frames = s.frames := rfl
@[simp] theorem storeStore_att (s : State) (f off n v : Nat) : (s.storeStore f off n v).att = s.att := rfl
@[simp] theorem storeStore_fab (s : State) (f off n v : Nat) : (s.storeStore f off n v).fab = s.fab := rfl
@[simp] theorem storeStore_ho (s : State) (f off n v : Nat) : (s.storeStore f off n v).ho = s.ho := rfl
@[simp] theorem storeStore_mesh (s : State) (f off n v : Nat) : (s.storeStore f off n v).mesh = s.mesh := rfl
@[simp] theorem storeStore_out (s : State) (f off n v : Nat) : (s.storeStore f off n v).out = s.out := rfl
@[simp] theorem storeStore_atLull (s : State) (f off n v : Nat) : (s.storeStore f off n v).atLull = s.atLull := rfl
@[simp] theorem storeStore_races (s : State) (f off n v : Nat) : (s.storeStore f off n v).races = s.races := rfl
@[simp] theorem storeStore_stamp (s : State) (f off n v : Nat) : (s.storeStore f off n v).stamp = s.stamp := rfl
@[simp] theorem storeStore_freeCtr (s : State) (f off n v : Nat) : (s.storeStore f off n v).freeCtr = s.freeCtr := rfl

/-! ## storeBy -/

@[simp] theorem storeBy_pending (s : State) (w : ThreadId) (off n v : Nat) : (s.storeBy w off n v).pending = s.pending := rfl
@[simp] theorem storeBy_gc (s : State) (w : ThreadId) (off n v : Nat) : (s.storeBy w off n v).gc = s.gc := rfl
@[simp] theorem storeBy_nv (s : State) (w : ThreadId) (off n v : Nat) : (s.storeBy w off n v).nv = s.nv := rfl
@[simp] theorem storeBy_sys (s : State) (w : ThreadId) (off n v : Nat) : (s.storeBy w off n v).sys = s.sys := rfl
@[simp] theorem storeBy_pwr (s : State) (w : ThreadId) (off n v : Nat) : (s.storeBy w off n v).pwr = s.pwr := rfl
@[simp] theorem storeBy_map (s : State) (w : ThreadId) (off n v : Nat) : (s.storeBy w off n v).map = s.map := rfl
@[simp] theorem storeBy_mc (s : State) (w : ThreadId) (off n v : Nat) : (s.storeBy w off n v).mc = s.mc := rfl
@[simp] theorem storeBy_hif (s : State) (w : ThreadId) (off n v : Nat) : (s.storeBy w off n v).hif = s.hif := rfl
@[simp] theorem storeBy_sec (s : State) (w : ThreadId) (off n v : Nat) : (s.storeBy w off n v).sec = s.sec := rfl
@[simp] theorem storeBy_regions (s : State) (w : ThreadId) (off n v : Nat) : (s.storeBy w off n v).regions = s.regions := rfl
@[simp] theorem storeBy_reqs (s : State) (w : ThreadId) (off n v : Nat) : (s.storeBy w off n v).reqs = s.reqs := rfl
@[simp] theorem storeBy_frames (s : State) (w : ThreadId) (off n v : Nat) : (s.storeBy w off n v).frames = s.frames := rfl
@[simp] theorem storeBy_att (s : State) (w : ThreadId) (off n v : Nat) : (s.storeBy w off n v).att = s.att := rfl
@[simp] theorem storeBy_fab (s : State) (w : ThreadId) (off n v : Nat) : (s.storeBy w off n v).fab = s.fab := rfl
@[simp] theorem storeBy_ho (s : State) (w : ThreadId) (off n v : Nat) : (s.storeBy w off n v).ho = s.ho := rfl
@[simp] theorem storeBy_mesh (s : State) (w : ThreadId) (off n v : Nat) : (s.storeBy w off n v).mesh = s.mesh := rfl
@[simp] theorem storeBy_out (s : State) (w : ThreadId) (off n v : Nat) : (s.storeBy w off n v).out = s.out := rfl
@[simp] theorem storeBy_atLull (s : State) (w : ThreadId) (off n v : Nat) : (s.storeBy w off n v).atLull = s.atLull := rfl
@[simp] theorem storeBy_stamp (s : State) (w : ThreadId) (off n v : Nat) : (s.storeBy w off n v).stamp = s.stamp := rfl
@[simp] theorem storeBy_freeCtr (s : State) (w : ThreadId) (off n v : Nat) : (s.storeBy w off n v).freeCtr = s.freeCtr := rfl

@[simp] theorem storeBy_mem (s : State) (w : ThreadId) (off n v : Nat) :
    (s.storeBy w off n v).mem = writeLe s.mem (storeAddr w.frame.val off) n v := rfl

/-! ## sendTlp -/

/-- Everything that sending a TLP can do: it goes out, alone or in one stream, or nothing happens. -/
theorem sendTlp_cases (s : State) (via : Option (Nat × Nat)) (o : Out) :
    s.sendTlp via o = s ∨ s.sendTlp via o = s.emit o ∨ ∃ k, s.sendTlp via o = s.emit (.inStream k o) := by
  unfold State.sendTlp
  cases via with
  | none =>
    cases h : s.ideOn
    · exact .inr (.inl rfl)
    · cases h2 : s.hostStream with
      | none => exact .inl (by simp)
      | some k => exact .inr (.inr ⟨k, by simp⟩)
  | some x =>
    cases h : s.streamKeyed x.2 (s.region x.1).tpub
    · exact .inl (by simp [h])
    · exact .inr (.inr ⟨_, by simp only [h]; rfl⟩)

@[simp] theorem sendTlp_pending (s : State) (via : Option (Nat × Nat)) (o : Out) : (s.sendTlp via o).pending = s.pending := by
  rcases sendTlp_cases s via o with h | h | ⟨k, h⟩ <;> rw [h] <;> rfl
@[simp] theorem sendTlp_gc (s : State) (via : Option (Nat × Nat)) (o : Out) : (s.sendTlp via o).gc = s.gc := by
  rcases sendTlp_cases s via o with h | h | ⟨k, h⟩ <;> rw [h] <;> rfl
@[simp] theorem sendTlp_mem (s : State) (via : Option (Nat × Nat)) (o : Out) : (s.sendTlp via o).mem = s.mem := by
  rcases sendTlp_cases s via o with h | h | ⟨k, h⟩ <;> rw [h] <;> rfl
@[simp] theorem sendTlp_nv (s : State) (via : Option (Nat × Nat)) (o : Out) : (s.sendTlp via o).nv = s.nv := by
  rcases sendTlp_cases s via o with h | h | ⟨k, h⟩ <;> rw [h] <;> rfl
@[simp] theorem sendTlp_sys (s : State) (via : Option (Nat × Nat)) (o : Out) : (s.sendTlp via o).sys = s.sys := by
  rcases sendTlp_cases s via o with h | h | ⟨k, h⟩ <;> rw [h] <;> rfl
@[simp] theorem sendTlp_pwr (s : State) (via : Option (Nat × Nat)) (o : Out) : (s.sendTlp via o).pwr = s.pwr := by
  rcases sendTlp_cases s via o with h | h | ⟨k, h⟩ <;> rw [h] <;> rfl
@[simp] theorem sendTlp_map (s : State) (via : Option (Nat × Nat)) (o : Out) : (s.sendTlp via o).map = s.map := by
  rcases sendTlp_cases s via o with h | h | ⟨k, h⟩ <;> rw [h] <;> rfl
@[simp] theorem sendTlp_mc (s : State) (via : Option (Nat × Nat)) (o : Out) : (s.sendTlp via o).mc = s.mc := by
  rcases sendTlp_cases s via o with h | h | ⟨k, h⟩ <;> rw [h] <;> rfl
@[simp] theorem sendTlp_hif (s : State) (via : Option (Nat × Nat)) (o : Out) : (s.sendTlp via o).hif = s.hif := by
  rcases sendTlp_cases s via o with h | h | ⟨k, h⟩ <;> rw [h] <;> rfl
@[simp] theorem sendTlp_sec (s : State) (via : Option (Nat × Nat)) (o : Out) : (s.sendTlp via o).sec = s.sec := by
  rcases sendTlp_cases s via o with h | h | ⟨k, h⟩ <;> rw [h] <;> rfl
@[simp] theorem sendTlp_regions (s : State) (via : Option (Nat × Nat)) (o : Out) : (s.sendTlp via o).regions = s.regions := by
  rcases sendTlp_cases s via o with h | h | ⟨k, h⟩ <;> rw [h] <;> rfl
@[simp] theorem sendTlp_reqs (s : State) (via : Option (Nat × Nat)) (o : Out) : (s.sendTlp via o).reqs = s.reqs := by
  rcases sendTlp_cases s via o with h | h | ⟨k, h⟩ <;> rw [h] <;> rfl
@[simp] theorem sendTlp_frames (s : State) (via : Option (Nat × Nat)) (o : Out) : (s.sendTlp via o).frames = s.frames := by
  rcases sendTlp_cases s via o with h | h | ⟨k, h⟩ <;> rw [h] <;> rfl
@[simp] theorem sendTlp_att (s : State) (via : Option (Nat × Nat)) (o : Out) : (s.sendTlp via o).att = s.att := by
  rcases sendTlp_cases s via o with h | h | ⟨k, h⟩ <;> rw [h] <;> rfl
@[simp] theorem sendTlp_fab (s : State) (via : Option (Nat × Nat)) (o : Out) : (s.sendTlp via o).fab = s.fab := by
  rcases sendTlp_cases s via o with h | h | ⟨k, h⟩ <;> rw [h] <;> rfl
@[simp] theorem sendTlp_ho (s : State) (via : Option (Nat × Nat)) (o : Out) : (s.sendTlp via o).ho = s.ho := by
  rcases sendTlp_cases s via o with h | h | ⟨k, h⟩ <;> rw [h] <;> rfl
@[simp] theorem sendTlp_mesh (s : State) (via : Option (Nat × Nat)) (o : Out) : (s.sendTlp via o).mesh = s.mesh := by
  rcases sendTlp_cases s via o with h | h | ⟨k, h⟩ <;> rw [h] <;> rfl
@[simp] theorem sendTlp_atLull (s : State) (via : Option (Nat × Nat)) (o : Out) : (s.sendTlp via o).atLull = s.atLull := by
  rcases sendTlp_cases s via o with h | h | ⟨k, h⟩ <;> rw [h] <;> rfl
@[simp] theorem sendTlp_races (s : State) (via : Option (Nat × Nat)) (o : Out) : (s.sendTlp via o).races = s.races := by
  rcases sendTlp_cases s via o with h | h | ⟨k, h⟩ <;> rw [h] <;> rfl
@[simp] theorem sendTlp_stamp (s : State) (via : Option (Nat × Nat)) (o : Out) : (s.sendTlp via o).stamp = s.stamp := by
  rcases sendTlp_cases s via o with h | h | ⟨k, h⟩ <;> rw [h] <;> rfl
@[simp] theorem sendTlp_freeCtr (s : State) (via : Option (Nat × Nat)) (o : Out) : (s.sendTlp via o).freeCtr = s.freeCtr := by
  rcases sendTlp_cases s via o with h | h | ⟨k, h⟩ <;> rw [h] <;> rfl

/-! ## takeFree -/

@[simp] theorem takeFree_pending (s : State) : s.takeFree.2.pending = s.pending := rfl
@[simp] theorem takeFree_gc (s : State) : s.takeFree.2.gc = s.gc := rfl
@[simp] theorem takeFree_mem (s : State) : s.takeFree.2.mem = s.mem := rfl
@[simp] theorem takeFree_nv (s : State) : s.takeFree.2.nv = s.nv := rfl
@[simp] theorem takeFree_sys (s : State) : s.takeFree.2.sys = s.sys := rfl
@[simp] theorem takeFree_pwr (s : State) : s.takeFree.2.pwr = s.pwr := rfl
@[simp] theorem takeFree_map (s : State) : s.takeFree.2.map = s.map := rfl
@[simp] theorem takeFree_mc (s : State) : s.takeFree.2.mc = s.mc := rfl
@[simp] theorem takeFree_hif (s : State) : s.takeFree.2.hif = s.hif := rfl
@[simp] theorem takeFree_sec (s : State) : s.takeFree.2.sec = s.sec := rfl
@[simp] theorem takeFree_regions (s : State) : s.takeFree.2.regions = s.regions := rfl
@[simp] theorem takeFree_reqs (s : State) : s.takeFree.2.reqs = s.reqs := rfl
@[simp] theorem takeFree_frames (s : State) : s.takeFree.2.frames = s.frames := rfl
@[simp] theorem takeFree_att (s : State) : s.takeFree.2.att = s.att := rfl
@[simp] theorem takeFree_fab (s : State) : s.takeFree.2.fab = s.fab := rfl
@[simp] theorem takeFree_ho (s : State) : s.takeFree.2.ho = s.ho := rfl
@[simp] theorem takeFree_mesh (s : State) : s.takeFree.2.mesh = s.mesh := rfl
@[simp] theorem takeFree_out (s : State) : s.takeFree.2.out = s.out := rfl
@[simp] theorem takeFree_atLull (s : State) : s.takeFree.2.atLull = s.atLull := rfl
@[simp] theorem takeFree_races (s : State) : s.takeFree.2.races = s.races := rfl
@[simp] theorem takeFree_stamp (s : State) : s.takeFree.2.stamp = s.stamp := rfl

/-! ## A part read after its update -/

theorem region_setRegion (s : State) (n k : Nat) (r : Region) :
    (s.setRegion n r).region k = if k = n then r else s.region k := smGet_smSet _ _ _ _ _

theorem region_modRegion (s : State) (n k : Nat) (f : Region → Region) :
    (s.modRegion n f).region k = if k = n then f (s.region n) else s.region k := smGet_smSet _ _ _ _ _

theorem frame_setFrame (s : State) (n k : Nat) (x : Frame) :
    (s.setFrame n x).frame k = if k = n then x else s.frame k := smGet_smSet _ _ _ _ _

theorem frame_modFrame (s : State) (n k : Nat) (g : Frame → Frame) :
    (s.modFrame n g).frame k = if k = n then g (s.frame n) else s.frame k := smGet_smSet _ _ _ _ _

theorem req_setReq (s : State) (i k : Nat) (r : Req) :
    (s.setReq i r).req k = if k = i then r else s.req k := smGet_smSet _ _ _ _ _

theorem req_modReq (s : State) (i k : Nat) (f : Req → Req) :
    (s.modReq i f).req k = if k = i then f (s.req i) else s.req k := smGet_smSet _ _ _ _ _

theorem queue_setQueue (s : State) (q k : Nat) (x : Queue) :
    (s.setQueue q x).queue k = if k = q then x else s.queue k := smGet_smSet _ _ _ _ _

theorem queue_modQueue (s : State) (q k : Nat) (f : Queue → Queue) :
    (s.modQueue q f).queue k = if k = q then f (s.queue q) else s.queue k := smGet_smSet _ _ _ _ _

theorem port_modPort (s : State) (n k : Nat) (f : Port → Port) :
    (s.modPort n f).port k = if k = n then f (s.port n) else s.port k := smGet_smSet _ _ _ _ _

theorem t1_modT1 (s : State) (n k : Nat) (f : Ctrl → Ctrl) :
    (s.modT1 n f).t1 k = if k = n then f (s.t1 n) else s.t1 k := smGet_smSet _ _ _ _ _

theorem t2_modT2 (s : State) (n k : Nat) (f : Ctrl → Ctrl) :
    (s.modT2 n f).t2 k = if k = n then f (s.t2 n) else s.t2 k := smGet_smSet _ _ _ _ _

theorem engine_modEngine (s : State) (n k : Nat) (f : Eng → Eng) :
    (s.modEngine n f).engine k = if k = n then f (s.engine n) else s.engine k := smGet_smSet _ _ _ _ _

theorem slotOf_lt (w : ThreadId) : slotOf w < 64 := by
  have := w.core.isLt; have := w.ctx.isLt; unfold slotOf; omega

/-- Another context than the one named by a write. -/
theorem slotOf_inj {w v : ThreadId} (hf : w.frame = v.frame) (h : slotOf w = slotOf v) : w = v := by
  have := w.ctx.isLt
  have := v.ctx.isLt
  unfold slotOf at h
  cases w; cases v
  simp only [ThreadId.mk.injEq, Fin.ext_iff] at *
  omega

/-- A context read after a context is replaced. -/
theorem ctx_setCtx (s : State) (w v : ThreadId) (c : Ctx) : (s.setCtx w c).ctx v = if v = w then c else s.ctx v := by
  unfold State.ctx State.setCtx
  rw [frame_modFrame]
  by_cases hf : v.frame.val = w.frame.val
  · rw [if_pos hf, smGet_smSet]
    by_cases h : slotOf v = slotOf w
    · rw [if_pos h, if_pos (slotOf_inj (Fin.ext hf) h)]
    · rw [if_neg h, if_neg (by rintro rfl; exact h rfl), hf]
  · rw [if_neg hf, if_neg (by rintro rfl; exact hf rfl)]

/-- s0 reads 0 whatever is written; any other register reads what was written to it. -/
theorem getS_setS (c : Ctx) (d r : BitVec 5) (v : W64) :
    (c.setS d v).getS r = if r = 0 then 0 else if r = d then v else c.getS r := by
  unfold Ctx.setS Ctx.getS
  by_cases hd : d = 0
  · subst hd; by_cases hr : r = 0
    · simp [hr]
    · simp only [if_neg hr]
      rfl
  · by_cases hr : r = 0
    · simp [hr]
    · simp only [if_neg hd, if_neg hr, smGet_smSet, BitVec.toNat_inj]

theorem getV_setV (c : Ctx) (d r : BitVec 5) (v : BitVec 2048) :
    (c.setV d v).getV r = if r = d then v else c.getV r := by
  simp only [Ctx.setV, Ctx.getV, smGet_smSet, BitVec.toNat_inj]

end Sys2Proof.Laws
end

