-- ==== Sys2Proof/Laws/Reckoner.lean ====
section
/-! SUPPORT. What the operations that the reckoner instructions share can do: issuing, advancing, the checks of an access. -/

namespace Sys2Proof.Laws

open Sys2Proof Sys2Proof.Machine Sys2Proof.Safety

/-- Everything that issuing can do: the frame is absent, the context does not run, its pc is out of range, its word is malformed
or not allowed under NOVARY, or the body runs. -/
theorem issue_cases (s : State) (w : ThreadId) (ok v : Bool) (body : Ctx → State) :
    (s.nv.frames ≤ w.frame.val ∧ s.issue w ok v body = .fault .absentFrame) ∨
    (w.frame.val < s.nv.frames ∧
      (((s.ctx w).run ≠ .running ∧ s.issue w ok v body = .next s) ∨
       ((s.ctx w).run = .running ∧ 0x20000 ≤ (s.ctx w).pc.toNat ∧
          s.issue w ok v body = .next (s.programFault w (s.ctx w).pc .pcRange (s.ctx w).pc.toNat)) ∨
       ((s.ctx w).run = .running ∧ (s.ctx w).pc.toNat < 0x20000 ∧ ok = false ∧
          s.issue w ok v body = .next (s.programFault w (s.ctx w).pc .malformedInsn 0)) ∨
       ((s.ctx w).run = .running ∧ (s.ctx w).pc.toNat < 0x20000 ∧ ok = true ∧ v = true ∧ s.novary w.frame.val = true ∧
          s.issue w ok v body = .next (s.programFault w (s.ctx w).pc .varyForbidden 0)) ∨
       ((s.ctx w).run = .running ∧ (s.ctx w).pc.toNat < 0x20000 ∧ ok = true ∧ (v = false ∨ s.novary w.frame.val = false) ∧
          s.issue w ok v body = .next (body (s.ctx w))))) := by
  by_cases h0 : s.nv.frames ≤ w.frame.val
  · exact .inl ⟨h0, by simp only [State.issue, if_pos h0]⟩
  refine .inr ⟨by omega, ?_⟩
  by_cases h1 : (s.ctx w).run = .running
  · by_cases h2 : 0x20000 ≤ (s.ctx w).pc.toNat
    · exact .inr (.inl ⟨h1, h2, by simp [State.issue, h0, h1, h2]⟩)
    · have h2' : (s.ctx w).pc.toNat < 0x20000 := by omega
      refine .inr (.inr ?_)
      cases hk : ok
      · exact .inl ⟨h1, h2', rfl, by simp [State.issue, h0, h1, h2]⟩
      · refine .inr ?_
        cases hv : v
        · exact .inr ⟨h1, h2', rfl, .inl rfl, by simp [State.issue, h0, h1, h2]⟩
        · cases hn : s.novary w.frame.val
          · exact .inr ⟨h1, h2', rfl, .inr rfl, by simp [State.issue, h0, h1, h2, hn]⟩
          · exact .inl ⟨h1, h2', rfl, rfl, rfl, by simp [State.issue, h0, h1, h2, hn]⟩
  · exact .inl ⟨h1, by simp [State.issue, h0, h1]⟩

/-- A context that may run, with a word that uses only its form's fields, runs its body. -/
theorem issue_run {s : State} {w : ThreadId} (h : MayRun s w) (ok v : Bool) (body : Ctx → State)
    (hok : ok = true) (hv : v = false ∨ s.novary w.frame.val = false) : s.issue w ok v body = .next (body (s.ctx w)) := by
  obtain ⟨h1, h2, h3⟩ := h
  unfold State.issue
  rw [if_neg (by omega)]
  have h4 : ¬ (131072 ≤ (s.ctx w).pc.toNat) := by omega
  rcases hv with hv | hv <;> simp [h2, h4, hok, hv]

/-- Going to an address inside the instruction store sets the pc. -/
theorem goTo_in (s : State) (w : ThreadId) (c : Ctx) (p : W64) (h : p.toNat < 0x20000) :
    s.goTo w c p = s.setCtx w { c with pc := p } := by
  unfold State.goTo; rw [if_neg (by omega)]

/-- Retiring with the next word inside the instruction store advances the context. -/
theorem retire_in (s : State) (w : ThreadId) (c : Ctx) (h : c.pc.toNat + 8 < 0x20000) : s.retire w c = advance s w c := by
  unfold State.retire advance
  apply goTo_in
  rw [BitVec.toNat_add]; simp; omega

@[simp] theorem setS_pc (c : Ctx) (d : BitVec 5) (v : W64) : (c.setS d v).pc = c.pc := by unfold Ctx.setS; split <;> rfl

/-- A word that uses D, A and B fits their form. -/
theorem fits_DAB {i : Insn} (h : UsesDAB i) : formDAB.fits i = true := by
  obtain ⟨h1, h2, h3, h4, h5⟩ := h; simp [Form.fits, formDAB, h1, h2, h3, h4, h5]

/-- A word that uses D, A and IMM fits their form. -/
theorem fits_DAI {i : Insn} (h : UsesDAI i) : formDAI.fits i = true := by
  obtain ⟨h1, h2, h3, h4, h5⟩ := h; simp [Form.fits, formDAI, h1, h2, h3, h4, h5]

/-- A two-source scalar instruction writes s_d and advances. -/
theorem scalarRR_run {s : State} {w : ThreadId} {i : Insn} (h : MayRun s w) (u : UsesDAB i) (f : W64 → W64 → W64) :
    scalarRR s w i f = .next (advance s w ((s.ctx w).setS i.d (f ((s.ctx w).getS i.a) ((s.ctx w).getS i.b)))) := by
  unfold scalarRR
  rw [issue_run h _ _ _ (fits_DAB u) (.inl rfl), retire_in]
  simpa using h.2.2

/-- An immediate scalar instruction writes s_d and advances. -/
theorem scalarRI_run {s : State} {w : ThreadId} {i : Insn} (h : MayRun s w) (u : UsesDAI i) (f : W64 → W64 → W64) :
    scalarRI s w i f = .next (advance s w ((s.ctx w).setS i.d (f ((s.ctx w).getS i.a) (simm i)))) := by
  unfold scalarRI
  rw [issue_run h _ _ _ (fits_DAI u) (.inl rfl), retire_in]
  simpa using h.2.2

/-- An aligned access inside the frame store has no address fault. -/
theorem accessFault_ok {off n al : Nat} (h1 : off + n ≤ 0x300000) (h2 : off % al = 0) : accessFault off n al = none := by
  unfold accessFault storeSize; rw [if_neg (by omega), if_neg (by omega)]

/-- A load with which no store races reads what stands there and changes nothing. -/
theorem loadBy_quiet {s : State} {w : ThreadId} {off n : Nat} (h : s.racing (.context w) (storeAddr w.frame.val off) n = []) :
    s.loadBy w off n = (readLe s.mem (storeAddr w.frame.val off) n, s) := by
  unfold State.loadBy State.readRaced; simp only [h, if_true]; rfl

/-- Everything that a load can change is the count of free values drawn. -/
theorem loadBy_state (s : State) (w : ThreadId) (off n : Nat) : ∃ k, (s.loadBy w off n).2 = { s with freeCtr := k } := by
  by_cases h : s.racing (.context w) (storeAddr w.frame.val off) n = []
  · rw [loadBy_quiet h]; exact ⟨s.freeCtr, rfl⟩
  · unfold State.loadBy State.readRaced; simp only [h, if_false]; exact ⟨_, rfl⟩

/-- A store changes memory and the record of stores that loads may race with, and nothing else. -/
theorem storeBy_state (s : State) (w : ThreadId) (off n v : Nat) :
    { s.storeBy w off n v with mem := s.mem, races := s.races } = s := rfl

/-- No frame is changed by a store. -/
@[simp] theorem frame_storeBy (s : State) (w : ThreadId) (off n v k : Nat) : (s.storeBy w off n v).frame k = s.frame k := rfl

/-- No context is changed by a store. -/
@[simp] theorem ctx_storeBy (s : State) (w x : ThreadId) (off n v : Nat) : (s.storeBy w off n v).ctx x = s.ctx x := rfl

end Sys2Proof.Laws
end

