-- ==== Sys2Proof/Laws/Rings.lean ====
section
/-! SUPPORT. What taking a ring entry, judging a command, and waking can do. -/

namespace Sys2Proof.Laws

open Sys2Proof Sys2Proof.Machine Sys2Proof.Safety

/-- Everything that taking an entry can do. -/
theorem takeEntry_cases (s : State) (q : Fin 8192) (e : Entry) (code : Nat) (f : State → State) :
    (opc e ≠ code ∧ opcAssigned (opc e) = true ∧ s.takeEntry q e code f = .refused .otherRow) ∨
    (¬(opc e ≠ code ∧ opcAssigned (opc e) = true) ∧
      ((s.mayFetch q.val = false ∧ s.takeEntry q e code f = .next s) ∨
       (s.mayFetch q.val = true ∧ ((taken s q).queue q.val).role = .unbound ∧
          s.takeEntry q e code f = refuses (taken s q) q e 0x73) ∨
       (s.mayFetch q.val = true ∧ ((taken s q).queue q.val).role ≠ .unbound ∧ (opc e ≠ code ∨ fld (wordAt e 0) 31 8 ≠ 0) ∧
          s.takeEntry q e code f = refuses (taken s q) q e 0x2B) ∨
       (s.mayFetch q.val = true ∧ ((taken s q).queue q.val).role ≠ .unbound ∧ opc e = code ∧ fld (wordAt e 0) 31 8 = 0 ∧
          s.takeEntry q e code f = .next (f (taken s q))))) := by
  by_cases h0 : opc e ≠ code ∧ opcAssigned (opc e) = true
  · exact .inl ⟨h0.1, h0.2, by simp only [State.takeEntry]; rw [if_pos h0]⟩
  refine .inr ⟨h0, ?_⟩
  have key : s.takeEntry q e code f = if !s.mayFetch q.val then .next s else .next (
      if ((taken s q).queue q.val).role = .unbound then (taken s q).refuse q.val (hostTag e) Status.roleDenied
      else if opc e ≠ code ∨ fld (wordAt e 0) 31 8 ≠ 0 then (taken s q).refuse q.val (hostTag e) Status.malformed
      else f (taken s q)) := by
    simp only [State.takeEntry, taken]; rw [if_neg h0]; rfl
  rw [key]
  cases h1 : s.mayFetch q.val
  · exact .inl ⟨rfl, rfl⟩
  refine .inr ?_
  by_cases h2 : ((taken s q).queue q.val).role = .unbound
  · exact .inl ⟨rfl, h2, by simp only [h2]; rfl⟩
  refine .inr ?_
  by_cases h3 : opc e ≠ code ∨ fld (wordAt e 0) 31 8 ≠ 0
  · exact .inl ⟨rfl, h2, h3, by simp [h2, h3, refuses, Status.malformed]⟩
  · refine .inr ⟨rfl, h2, ?_, ?_, by simp [h2, h3]⟩
    · exact Classical.byContradiction fun x => h3 (.inl x)
    · exact Classical.byContradiction fun x => h3 (.inr x)

/-- Everything that a command can do once its entry is taken. -/
theorem command_eq (s : State) (q : Fin 8192) (e : Entry) (code : Nat) (a : State → Authority) (mal : Nat) (bad : State → Bool)
    (f : State → State) : s.command q e code a mal bad f = s.takeEntry q e code fun t =>
      match t.denied q.val (a t) with
      | some st => t.cmdDone q.val (hostTag e) st []
      | none => if bad t then
          if mal = Status.malformed then t.refuse q.val (hostTag e) mal else t.cmdDone q.val (hostTag e) mal []
        else f t := rfl

/-- Erasing the key slots keeps memory's canonical form. -/
theorem memWf_scramble (s : State) (w : Memory.wf s.mem = true) : Memory.wf s.scramble.mem = true := by
  have key : ∀ (l : List Host.Cell) (m : List Host.Cell), Memory.wf m = true →
      Memory.wf (l.foldl (fun m (c : Host.Cell) => match s.place c.1 with
        | .tier1 _ _ => memSet m c.1 (Config.erasedByte c.1 c.2)
        | .tier2 _ _ => memSet m c.1 (Config.erasedByte c.1 c.2)
        | _ => m) m) = true := by
    intro l
    induction l with
    | nil => intro m w; exact w
    | cons c l ih =>
      intro m w
      refine ih _ ?_
      dsimp only
      split
      · exact memWf_memSet m _ _ w
      · exact memWf_memSet m _ _ w
      · exact w
  exact key s.mem s.mem w

/-- Everything that waking can do. -/
theorem wakeUp_cases (s : State) : s.wakeUp = s ∨ ∃ p, s.wakeUp = { s with atLull := none, pwr := p } := by
  unfold State.wakeUp; cases h : s.isReady
  · exact .inl (by simp)
  · exact .inr ⟨_, rfl⟩

@[simp] theorem wakeUp_pending (s : State) : s.wakeUp.pending = s.pending := by
  rcases wakeUp_cases s with h | ⟨p, h⟩ <;> rw [h]
@[simp] theorem wakeUp_gc (s : State) : s.wakeUp.gc = s.gc := by
  rcases wakeUp_cases s with h | ⟨p, h⟩ <;> rw [h]
@[simp] theorem wakeUp_mem (s : State) : s.wakeUp.mem = s.mem := by
  rcases wakeUp_cases s with h | ⟨p, h⟩ <;> rw [h]
@[simp] theorem wakeUp_nv (s : State) : s.wakeUp.nv = s.nv := by
  rcases wakeUp_cases s with h | ⟨p, h⟩ <;> rw [h]
@[simp] theorem wakeUp_sys (s : State) : s.wakeUp.sys = s.sys := by
  rcases wakeUp_cases s with h | ⟨p, h⟩ <;> rw [h]
@[simp] theorem wakeUp_map (s : State) : s.wakeUp.map = s.map := by
  rcases wakeUp_cases s with h | ⟨p, h⟩ <;> rw [h]
@[simp] theorem wakeUp_mc (s : State) : s.wakeUp.mc = s.mc := by
  rcases wakeUp_cases s with h | ⟨p, h⟩ <;> rw [h]
@[simp] theorem wakeUp_hif (s : State) : s.wakeUp.hif = s.hif := by
  rcases wakeUp_cases s with h | ⟨p, h⟩ <;> rw [h]
@[simp] theorem wakeUp_sec (s : State) : s.wakeUp.sec = s.sec := by
  rcases wakeUp_cases s with h | ⟨p, h⟩ <;> rw [h]
@[simp] theorem wakeUp_regions (s : State) : s.wakeUp.regions = s.regions := by
  rcases wakeUp_cases s with h | ⟨p, h⟩ <;> rw [h]
@[simp] theorem wakeUp_reqs (s : State) : s.wakeUp.reqs = s.reqs := by
  rcases wakeUp_cases s with h | ⟨p, h⟩ <;> rw [h]
@[simp] theorem wakeUp_frames (s : State) : s.wakeUp.frames = s.frames := by
  rcases wakeUp_cases s with h | ⟨p, h⟩ <;> rw [h]
@[simp] theorem wakeUp_att (s : State) : s.wakeUp.att = s.att := by
  rcases wakeUp_cases s with h | ⟨p, h⟩ <;> rw [h]
@[simp] theorem wakeUp_fab (s : State) : s.wakeUp.fab = s.fab := by
  rcases wakeUp_cases s with h | ⟨p, h⟩ <;> rw [h]
@[simp] theorem wakeUp_ho (s : State) : s.wakeUp.ho = s.ho := by
  rcases wakeUp_cases s with h | ⟨p, h⟩ <;> rw [h]
@[simp] theorem wakeUp_mesh (s : State) : s.wakeUp.mesh = s.mesh := by
  rcases wakeUp_cases s with h | ⟨p, h⟩ <;> rw [h]
@[simp] theorem wakeUp_out (s : State) : s.wakeUp.out = s.out := by
  rcases wakeUp_cases s with h | ⟨p, h⟩ <;> rw [h]
@[simp] theorem wakeUp_stamp (s : State) : s.wakeUp.stamp = s.stamp := by
  rcases wakeUp_cases s with h | ⟨p, h⟩ <;> rw [h]
@[simp] theorem wakeUp_freeCtr (s : State) : s.wakeUp.freeCtr = s.freeCtr := by
  rcases wakeUp_cases s with h | ⟨p, h⟩ <;> rw [h]

end Sys2Proof.Laws
end

