-- ==== Sys2Proof/Laws/Steps.lean ====
section
/-! SUPPORT. What the shared operations of a step do: units that no COPY_IN races with, holds, lost granules, and the positions of ring
attention. -/

namespace Sys2Proof.Laws

open Sys2Proof Sys2Proof.Machine Sys2Proof.Safety

/-- Where no COPY_IN of the step races with region n, a unit of it acts on the state itself (R434). -/
theorem inStep_quiet {s : State} {n : Nat} (h : NoCopyRace s n) (act : State → State) : s.inStep n act = act s := by
  unfold State.inStep
  have e : s.races.filter (fun e => e.races (.unit n)) = [] := by
    rw [List.filter_eq_nil_iff]; intro x hx; simp [h x hx]
  simp [e]

/-- A step may launch exactly when it may be planned and no hold keeps its region (R290, R408). -/
theorem mayLaunch_iff (s : State) (n : Nat) : s.mayLaunch n = true ↔ s.mayPlan n = true ∧ s.onHold n = false := by
  simp [State.mayLaunch]

/-- From UNTIL on a hold keeps nothing (R408). -/
theorem onHold_until {s : State} {n : Nat} {u : W64} (h : (s.region n).hold = some u) : s.onHold n = true ↔ s.gc.toNat < u.toNat := by
  simp [State.onHold, h]

/-- The local position of a member's own position in the sequence, whole shards (R235). -/
theorem ringLocal_ringPos {n p r i : Nat} (hr : r < n) : ringLocal true n p r (ringPos true n p r i) = i := by
  have le : (r + 1) * (p / 2) ≤ (2 * n - 1 - r) * (p / 2) := Nat.mul_le_mul_right _ (by omega)
  have dist : (r + 1) * (p / 2) = r * (p / 2) + p / 2 := Nat.succ_mul _ _
  unfold ringLocal ringPos
  by_cases h : i < p / 2
  · simp only [h, if_true, if_pos (show r * (p / 2) + i < (r + 1) * (p / 2) by omega)]; omega
  · simp only [h, if_true, if_false, if_neg (show ¬(2 * n - 1 - r) * (p / 2) + (i - p / 2) < (r + 1) * (p / 2) by omega)]; omega

/-- The local position of a member's own position, where each member holds one run of positions (R235). -/
theorem ringLocal_ringPos_run (n p r i : Nat) : ringLocal false n p r (ringPos false n p r i) = i := by
  simp [ringLocal, ringPos]

/-- A step that reads no lost granule has no DATA_LOST (R488). -/
theorem lostRead_quiet {s : State} {n : Nat} (h : s.lostGranules n = []) (rs : List (Nat × Nat)) : s.lostRead n rs = none := by
  simp [State.lostRead, h]

/-- A module that has a dynamic address keeps it, and nothing but the address changes (Table 19-5, log 200). -/
theorem takeAddress_cases (s : State) (a : BitVec 7) :
    (s.sys.sbAddr = none ∧ s.takeAddress a = { s with sys := { s.sys with sbAddr := some a } }) ∨
    (∃ b, s.sys.sbAddr = some b ∧ s.takeAddress a = s) := by
  cases h : s.sys.sbAddr with
  | none => exact .inl ⟨rfl, by simp [State.takeAddress, h]⟩
  | some b =>
    have e : s.sys.sbAddr.or (some a) = s.sys.sbAddr := by simp [h]
    exact .inr ⟨b, rfl, by simp only [State.takeAddress, e]⟩

end Sys2Proof.Laws
end

