-- ==== Sys2Proof/Tests/Slice0.lean ====
section
/-! SUPPORT. Small tests of the model. A test_ theorem checks a value that the spec's text gives, or hand arithmetic from its
rules; a wit_ theorem shows states and operands that meet the hypotheses of the statement it names, clause by clause, and
what the model answers there. -/

namespace Sys2Proof.Tests

open Sys2Proof Sys2Proof.Machine Sys2Proof.Safety

-- One theorem after the other: in the package as one text the tests would otherwise wait for each other in many threads.
set_option Elab.async false

/-! ## Helpers -/

/-- A command answers a next state with a property. -/
def leads (o : Host.Outcome State Fault Refusal) (f : State → Bool) : Bool := match o with | .next t => f t | _ => false

/-- A command answers exactly this next state. -/
def is (o : Host.Outcome State Fault Refusal) (t : State) : Bool := leads o fun u => decide (u = t)

/-- A command answers a next state in which region 0 has one fault record, with this code and address, and memory is as before. -/
def faulted (o : Host.Outcome State Fault Refusal) (s : State) (code addr : Nat) : Bool :=
  leads o fun t => match (t.region 0).faultRecs with
    | [r] => decide (fld r 7 0 = code) && decide (fld r 111 64 = addr) && decide (t.mem = s.mem)
    | _ => false

/-- Context 0 of core 0 of frame 0. -/
def w0 : ThreadId := { frame := 0, core := 0, ctx := 0 }

/-- Its neighbour. -/
def w1 : ThreadId := { frame := 0, core := 0, ctx := 1 }

/-- The first context of frame 1. -/
def wf : ThreadId := { frame := 1, core := 0, ctx := 0 }

/-- A region of the whole FP2-384, running a step. -/
def whole : Region := { live := true, bands := 3, gfirst := 0, glast := 5, w1 := 6, w2 := 5, w3 := 5, run := .stepping }

/-- A frame whose context 0 runs with given scalar registers. -/
def frameOf (sregs : SMap W64) : Frame := { ctxs := [(0, { pc := 0x100, sregs := sregs, run := .running })] }

/-- A READY module in which frame 0 runs in region 0. -/
def on (fr : Frame) : State := { regions := [(0, whole)], frames := [(0, fr)] }

/-- Registers s1 = 7, s2 = 5, s3 = −8. -/
def sA : State := on (frameOf [(1, 7), (2, 5), (3, -8)])

/-- A word with D, A, B. -/
def dab (d a b : BitVec 5) : Insn := { v := false, d := d, a := a, b := b, c := 0, mask := 0, ty := 0, imm := 0 }

/-- A word with D, A and an immediate. -/
def dai (d a : BitVec 5) (imm : BitVec 22) : Insn := { dab d a 0 with imm := imm }

/-- A word with A, B and an immediate. -/
def abi (a b : BitVec 5) (imm : BitVec 22) : Insn := { dab 0 a b with imm := imm }

/-- s4 of context 0 after a command. -/
def s4 (o : Host.Outcome State Fault Refusal) : Option W64 := match o with | .next t => some ((t.ctx w0).getS 4) | _ => none

/-! ## Scalar instructions -/

theorem wit_MayRun : MayRun sA w0 ∧ UsesDAB (dab 4 1 2) ∧ UsesDAI (dai 4 1 3) ∧ UsesABI (abi 1 2 4) ∧ UsesDI (dai 4 0 4) ∧
    UsesAI (abi 1 0 8) ∧ UsesNone (dab 0 0 0) := by
  unfold MayRun UsesDAB UsesDAI UsesABI UsesDI UsesAI UsesNone; decide +kernel

theorem test_add_sub : s4 (exec (.add w0 0 0 (dab 4 1 3)) sA) = some (-1) ∧ s4 (exec (.sub w0 (dab 4 2 1)) sA) = some (-2) := by
  decide +kernel

theorem test_scalar_results :
    s4 (exec (.and w0 (dab 4 1 2)) sA) = some 5 ∧ s4 (exec (.or w0 (dab 4 1 2)) sA) = some 7 ∧
    s4 (exec (.xor w0 (dab 4 1 2)) sA) = some 2 ∧ s4 (exec (.shl w0 (dab 4 1 2)) sA) = some 224 ∧
    s4 (exec (.shr w0 (dab 4 3 2)) sA) = some 0x7FFFFFFFFFFFFFF ∧ s4 (exec (.sra w0 (dab 4 3 2)) sA) = some (-1) ∧
    s4 (exec (.slt w0 (dab 4 3 1)) sA) = some 1 ∧ s4 (exec (.sltu w0 (dab 4 3 1)) sA) = some 0 ∧
    s4 (exec (.mul w0 (dab 4 1 3)) sA) = some (-56) ∧ s4 (exec (.mulh w0 (dab 4 1 3)) sA) = some (-1) ∧
    s4 (exec (.mulhu w0 (dab 4 1 3)) sA) = some 6 ∧ s4 (exec (.div w0 (dab 4 3 2)) sA) = some (-1) ∧
    s4 (exec (.rem w0 (dab 4 3 2)) sA) = some (-3) ∧ s4 (exec (.divu w0 (dab 4 1 2)) sA) = some 1 ∧
    s4 (exec (.remu w0 (dab 4 1 2)) sA) = some 2 := by decide +kernel

theorem test_division_by_zero :
    s4 (exec (.div w0 (dab 4 1 0)) sA) = some (-1) ∧ s4 (exec (.divu w0 (dab 4 1 0)) sA) = some (-1) ∧
    s4 (exec (.rem w0 (dab 4 3 0)) sA) = some (-8) ∧ s4 (exec (.remu w0 (dab 4 1 0)) sA) = some 7 := by decide +kernel

theorem test_immediates :
    s4 (exec (.addi w0 0 (dai 4 1 0x3FFFFF)) sA) = some 6 ∧ s4 (exec (.addi w0 5 (dai 4 1 63)) sA) = some 0x8000000000000000 ∧
    s4 (exec (.addi w0 8 (dai 4 3 0)) sA) = some 1 ∧ s4 (exec (.sltui w0 (dai 4 1 0x3FFFFF)) sA) = some 1 ∧
    s4 (exec (.lui w0 (dai 4 0 1)) sA) = some 0x400000 ∧ s4 (exec (.lui w0 (dai 4 0 0x3FFFFF)) sA) = some 0xFFFFFFFFFFC00000 := by
  decide +kernel

/-- s0 takes no value: the word completes all the same. -/
theorem test_s0 : leads (exec (.add w0 0 0 (dab 0 1 2)) sA) (fun t => decide ((t.ctx w0).getS 0 = 0) &&
    decide ((t.ctx w0).pc = 0x108)) = true := by decide +kernel

/-! ## Control flow -/

/-- The pc of context 0 after a command. -/
def pcAfter (o : Host.Outcome State Fault Refusal) : Option W64 := match o with | .next t => some (t.ctx w0).pc | _ => none

theorem test_branches :
    pcAfter (exec (.beq w0 0 (abi 1 1 4)) sA) = some 0x120 ∧ pcAfter (exec (.beq w0 1 (abi 1 1 4)) sA) = some 0x108 ∧
    pcAfter (exec (.beq w0 2 (abi 3 1 0x3FFFFF)) sA) = some 0xF8 ∧ pcAfter (exec (.beq w0 3 (abi 1 3 2)) sA) = some 0x110 ∧
    pcAfter (exec (.beq w0 4 (abi 1 3 2)) sA) = some 0x110 ∧ pcAfter (exec (.beq w0 5 (abi 1 3 2)) sA) = some 0x108 ∧
    pcAfter (exec (.jal w0 (dai 4 0 16)) sA) = some 0x180 ∧ s4 (exec (.jal w0 (dai 4 0 16)) sA) = some 0x108 ∧
    pcAfter (exec (.jr w0 (abi 3 0 2)) sA) = some 8 := by decide +kernel

theorem test_halt : leads (exec (.halt w0 (dab 0 0 0)) sA) (fun t => decide ((t.ctx w0).run = .halted)) = true := by decide +kernel

theorem wit_ControlFlow :
    let near := (sA.ctx w0).pc + (abi 1 2 4).imm.signExtend 64 * 8
    let far := (sA.ctx w0).getS 3 + (abi 3 0 2).imm.signExtend 64 * 8
    near.toNat % 8 = 0 ∧ near.toNat < 0x20000 ∧ far.toNat % 8 = 0 ∧ far.toNat < 0x20000 ∧
    (sA.frame 0).assembly = none := by decide +kernel

/-! ## The frame store -/

/-- s1 = 0x40, s2 = 0x2FFFF8 (the last aligned 8 bytes), s3 = data, s5 = 0x41. -/
def sM : State := { on (frameOf [(1, 0x40), (2, 0x2FFFF8), (3, 0x8877665544332211), (5, 0x41)]) with
  mem := [(storeAddr 0 0x40, 0x34), (storeAddr 0 0x41, 0x12)] }

theorem test_load_store :
    s4 (exec (.ld1 w0 1 (dai 4 1 0)) sM) = some 0x1234 ∧ s4 (exec (.ld1 w0 3 (dai 4 2 0)) sM) = some 0 ∧
    leads (exec (.st1 w0 3 (abi 2 3 0)) sM) (fun t => decide (readLe t.mem (storeAddr 0 0x2FFFF8) 8 = 0x8877665544332211) &&
      decide (readLe t.mem (storeAddr 0 0x40) 2 = 0x1234)) = true ∧
    leads (exec (.st1 w0 0 (abi 1 3 0)) sM) (fun t => decide (readLe t.mem (storeAddr 0 0x40) 2 = 0x1211)) = true := by
  decide +kernel

theorem test_vld_vst :
    leads (exec (.vld w0 (dai 2 1 0)) sM) (fun t => decide ((t.ctx w0).getV 2 = 0x1234)) = true ∧
    leads (exec (.vst w0 (abi 1 0 1)) sM) (fun t => decide (t.mem = sM.mem)) = true := by decide +kernel

theorem wit_LoadsAndStores : (∀ k : Fin 4, 0x2FFFF8 % 2 ^ k.val = 0 ∧ 0x2FFFF8 + 2 ^ k.val ≤ 0x300000) ∧
    sM.hazard 0 0x2FFFF8 8 = false ∧ (0x2FFF00 % 64 = 0 ∧ 0x2FFF00 + 256 ≤ 0x300000 ∧ sM.hazard 0 0x2FFF00 256 = false) ∧
    leads (exec (.st1 w0 2 (abi 1 3 0)) sM) (fun _ => true) = true := by decide +kernel

theorem wit_MisalignedAccess :
    faulted (exec (.ld1 w0 1 (dai 4 5 0)) sM) sM 6 0x41 = true ∧
    faulted (exec (.st1 w0 3 (abi 5 3 0)) sM) sM 6 0x41 = true ∧
    faulted (exec (.vld w0 (dai 2 5 0)) sM) sM 6 0x41 = true ∧
    faulted (exec (.vst w0 (abi 5 0 0)) sM) sM 6 0x41 = true ∧
    faulted (exec (.vgath w0 { dab 2 5 0 with ty := 0x12 }) sM) sM 6 0x41 = true ∧
    faulted (exec (.vscat w0 { dab 0 5 0 with ty := 0x12 }) sM) sM 6 0x41 = true ∧
    faulted (exec (.vaadd w0 { dab 0 5 0 with ty := 0x12 }) sM) sM 6 0x41 = true ∧
    faulted (exec (.vamax w0 { dab 0 5 0 with ty := 0x12 }) sM) sM 6 0x41 = true ∧
    faulted (exec (.vfaadd w0 { dab 0 5 0 with v := true }) sM) sM 6 0x41 = true ∧
    faulted (exec (.vaaddr w0 { dab 2 5 0 with v := true, ty := 0x12 }) sM) sM 6 0x41 = true ∧
    faulted (exec (.sclaim w0 { dab 4 5 3 with v := true }) sM) sM 6 0x41 = true := by decide +kernel

theorem wit_lanes : (laneAddrs (sM.ctx w0) { dab 2 5 0 with ty := 0x12 }).head? = some (0, 0x41) ∧ sM.novary 0 = false := by
  decide +kernel

theorem wit_RangeAndHazard :
    let j : Job := { seq := 1, stamp := 0, who := w0, pc := 0, words := [1, 0, 0x84000000000000 + 0x1000], params := [], rowmap := [] }
    let s := { sM with frames := [(0, { frameOf [(1, 0x40), (2, 0x1000), (3, 5), (5, 0x2FFFF9)] with deckQueue := [j] })] }
    rangesMeet (0x1000, 8) (0x1000, 8192) = true ∧ (0x1000, 8192) ∈ j.deckRanges ∧
    faulted (exec (.st1 w0 3 (abi 2 3 0)) s) s 4 0x1000 = true ∧
    faulted (exec (.st1 w0 3 (abi 5 3 0)) s) s 7 0x2FFFF9 = true ∧ faulted (exec (.ld1 w0 3 (dai 4 5 0)) s) s 7 0x2FFFF9 = true ∧
    faulted (exec (.vld w0 (dai 2 5 0)) s) s 7 0x2FFFF9 = true ∧ faulted (exec (.vst w0 (abi 5 0 0)) s) s 7 0x2FFFF9 = true ∧
    faulted (exec (.vgath w0 { dab 2 0 1 with ty := 0x12, imm := 0 }) sM) sM 7 0x300000 = false ∧
    faulted (exec (.vgath w0 { dab 2 5 1 with ty := 0x12 }) s) s 7 0x2FFFF9 = false := by decide +kernel

/-! ## Faults and words that fault -/

theorem wit_FaultEffect : sA.regionOfFrame w0.frame.val = some 0 ∧ (sA.region 0).faultRecs.length < 8 ∧
    (sA.region 0).run ≠ .waiting ∧ ((sA.region 0).holdsFrame sA.nv wf.frame.val) = true ∧
    (let t := sA.programFault w0 0x100 .misaligned 0x41
     (t.region 0).run = .stopping ∧ (t.region 0).faultN = 1 ∧ (t.ctx w0).run = .stopped ∧ (t.ctx w0).sregs = (sA.ctx w0).sregs) ∧
    faultRecord .misaligned w0 0x100 0x41 = 0x410000000080000006#128 := by decide +kernel

theorem wit_fault_record_fields : (FCode.other 0xFF).num < 2 ^ 8 ∧
    fld (faultRecord (.other 0xFF) { frame := 383, core := 3, ctx := 15 } 0x1FFF8 (2 ^ 48 - 1)) 22 8 = 383 + 3 * 2 ^ 9 + 15 * 2 ^ 11 := by
  decide +kernel

theorem wit_WhatMayRun :
    faulted (exec (.add w0 0 1 (dab 4 1 2)) sA) sA 1 0 = false ∧ opKnown 0 0x1FF = false ∧ opKnown 0 1 = true ∧
    faulted (exec (.add w0 0 0x1FF (dab 4 1 2)) sA) sA 1 0 = true ∧
    faulted (exec (.add w0 0 0 { dab 4 1 2 with imm := 1 }) sA) sA 1 0 = true ∧
    faulted (exec (.mul w0 { dab 4 1 2 with v := true }) sA) sA 1 0 = true ∧
    faulted (exec (.addi w0 0 { dai 4 1 0 with b := 1 }) sA) sA 1 0 = true ∧
    faulted (exec (.beq w0 0 { abi 1 1 4 with d := 1 }) sA) sA 1 0 = true ∧
    faulted (exec (.vadd w0 { dab 1 2 3 with ty := 4 }) sA) sA 1 0 = true ∧
    faulted (exec (.vcmp w0 { dab 0 2 3 with ty := 0x12 }) sA) sA 1 0 = true ∧
    faulted (exec (.rdgc w0 (dab 4 0 0)) sA) sA 1 0 = true := by decide +kernel

theorem test_other_row : exec (.add w0 0 1 (dab 4 1 2)) sA = .refused .otherRow := by rfl

theorem wit_who_issues :
    is (exec (.sub w1 (dab 4 1 2)) sA) sA = true ∧
    (let s := { sA with frames := [(0, { ctxs := [(0, { pc := 0x1FFF8, run := .running }), (1, { pc := 0x20000, run := .running })] })] }
     faulted (exec (.sub w1 (dab 4 1 2)) s) s 0xC 0x20000 = true ∧ faulted (exec (.sub w0 (dab 4 1 2)) s) s 0xC 0x20000 = true) := by
  decide +kernel

theorem test_absent_frame : exec (.sub { frame := 352, core := 0, ctx := 0 } (dab 4 1 2)) { sA with nv := { grade352 := true } } =
    .fault .absentFrame := by rfl

/-- An image with NOVARY and nothing else. -/
def imgNovary : Image := { novary := true, leadw := [], attention := [], collective := [], sampler := [], entries := [], bounds := [],
                           code := [], chain := [] }

/-- sA under that image. -/
def sN : State := { sA with regions := [(0, { whole with image := some imgNovary })] }

theorem wit_VaryForbidden : MayRun sN w0 ∧ sN.regionOfFrame 0 = some 0 ∧ (sN.region 0).image = some imgNovary ∧
    faulted (exec (.vaaddr w0 { dab 2 1 3 with v := true, ty := 0x12 }) sN) sN 2 0 = true ∧
    faulted (exec (.vfaadd w0 { dab 0 1 3 with v := true }) sN) sN 2 0 = true ∧
    faulted (exec (.sclaim w0 { dab 4 1 3 with v := true }) sN) sN 2 0 = true ∧
    faulted (exec (.rdcnt w0 { dab 4 0 0 with v := true, imm := 1 }) sN) sN 2 0 = true ∧
    faulted (exec (.rccnt w0 { dab 4 0 0 with v := true }) sN) sN 2 0 = true ∧
    faulted (exec (.rdgc w0 { dab 4 0 0 with v := true }) sN) sN 2 0 = true := by
  unfold MayRun; decide +kernel

/-! ## Vectors -/

/-- v1 has 1.0, 2.5 and −0.0 in lanes 0 to 2, v2 has 2.0, 2.5 and a quiet NaN; m2 selects lanes 0 and 2. -/
def sV : State := on { ctxs := [(0, {
  pc := 0x100, run := .running, vregs := [(1, 0x80000000402000003F800000), (2, 0x7FC000004020000040000000)], masks := [(2, 5)]
  sregs := [(1, 0x40), (2, 0x3F8)] })] }

/-- Lanes 0 to 3 of v3 after a command. -/
def v3 (o : Host.Outcome State Fault Refusal) : List Nat :=
  match o with | .next t => (vecElems 32 ((t.ctx w0).getV 3)).take 4 | _ => []

theorem test_vector_fp32 :
    v3 (exec (.vadd w0 (dab 3 1 2)) sV) = [0x40400000, 0x40A00000, 0x7FC00000, 0] ∧
    v3 (exec (.vsub w0 (dab 3 1 2)) sV) = [0xBF800000, 0, 0x7FC00000, 0] ∧
    v3 (exec (.vmul w0 (dab 3 1 2)) sV) = [0x40000000, 0x40C80000, 0x7FC00000, 0] ∧
    (v3 (exec (.vdiv w0 (dab 3 1 2)) sV)).take 2 = [0x3F000000, 0x3F800000] ∧
    v3 (exec (.vsqrt w0 (dab 3 1 0)) sV) = [0x3F800000, 0x3FCA62C2, 0x80000000, 0] ∧
    v3 (exec (.vmin w0 (dab 3 1 2)) sV) = [0x3F800000, 0x40200000, 0x7FC00000, 0] ∧
    v3 (exec (.vmax w0 (dab 3 1 2)) sV) = [0x40000000, 0x40200000, 0x7FC00000, 0] := by decide +kernel

theorem test_vector_sign :
    v3 (exec (.vneg w0 (dab 3 1 0)) sV) = [0xBF800000, 0xC0200000, 0, 0x80000000] ∧
    v3 (exec (.vabs w0 (dab 3 1 0)) sV) = [0x3F800000, 0x40200000, 0, 0] ∧
    v3 (exec (.vcsgn w0 (dab 3 2 1)) sV) = [0x40000000, 0x40200000, 0xFFC00000, 0] ∧
    v3 (exec (.vfma w0 { dab 3 1 2 with c := 1 }) sV) = [0x40400000, 0x410C0000, 0x7FC00000, 0] := by decide +kernel

theorem test_vector_int_masked :
    v3 (exec (.vadd w0 { dab 3 1 1 with ty := 0x12, mask := 2 }) sV) = [0x7F000000, 0, 0, 0] ∧
    v3 (exec (.vand w0 { dab 3 1 2 with ty := 0x12 }) sV) = [0, 0x40200000, 0, 0] ∧
    v3 (exec (.vor w0 { dab 3 1 2 with ty := 0x12 }) sV) = [0x7F800000, 0x40200000, 0xFFC00000, 0] ∧
    v3 (exec (.vxor w0 { dab 3 1 2 with ty := 0x12 }) sV) = [0x7F800000, 0, 0xFFC00000, 0] ∧
    v3 (exec (.vlane w0 { dab 3 0 0 with ty := 0x12 }) sV) = [0, 1, 2, 3] ∧
    v3 (exec (.vbcast w0 { dab 3 1 0 with ty := 0x12 }) sV) = [0x40, 0x40, 0x40, 0x40] ∧
    v3 (exec (.vmov w0 { dab 3 1 0 with ty := 0x12, mask := 2 }) sV) = [0x3F800000, 0, 0x80000000, 0] ∧
    v3 (exec (.vsel w0 { dab 3 1 2 with ty := 0x12, mask := 2 }) sV) = [0x3F800000, 0x40200000, 0x80000000, 0] := by decide +kernel

theorem test_shifts_perm :
    (let s := on { ctxs := [(0, { pc := 0x100, run := .running, vregs := [(1, 0x800000010000000F), (2, 0x0000001F00000004)] })] }
     v3 (exec (.vshl w0 { dab 3 1 2 with ty := 0x12 }) s) = [0xF0, 0x80000000, 0, 0] ∧
     v3 (exec (.vshr w0 { dab 3 1 2 with ty := 0x12 }) s) = [0, 1, 0, 0] ∧
     (v3 (exec (.vperm w0 { dab 3 1 2 with ty := 0x12 }) s)).take 2 = [0, 0] ∧ (∀ b ∈ vecElems 32 ((s.ctx w0).getV 2), b < 32)) := by
  decide +kernel

theorem test_compare_reduce :
    leads (exec (.vcmp w0 { dab 1 1 2 with ty := 0x12 }) sV) (fun t => decide ((t.ctx w0).getM 1 = 0xFFFFFFFFFFFFFFFA)) = true ∧
    leads (exec (.vrsum w0 { dab 4 1 0 with ty := 0x12 }) sV) (fun t => decide ((t.ctx w0).getS 4 = 0xFFA00000)) = true ∧
    leads (exec (.vrsum w0 (dab 4 1 0)) sV) (fun t => decide ((t.ctx w0).getS 4 = 0x40600000)) = true := by decide +kernel

theorem wit_vectors : UsesVec2 { dab 3 1 2 with ty := 0x12 } [0x12] ∧ UsesVec2 (dab 3 1 2) [0x00, 0x01] ∧
    UsesVec1 (dab 3 1 0) [0x00, 0x01] ∧ UsesVec1 { dab 3 0 0 with ty := 0x12 } [0x12] ∧ MayRun sV w0 ∧
    (∀ k, k < 3 → (fmtFP32.decode ((vecElems 32 ((sV.ctx w0).getV 2)).getD k 0)).signalling = false) := by
  unfold UsesVec2 UsesVec1 MayRun; decide +kernel

theorem wit_ActiveLanes : ([0x00, 0x12] : List Nat).all (fun x => tyAny.contains x) = true ∧
    ((List.replicate (countOf { dab 3 1 2 with ty := 0x12 }) ((7, 1) : Nat × Nat)).length = 64) ∧
    (let c := (sV.ctx w0).putLanes { dab 3 1 2 with ty := 0x12, mask := 2 } (List.replicate 64 (7, 1))
     (vecElems 32 (c.getV 3)).take 4 = [7, 0, 7, 0] ∧ c.fpsr = 1) := by decide +kernel

/-- Where no rule states a result the instruction completes. -/
theorem wit_OpenResults :
    leads (exec (.shl w0 (dab 4 1 1)) sV) (fun _ => true) = true ∧
    leads (exec (.div w0 (dab 4 1 2)) { sV with frames := [(0, frameOf [(1, 0x8000000000000000), (2, -1)])] })
      (fun t => decide ((t.ctx w0).pc = 0x108)) = true ∧
    leads (exec (.vcmp w0 { dab 1 1 2 with ty := 0x01 }) sV) (fun t => decide ((t.ctx w0).pc = 0x108) && decide (t.freeCtr = sV.freeCtr)) = true ∧
    MayRun sV w0 ∧
    leads (exec (.addi w0 5 (dai 4 1 64)) sV) (fun _ => true) = true := by unfold MayRun; decide +kernel

/-! ## Gathers, scatters, atomics -/

/-- s1 = 0x100; v2 holds offsets 0, 4, 8 and 0; v1 data; m2 selects lanes 0 to 2, m3 lanes 0 and 3. -/
def sG : State := { on { ctxs := [(0, {
  pc := 0x100, run := .running, vregs := [(1, 0x00000004000000030000000200000001), (2, 0x00000000000000080000000400000000)]
  masks := [(2, 7), (3, 9)], sregs := [(1, 0x100), (2, 9)] })] } with mem := [(storeAddr 0 0x104, 0x20)] }

theorem wit_GatherScatterAtomics :
    v3 (exec (.vgath w0 { dab 3 1 2 with ty := 0x12, mask := 2 }) sG) = [0, 0x20, 0, 0] ∧
    leads (exec (.vscat w0 { dab 0 1 2 with ty := 0x12, mask := 2, c := 1 }) sG)
      (fun t => decide (readLe t.mem (storeAddr 0 0x100) 12 = 0x000000030000000200000001)) = true ∧
    leads (exec (.vaadd w0 { dab 0 1 2 with ty := 0x12, mask := 2, c := 1 }) sG)
      (fun t => decide (readLe t.mem (storeAddr 0 0x100) 12 = 0x000000030000002200000001)) = true ∧
    leads (exec (.vamax w0 { dab 0 1 2 with ty := 0x12, mask := 2, c := 1 }) sG)
      (fun t => decide (readLe t.mem (storeAddr 0 0x100) 12 = 0x000000030000002000000001)) = true ∧
    v3 (exec (.vaaddr w0 { dab 3 1 2 with ty := 0x12, mask := 2, c := 1, v := true }) sG) = [0, 0x20, 0, 0] ∧
    leads (exec (.vfaadd w0 { dab 0 1 2 with mask := 2, c := 1, v := true }) sG) (fun _ => true) = true ∧
    leads (exec (.sclaim w0 { dab 4 1 2 with v := true }) sG)
      (fun t => decide (readLe t.mem (storeAddr 0 0x100) 4 = 9) && decide ((t.ctx w0).getS 4 = 1)) = true ∧
    hasDup ((laneAddrs (sG.ctx w0) { dab 0 1 2 with ty := 0x12, mask := 2 }).map (·.2)) = false ∧
    (∀ l ∈ laneAddrs (sG.ctx w0) { dab 0 1 2 with ty := 0x12, mask := 2 }, l.2 % 4 = 0 ∧ l.2 + 4 ≤ 0x300000 ∧
      sG.hazard 0 l.2 4 = false) := by decide +kernel

/-- The next state a command answers, or reset. -/
def after (o : Host.Outcome State Fault Refusal) : State := match o with | .next t => t | _ => {}

/-- sG after context 1 has stored 8 bytes at 0x104 (s1 = 0x104, s2 = all ones), with no barrier since. -/
def sRace : State := after (exec (.st1 w1 3 (abi 1 2 0)) (sG.modFrame 0 fun fr => { fr with
  ctxs := smPut fr.ctxs 1 { pc := 0x200, run := .running, sregs := [(1, 0x108), (2, 0xFFFFFFFFFFFFFFFF)] } }))

/-- A load that races (R125): one store of context 1 meets the 8 bytes at 0x108 as context 0 sees them, and none as context 1
does; after an atomic on the lower word that word shows the store, and the upper one not yet. The old bytes are 0. -/
theorem wit_racing_load :
    let a := storeAddr 0 0x108
    (sRace.racing (.context w0) (storeAddr 0 0x100) 16).length = 1 ∧ (sRace.racing (.context w0) a 8).length = 1 ∧
    sRace.racing (.context w1) a 8 = [] ∧ sRace.racing (.context w0) (storeAddr 0 0x110) 8 = [] ∧
    readLe sRace.mem a 8 = 0xFFFFFFFFFFFFFFFF ∧
    ((List.range 8).map fun j => rewound (·.races (.context w0)) (·.known (.context w0)) (a + j) 1 sRace.races (memGet sRace.mem (a + j))) =
      List.replicate 8 0 ∧
    MayRun sRace w0 ∧
    leads (exec (.ld1 w0 3 (dai 4 1 8)) sRace) (fun t => decide ((t.ctx w0).pc = 0x108) && decide (t.freeCtr = sRace.freeCtr + 1)) = true ∧
    leads (exec (.vld w0 (dai 3 1 0)) sRace) (fun t => decide ((t.ctx w0).pc = 0x108)) = true ∧
    leads (exec (.ld1 w1 3 (dai 4 1 0)) sRace) (fun t => decide ((t.ctx w1).getS 4 = 0xFFFFFFFFFFFFFFFF)) = true ∧
    leads (exec (.sclaim w0 { dab 4 1 2 with v := true }) (sRace.setCtx w0 { sRace.ctx w0 with sregs := [(1, 0x108), (2, 9)] }))
      (fun t => decide ((t.ctx w0).getS 4 = 0) && decide (((List.range 8).map fun j =>
        rewound (·.races (.context w0)) (·.known (.context w0)) (a + j) 1 t.races (memGet t.mem (a + j))) =
          List.replicate 4 0xFF ++ List.replicate 4 0)) = true := by
  unfold MayRun; decide +kernel

/-- Context 1 stores 8 bytes over its own racing word: context 0's store in between is not seen as older data by context 1, whose own
later store hides it (R125). -/
theorem test_own_store_hides :
    let e0 : Race := { writer := .context w0, addr := 0x108, old := List.replicate 8 3 }
    let e1 : Race := { writer := .context w1, addr := 0x108, old := List.replicate 8 5 }
    rewound (·.races (.context w1)) (·.known (.context w1)) 0x108 1 [e1, e0] 5 = 5 ∧ rewound (·.races (.context w1)) (·.known (.context w1)) 0x108 1 [e0] 5 = 3 := by decide

/-- The hypotheses under which the gather, scatter and atomics complete (Obligations.LoadsAndStores), on sG. -/
theorem wit_lanes_complete :
    MayRun sG w0 ∧ UsesVec2 { dab 3 1 2 with ty := 0x12, mask := 2 } tyArith ∧ sG.novary 0 = false ∧
    (∀ l ∈ laneAddrs (sG.ctx w0) { dab 3 1 2 with ty := 0x12, mask := 2, c := 1 },
      l.2 % 4 = 0 ∧ l.2 + 4 ≤ 0x300000 ∧ sG.hazard 0 l.2 4 = false ∧ sG.racing (.context w0) (storeAddr 0 l.2) 4 = []) ∧
    (∀ l ∈ laneAddrs (sG.ctx w0) { dab 0 1 2 with mask := 2, c := 1, v := true },
      l.2 % 4 = 0 ∧ l.2 + 4 ≤ 0x300000 ∧ sG.hazard 0 l.2 4 = false) ∧
    ((sG.ctx w0).getS 1).toNat % 4 = 0 ∧ ((sG.ctx w0).getS 1).toNat + 4 ≤ 0x300000 ∧ sG.hazard 0 ((sG.ctx w0).getS 1).toNat 4 = false := by
  unfold MayRun UsesVec2; decide +kernel

/-- Two lanes at one word: the highest lane wins a scatter (R124). -/
theorem test_lane_conflict :
    leads (exec (.vscat w0 { dab 0 1 2 with ty := 0x12, mask := 3, c := 1 }) sG)
      (fun t => decide (readLe t.mem (storeAddr 0 0x100) 4 = 4)) = true := by decide +kernel

/-! ## Converts -/

/-- FP32 1.0 to E4M3 (0x38), to BF16 (0x3F80). -/
theorem test_cvt :
    leads (exec (.cvt w0 { dab 3 1 0 with imm := 0x80000 }) sV) (fun t => decide ((vecElems 8 ((t.ctx w0).getV 3)).take 2 = [0x38, 0x42])) = true ∧
    cvtOk { dab 3 1 0 with imm := 0x80000 } = true ∧ etypeOf 0 = some (.flt fmtFP32) ∧ (etypeOf 4).isSome = true := by decide +kernel

/-- FP32 to E3M2 leaves the two bits above the last code clear; an element that overflows E4M3 counts in the frame's counter. -/
theorem wit_convert_counts :
    let s := sV.setCtx w0 { sV.ctx w0 with vregs := [(1, 0x3F8000007149F2CA), (3, BitVec.allOnes 2048)] }
    etypeOf 6 = some (.flt fmtE3M2) ∧ cvtOk { dab 3 1 0 with imm := 0xC0000 } = true ∧
    leads (exec (.cvt w0 { dab 3 1 0 with imm := 0xC0000 }) s) (fun t => !((t.ctx w0).getV 3).getLsbD 2046 && !((t.ctx w0).getV 3).getLsbD 2047 &&
      ((t.ctx w0).getV 3).getLsbD 2045) = true ∧
    leads (exec (.cvt w0 { dab 3 1 0 with imm := 0x80000 }) s) (fun t => decide ((t.frame 0).ovf = 1) && decide ((t.frame 0).crush = 0)) = true := by
  decide +kernel

theorem test_block_converts :
    (blockFmt 0x0D).isSome = true ∧ vqblkOk { dab 3 1 5 with imm := 0x1A0000 } = true ∧ vdqblkOk { dab 3 1 5 with imm := 0x1A0000 } = true ∧
    leads (exec (.vqblk w0 { dab 3 1 5 with imm := 0x1A0000, mask := 2 }) sV) (fun t => decide ((t.ctx w0).pc = 0x108)) = true ∧
    leads (exec (.vdqblk w0 { dab 3 1 5 with imm := 0x1A0000, mask := 2 }) sV) (fun t => decide ((t.ctx w0).pc = 0x108)) = true := by
  decide +kernel

/-! ## Jobs and transfers -/

/-- END, the chain instruction that ends nothing else: a program of one word. -/
def cEnd : W64 := 0x3000000000000000

/-- A descriptor of an E4M3 job with no fed row and its parameter block at 0x1000. -/
def descWords : List W64 := [0, 0, 0x84000000000000, 0, 0, 0, 0x1000, 7]

/-- Frame 0 with that descriptor at 0x200, a DMA descriptor FILLing 8 bytes of it at 0x300, and s1, s2 at them. -/
def sJ : State := { on { frameOf [(1, 0x200), (2, 0x300), (3, 0x201)] with cstore := [(0, cEnd)] } with
  mem := writeBytes (writeBytes [] (storeAddr 0 0x200) (descWords.flatMap fun w => leBytes 8 w.toNat)) (storeAddr 0 0x300)
    (([BitVec.ofNat 64 (5 * 2 ^ 48), BitVec.ofNat 64 (storeAddr 0 0x400), 7, 0, 0x55, 0, 0x4600, 0] : List W64).flatMap
      fun w => leBytes 8 w.toNat) }

theorem wit_JobAndTransferAccepted :
    ((sJ.frame 0).badJob 0 descWords (paramFields (List.replicate 256 0))) = false ∧
    leads (exec (.mjob w0 (dab 4 1 0)) sJ) (fun t => decide ((t.frame 0).deckQueue.length = 1) && decide ((t.ctx w0).getS 4 = 1)) = true ∧
    leads (exec (.dma w0 (dab 4 2 0)) sJ) (fun t => decide ((t.frame 0).dmaQueue.length = 1) && decide ((t.ctx w0).getS 4 = 1)) = true ∧
    faulted (exec (.mjob w0 (dab 4 3 0)) sJ) sJ 3 0x201 = true ∧ faulted (exec (.dma w0 (dab 4 3 0)) sJ) sJ 5 0x201 = true ∧
    (let full := sJ.modFrame 0 fun fr => { fr with
      deckQueue := List.replicate 4 { seq := 1, stamp := 0, who := w0, pc := 0, words := [], params := [], rowmap := [] }
      dmaQueue := List.replicate 16 { seq := 1, stamp := 0, who := w0, pc := 0, words := [] } }
     (full.frame 0).attOwner = none ∧
     is (exec (.mjob w0 (dab 4 1 0)) full) (full.setCtx w0 { full.ctx w0 with run := .stalled false (dab 4 1 0) }) = true ∧
     is (exec (.dma w0 (dab 4 2 0)) full) (full.setCtx w0 { full.ctx w0 with run := .stalled true (dab 4 2 0) }) = true) := by decide +kernel

/-- A context stalled in MJOB takes its job when there is room, and not before; the same for a transfer, and under an engine. -/
theorem wit_stalled :
    let st := fun (dma : Bool) => sJ.setCtx w0 { sJ.ctx w0 with run := .stalled dma (dab 4 (if dma then 2 else 1) 0) }
    let j : Job := { seq := 1, stamp := 0, who := w0, pc := 0, words := [], params := [], rowmap := [] }
    let full := (st false).modFrame 0 fun fr => { fr with deckQueue := List.replicate 4 j }
    slotOf w0 = 0 ∧ ((((st false).wakeOne 0 0).frame 0).deckQueue.map (·.seq)) = [1] ∧
    (((st false).wakeOne 0 0).ctx w0).pc = 0x108 ∧ (((st false).wakeOne 0 0).ctx w0).run = .running ∧
    ((((st true).wakeOne 0 0).frame 0).dmaQueue.map (·.seq)) = [1] ∧ (full.wakeOne 0 0).ctx w0 = full.ctx w0 ∧
    (((st false).modFrame 0 fun fr => { fr with attOwner := some (0, 0) }).wakeOne 0 0).ctx w0 = full.ctx w0 ∧
    (((st true).modFrame 0 fun fr => { fr with dmaQueue := List.replicate 16 { seq := 1, stamp := 0, who := w0, pc := 0, words := [] } }).wakeOne
      0 0).ctx w0 = (st true).ctx w0 := by decide +kernel

/-! ## Sync and system instructions -/

/-- Counter 3 stands at 5; job 1 and transfer 1 are outstanding. -/
def sS : State := on { frameOf [(1, 1), (2, 5), (3, 6)] with
  sig := [(3, 5)], jobSeq := 1, dmaSeq := 1
  deckQueue := [{ seq := 1, stamp := 0, who := w0, pc := 0, words := [], params := [], rowmap := [] }]
  dmaQueue := [{ seq := 1, stamp := 0, who := w0, pc := 0, words := [] }] }

theorem wit_Sync :
    leads (exec (.waits w0 { dab 0 2 0 with imm := 3 }) sS) (fun t => decide ((t.ctx w0).pc = 0x108)) = true ∧
    leads (exec (.waits w0 { dab 0 3 0 with imm := 3 }) sS) (fun t => decide ((t.ctx w0).run = .blocked (.waits 3 6))) = true ∧
    leads (exec (.waitj w0 (dab 0 1 0)) sS) (fun t => decide ((t.ctx w0).run = .blocked (.waitj 1))) = true ∧
    leads (exec (.waitd w0 (dab 0 1 0)) sS) (fun t => decide ((t.ctx w0).run = .blocked (.waitd 1))) = true ∧
    leads (exec (.fencej w0 (dab 0 1 0)) sS) (fun t => decide ((t.ctx w0).run = .blocked (.fencej 1))) = true ∧
    leads (exec (.waitj w0 (dab 0 0 0)) sS) (fun t => decide ((t.ctx w0).pc = 0x108)) = true ∧
    leads (exec (.waitd w0 (dab 0 0 0)) sS) (fun t => decide ((t.ctx w0).pc = 0x108)) = true ∧
    leads (exec (.fencej w0 (dab 0 0 0)) sS) (fun t => decide ((t.ctx w0).pc = 0x108)) = true ∧
    leads (exec (.fences w0 (dab 0 0 0)) sS) (fun t => decide ((t.ctx w0).pc = 0x108)) = true ∧
    leads (exec (.sigadd w0 { dab 0 2 0 with imm := 3 }) sS) (fun t => decide (smGet 0 (t.frame 0).sig 3 = 10)) = true := by decide +kernel

/-- Two contexts meet at barrier 5; a third count is a mismatch. -/
theorem wit_Barrier :
    let two := on { ctxs := [(0, { pc := 0x100, run := .running }), (1, { pc := 0x200, run := .blocked (.bar 5) })], bars := [(5, (2, [(0, 1)]))] }
    leads (exec (.bar w0 { dab 0 0 0 with imm := 0x25 }) two) (fun t => decide ((t.ctx w0).pc = 0x108) &&
      decide ((t.ctx w1).pc = 0x208) && decide ((t.ctx w1).run = .running) && decide (smGet (0, []) (t.frame 0).bars 5 = (0, []))) = true ∧
    faulted (exec (.bar w0 { dab 0 0 0 with imm := 0x35 }) two) two 0xA 0 = true ∧
    leads (exec (.bar w0 { dab 0 0 0 with imm := 0x24 }) two) (fun t => decide ((t.ctx w0).run = .blocked (.bar 4))) = true ∧
    (1 ≤ 0x25 / 16 ∧ 0x25 / 16 ≤ 64 ∧ ([(0, 1), (0, 0)] : List (Nat × Nat)).Nodup) ∧
    (∀ v : ThreadId, v.frame = w0.frame → (v.core.val, v.ctx.val) = (0, 0) → (two.ctx v).pc.toNat + 8 < 0x20000) := by
  refine ⟨by decide +kernel, by decide +kernel, by decide +kernel, by decide +kernel, ?_⟩
  rintro ⟨f, c, x⟩ hf h
  simp only [w0, Prod.mk.injEq] at hf h
  obtain ⟨hc, hx⟩ := h
  have h1 : c = 0 := Fin.ext hc
  have h2 : x = 0 := Fin.ext hx
  subst hf; subst h1; subst h2; decide +kernel

theorem wit_System :
    let s := { on { frameOf [(1, 0x1F)] with crush := 7, ovf := 8 } with gc := 0x1234 }
    s4 (exec (.rdcnt w0 { dab 4 0 0 with v := true }) s) = some 7 ∧ s4 (exec (.rccnt w0 { dab 4 0 0 with v := true, imm := 1 }) s) = some 8 ∧
    leads (exec (.rccnt w0 { dab 4 0 0 with v := true, imm := 1 }) s) (fun t => decide ((t.frame 0).ovf = 0)) = true ∧
    s4 (exec (.rdgc w0 { dab 4 0 0 with v := true }) s) = some 0x1234 ∧ s4 (exec (.rdfpsr w0 (dab 4 0 0)) s) = some 0 ∧
    s4 (exec (.rdtid { w0 with ctx := 0 } (dab 4 0 0)) s) = some 0 ∧
    leads (exec (.wrfpsr w0 (dab 0 1 0)) s) (fun t => decide ((t.ctx w0).fpsr = 0x1F)) = true ∧
    leads (exec (.wrfpcr w0 (dab 0 0 0)) s) (fun t => decide ((t.ctx w0).fpcr = 0)) = true ∧
    leads (exec (.setseed w0 (dab 0 1 1)) s) (fun t => decide ((t.ctx w0).srseed = 0x1F) && decide ((t.ctx w0).srseq = 0x1F)) = true ∧
    s.novary 0 = false := by decide +kernel

theorem test_rdtid : leads (exec (.rdtid { frame := 2, core := 3, ctx := 15 } (dab 4 0 0)) { sA with frames :=
    [(2, { ctxs := [(63, { pc := 0x100, run := .running })] })] }) (fun t =>
      decide ((t.ctx { frame := 2, core := 3, ctx := 15 }).getS 4 = 191)) = true := by decide +kernel

/-! ## Decks, DMA, engines, sampler -/

/-- The job of sJ once accepted, once started, once delivered, and its transfer once started. -/
def sJ1 : State := after (exec (.mjob w0 (dab 4 1 0)) sJ)
def sJ2 : State := after (exec (.tileJobStart 0) sJ1)
def sJ3 : State := after (exec (.tileDelivered 0) sJ2)
def sD1 : State := after (exec (.dma w0 (dab 4 2 0)) sJ)
def sD2 : State := after (exec (.dmaTransferStart 0) sD1)

theorem wit_DeckEvents :
    ((sJ1.frame 0).deckQueue.map fun j => j.att.isNone && sJ1.jobReady 0 j) = [true] ∧ (sJ1.frame 0).redo = [] ∧
    (sJ2.frame 0).deckQueue.length = 0 ∧ ((sJ2.frame 0).inFlight.map fun j => j.att.isNone) = [true] ∧ (sJ2.frame 0).course = none ∧
    (sJ3.frame 0).course = none ∧ (sJ1.frame 0).inFlight = [] ∧
    ((sJ3.frame 0).delivered.map fun j => decide (j.held = {}) && !(sJ3.frame 0).withholds j && !(paramFields j.params).cren) = [true] ∧
    leads (exec (.chainProgramEnd 0) sJ3) (fun t => decide ((t.frame 0).delivered = []) && decide (t.mem = sJ3.mem)) = true ∧
    is (exec (.chainProgramEnd 0) sJ2) sJ2 = true ∧
    (let h := sJ3.modFrame 0 fun fr => { fr with vslots := [(0, .pending)], delivered := fr.delivered.map fun j =>
       { j with words := j.words.set 6 0x401000 } }
     ((h.frame 0).delivered.map fun j => (h.frame 0).withholds j) = [true] ∧
     leads (exec (.chainProgramEnd 0) h) (fun t => decide ((t.frame 0).heldJobs.length = 1)) = true) ∧
    (let st := sJ1.setCtx w1 { run := .stalled false (dab 4 1 0), sregs := [(1, 0x200)] }
     leads (exec (.tileJobStart 0) st) (fun t => decide ((t.frame 0).deckQueue.map (·.seq) = [2])) = true) ∧
    (let w := sJ1.modFrame 0 fun fr => { fr with
        deckQueue := fr.deckQueue.map fun j => { j with stamp := 1, words := j.words.set 0 1 }
        dmaQueue := (sD1.frame 0).dmaQueue.map fun x => { x with stamp := 0, words := x.words.set 1 (BitVec.ofNat 64 (storeAddr 0 0x1FFF)) } }
     ((w.frame 0).deckQueue.map fun j => w.jobReady 0 j) = [false] ∧ is (exec (.tileJobStart 0) w) w = true) := by
  decide +kernel

/-- RSCALE with RC = 1 over buffer 0, r = S, releasing it; EXPECT = 1. -/
def cRscale : W64 := 0x2C01000300000000

/-- A program waits at its RC = 1 instruction, the next tile waits behind it, and it goes on once the row statistics are complete
(R168). -/
theorem test_chain_waits :
    let s := sJ2.modFrame 0 fun fr => { fr with cstore := [(0, cRscale), (1, cEnd)] }
    let t := after (exec (.tileDelivered 0) s)
    let full := t.modFrame 0 fun fr => { fr with rstat := [(0, { present := [(0, List.replicate 64 0x3F800000)] })] }
    (t.frame 0).course.isSome = true ∧ (t.frame 0).delivered = [] ∧ is (exec (.chainProgramEnd 0) t) t = true ∧
    (let two := t.modFrame 0 fun fr => { fr with inFlight := (sJ2.frame 0).inFlight }
     is (exec (.tileDelivered 0) two) two = true) ∧
    leads (exec (.chainProgramEnd 0) full) (fun u => (u.frame 0).course.isNone && decide ((u.frame 0).delivered = []) &&
      decide ((u.frame 0).rstat = [])) = true := by decide +kernel

theorem test_accumulate : dotInt 0xFFFFFFFF [2, -3] = 0xFFFFFFFE ∧ (2 : Nat) ^ 32 - 1 < 2 ^ 32 := by decide +kernel

theorem wit_TallyAndReexecute :
    let s := sA.modFrame 0 fun fr => { fr with
      tallyIn := [{ buf := 3, index := 63, rows := List.replicate 64 0x3F800000, largest := false, who := wf, pc := 0x40, idx := 7, seq := 3 },
                  { buf := 3, index := 0, rows := List.replicate 64 0, largest := false, who := wf, pc := 0x40, idx := 7, seq := 3 }]
      rstat := [(3, { present := [(63, [])] })] }
    leads (exec (.tallyContribution 0 1) s) (fun t => decide ((smGet {} (t.frame 0).rstat 3).present.map (·.1) = [0, 63])) = true ∧
    s.regionOfFrame 0 = some 0 ∧
    leads (exec (.tallyContribution 0 0) s) (fun t =>
      decide ((t.region 0).faultRecs = [faultRecord .tallyDup { wf with frame := 0 } 0x40 0x30007]) && (t.region 0).faulted) = true ∧
    (s.frame 0).vslot 127 ≠ .bad ∧ (s.frame 0).course = none ∧
    is (exec (.provisionalReexecute 0 127) s) s = true ∧
    leads (exec (.provisionalReexecute 0 127) (s.modFrame 0 fun fr => { fr with redo := [127] }))
      (fun t => decide ((t.frame 0).redo = [])) = true := by decide +kernel

/-- A job in flight that carries verify slot 3, accepted since the slot's chunk arrived: its tile is formed again, and the chain buffer
slot that such a job filled is emptied; one accepted before is left alone (R177). -/
theorem wit_provisional :
    let j : Job := { seq := 1, stamp := 5, who := w0, pc := 0, words := [0, 0, 0x84000000000000, 0, 0, 0, 0x1C00000, 0], params := [], rowmap := [] }
    let s := sA.modFrame 0 fun fr => { fr with redo := [3], inFlight := [j], slots := [(2, { full := true, verify := some 3 }), (4, { full := true })]
                                               slotSince := [(3, 5)] }
    let late := s.modFrame 0 fun fr => { fr with slotSince := [(3, 6)] }
    (s.frame 0).redoes 3 j = true ∧ (late.frame 0).redoes 3 j = false ∧
    leads (exec (.provisionalReexecute 0 3) s) (fun t => decide ((t.frame 0).redo = []) && decide ((t.frame 0).slots.map (·.1) = [4]) &&
      decide ((t.frame 0).inFlight.length = 1)) = true ∧
    leads (exec (.provisionalReexecute 0 3) late) (fun t => decide ((t.frame 0).inFlight = [j]) && decide ((t.frame 0).beads = (late.frame 0).beads)) =
      true := by decide +kernel

theorem wit_DmaEvents :
    (sD1.frame 0).dmaQueue.length = 1 ∧ (sD2.frame 0).dmaQueue.length = 0 ∧ (sD2.frame 0).dmaActive.length = 1 ∧ sD2.mem = sD1.mem ∧
    ((sD2.frame 0).dmaActive.map fun x => sD2.holdsBack 0 x) = [false] ∧
    ((sD1.frame 0).nextXfer.map fun x => x.att.isNone) = some true ∧ sD2.lostGranules 0 = [] ∧
    leads (exec (.dmaTransferDone 0) sD2) (fun t => decide ((t.frame 0).dmaActive = []) &&
      decide (readLe t.mem (storeAddr 0 0x400) 9 = 0x55)) = true ∧
    (let hole := sD1.modFrame 0 fun fr => { fr with dmaQueue := fr.dmaQueue.map fun x =>
        { x with words := x.words.set 1 (BitVec.ofNat 64 (storeAddr 1 0x2FFFFC)) } }
     leads (exec (.dmaTransferStart 0) hole) (fun t => decide ((t.region 0).faultRecs.length = 1)) = true) := by decide +kernel

/-- A started transfer whose FILL meets the fed activations of a job accepted before it is held back until the job has been read
out, and no later transfer starts meanwhile (R112, R140). -/
theorem wit_held_transfer :
    let j : Job := { seq := 1, stamp := 0, who := wf, pc := 0, words := [1, 0, 0x84000000000000 + 0x1000], params := [], rowmap := [] }
    let s := (sD2.modFrame 0 fun fr => { fr with
      dmaActive := fr.dmaActive.map fun x => { x with stamp := 1, writes := [(storeAddr 1 0x1000, [0x55])] }
      dmaQueue := (sD1.frame 0).dmaQueue }).modFrame 1 fun fr => { fr with deckQueue := [j] }
    ((s.frame 0).dmaActive.map fun x => s.holdsBack 0 x) = [true] ∧ (s.frame 0).nextXfer.isSome = true ∧
    is (exec (.dmaTransferDone 0) s) s = true ∧ is (exec (.dmaTransferStart 0) s) s = true ∧
    (let free := s.modFrame 1 fun fr => { fr with deckQueue := [] }
     leads (exec (.dmaTransferDone 0) free) (fun t => decide (readLe t.mem (storeAddr 1 0x1000) 1 = 0x55)) = true) := by
  decide +kernel

/-- An image with one attention descriptor (prompt mode, engine 0 over frame 0, wait value 0) and two sampler descriptors. -/
def imgAtt (w0 : W64) : Image := { imgNovary with
  novary := false
  attention := [[w0, 0x100000000, 0, 0, 0, 0, 0, 0, 0, 0, 0, 0, 0, 0, 0, 0], [w0, 0x100000000, 0, 0, 0, 0, 0, 0, 0, 0, 0, 0x4000, 0, 0, 0, 0]]
  sampler := [[0x20000, 0x1000, 0x2000, 0, 0, 0, 0, 0], [0x20000, 0x1000, 0x2000, 0, 0, 0, 0, 0]] }

/-- sA under that image. -/
def sT (w0 : W64) : State := { sA with regions := [(0, { whole with image := some (imgAtt w0), groups := [(5, { w0 := 0x8005, w1 := 0x800000 })] })] }

/-- sT with a run of descriptor 0. -/
def sTr (w0 : W64) (r : AttRun) : State := (sT w0).modRegion 0 fun x => { x with att := [r] }

/-- A row group. -/
def g0 : RowGroup := { rid := 0, desc := 0, entry := 0, tile := 0, head := 0 }

theorem wit_AttentionEvents :
    ((sT 0).attDesc 0 0).isSome = true ∧ (sT 0).attOrderOk 0 0 ((imgAtt 0).attention.getD 0 []) = true ∧
    (attFramesOf (sT 0).nv ((imgAtt 0).attention.getD 0 [])).all (fun f => !((sT 0).frame f).samplerHeld) = true ∧
    (let a := attFields ((imgAtt 0).attention.getD 0 [])
     (sT 0).tableFault 0 a = none ∧ a.ring = false ∧ a.mode ≠ 2 ∧ a.wval = 0) ∧
    leads (exec (.attentionDescriptorStart 0 0) (sT 0)) (fun t => ((t.region 0).attRun 0).isSome) = true ∧
    is (exec (.attentionDescriptorStart 0 1) (sT 0)) (sT 0) = true ∧
    leads (exec (.attentionDescriptorDone 0 0) (sTr 0 { desc := 0, phase := .running })) (fun t =>
      decide ((t.frame 0).counter 0 = 1) && decide (((t.region 0).attRun 0).map (·.phase) = some .done)) = true ∧
    is (exec (.attentionDescriptorDone 0 0) (sTr 0 { desc := 0, phase := .running, todo := 1 }))
      (sTr 0 { desc := 0, phase := .running, todo := 1 }) = true ∧
    is (exec (.splitMerge 0 0 0) (sTr 0 { desc := 0, phase := .running, todo := 1 })) (sTr 0 { desc := 0, phase := .running, todo := 1 }) = true ∧
    (attFields ((imgAtt 0x10000000000000).attention.getD 0 [])).split = 2 ∧
    leads (exec (.splitMerge 0 0 0) (sTr 0x10000000000000 { desc := 0, phase := .running, todo := 1, groups := [g0], parts := [
        { group := { g0 with part := 1 }, home := 0, m := [], l := [], acc := [] }, { group := g0, home := 0, m := [], l := [], acc := [] }] }))
      (fun t => decide (((t.region 0).attRun 0).map (·.parts) = some [])) = true := by decide +kernel

/-- A malformed table entry, and a sampler run on the descriptor's frames (R243, R213). -/
theorem wit_table_and_frames :
    let a := attFields ((imgAtt 0).attention.getD 0 [])
    let base := (sT 0).tableBase 0 false
    let bad := { (sT 0).modRegion 0 fun r => { r with promptN := 1 } with mem := [(base + 15, 0x80)] }
    let held := (sT 0).modFrame 0 fun fr => { fr with attOwner := some (0, 1024) }
    bad.tableFault 0 a = some (.other 0x11, base) ∧
    leads (exec (.attentionDescriptorStart 0 0) bad) (fun t => decide ((t.region 0).faultRecs.length = 1)) = true ∧
    (held.frame 0).samplerHeld = true ∧ is (exec (.attentionDescriptorStart 0 0) held) held = true ∧
    (attFields ((imgAtt 0).attention.getD 1 [])).wval = 1 := by decide +kernel

/-- A lane after the first that does not fault: lanes 0 and 1 at 0x3000 and 0x2FF8, where a job in the deck queue reads, and at 0x2FFFFC
and 0x300004; VST and SCLAIM at 0x1000; a store into the attention area of a descriptor that holds the frame. -/
theorem wit_range_lanes :
    let j : Job := { seq := 1, stamp := 0, who := w0, pc := 0, words := [1, 0, 0x84000000000000 + 0x1000], params := [], rowmap := [] }
    let c : Ctx := { pc := 0x100, run := .running, vregs := [(1, 8), (2, 0x0000000800000000)], masks := [(2, 3)],
                     sregs := [(1, 0x2FF8), (2, 0x2FFFFC), (5, 0x1000)] }
    let fr : Frame := { ctxs := [(0, c)], deckQueue := [j] }
    let s := { sM with frames := [(0, fr)] }
    let t := { sT 0 with frames := [(0, { fr with deckQueue := [], attOwner := some (0, 0) })] }
    let near : Insn := { dab 0 1 1 with ty := 0x12, mask := 2 }
    let far : Insn := { dab 3 2 2 with ty := 0x12, mask := 2 }
    (laneAddrs (s.ctx w0) near).map (·.2) = [0x3000, 0x2FF8] ∧ s.hazard 0 0x3000 4 = false ∧
    (laneAddrs (s.ctx w0) far).map (·.2) = [0x2FFFFC, 0x300004] ∧ s.hazard 0 0x2FFFFC 4 = false ∧
    faulted (exec (.vscat w0 near) s) s 4 0x2FF8 = true ∧ faulted (exec (.vamax w0 near) s) s 4 0x2FF8 = true ∧
    faulted (exec (.vaadd w0 { far with d := 0 }) s) s 7 0x300004 = true ∧ faulted (exec (.vgath w0 far) s) s 7 0x300004 = true ∧
    faulted (exec (.vfaadd w0 { near with v := true, ty := 0 }) s) s 4 0x2FF8 = true ∧
    faulted (exec (.vaaddr w0 { far with v := true }) s) s 7 0x300004 = true ∧
    faulted (exec (.vst w0 (abi 5 0 0)) s) s 4 0x1000 = true ∧
    faulted (exec (.sclaim w0 { dab 4 5 3 with v := true }) s) s 4 0x1000 = true ∧
    t.attSize 0 0 = 0x80000 ∧ rangesMeet (0x1000, 8) (t.attArea 0 0, t.attSize 0 0) = true ∧
    faulted (exec (.st1 w0 3 (abi 5 3 0)) t) t 4 0x1000 = true := by decide +kernel

theorem wit_ring_attention :
    let c : Coll := { ordinal := 0, desc := 1024, gid := 5, length := 0, done := true }
    let run : AttRun := { desc := 0, phase := .running, ringStep := 1, ringGot := [1] }
    let w : W64 := 0x2000000000000000
    let s := (sTr w run).modRegion 0 fun x => { x with colls := [c], groups := [(0, { w0 := 0x8000, w1 := 0x800000 })] }
    s.ringMembers 0 0 = [0, 2] ∧ s.ringMayStart 0 0 1 (attFields [w]) run 2 0 [0] = true ∧
    leads (exec (.ringStepStart 0 0 1) s) (fun t => decide (((t.region 0).attRun 0).map (·.ringStep) = some 2)) = true ∧
    is (exec (.ringStepStart 0 0 0) s) s = true := by decide +kernel

/-- Where no write of the step is noted, no COPY_IN races. -/
theorem wit_NoCopyRace : NoCopyRace (sT 0) 0 := fun _ h => absurd (show _ ∈ ([] : List Race) from h) List.not_mem_nil

theorem wit_SamplerEvents :
    let run := (sT 0).modRegion 0 fun r => { r with
      samp0 := { phase := .running, starts := 1, writes := [(3, 7)] }, samp1 := { phase := .running, starts := 1 } }
    ((sT 0).sampDesc 0 0).isSome = true ∧ ((sT 0).sampDesc 0 1).isSome = true ∧
    (attFramesOf (sT 0).nv (sampRects ((imgAtt 0).sampler.getD 0 []))).all (fun f => decide (((sT 0).frame f).attOwner = none)) = true ∧
    (sT 0).rowFault 0 0 (sampFields ((imgAtt 0).sampler.getD 0 [])) [] = none ∧ (sT 0).lostGranules 0 = [] ∧
    (sT 0).stageReady ((imgAtt 0).sampler.getD 0 []) [] = true ∧
    leads (exec (.samplerRunStart 0 0) (sT 0)) (fun t => decide ((t.region 0).samp0.phase = .running)) = true ∧
    leads (exec (.samplerRunStart 0 1) (sT 0)) (fun t => decide ((t.region 0).samp1.starts = 1)) = true ∧
    is (exec (.samplerRunStart 0 0) ((sT 0).modRegion 0 fun r => { r with run := .stopping }))
      ((sT 0).modRegion 0 fun r => { r with run := .stopping }) = true ∧
    is (exec (.samplerRunDone 0 0) (sT 0)) (sT 0) = true ∧
    leads (exec (.samplerRunDone 0 0) run) (fun t => decide ((t.frame 0).counter 0 = 1) && decide (t.mem = [(0x200C, 7)])) = true ∧
    leads (exec (.samplerRunDone 0 1) run) (fun t => decide ((t.region 0).samp1.phase = .done)) = true := by decide +kernel

/-- The sampler descriptor of the next two witnesses. -/
def wFar : List W64 := [0x20000, 0x800000001000, 0x2000, 0, 0, 0, 0, 0]

/-- sT with one prompt that ends in the step, and its row's logits outside the region's windows. -/
def sFar : State := (sT 0).modRegion 0 fun r => { r with promptN := 1, image := some { imgAtt 0 with sampler := [wFar] } }

/-- A row outside the windows, in a run that may stage (Obligations.SamplerEvents). -/
theorem wit_sampler_fault : sFar.sampDesc 0 0 = some wFar ∧ (sFar.mainItems 0).map (·.row) = [0] ∧
    sFar.rowFault 0 0 (sampFields wFar) (sFar.mainItems 0) ≠ none ∧ sFar.stageReady wFar [0] = true := by
  refine ⟨by decide +kernel, by decide +kernel, by decide +kernel, ?_⟩
  have jobs : ∀ f, (sFar.frame f).deckQueue = [] ∧ (sFar.frame f).inFlight = [] ∧ (sFar.frame f).waiting = [] := by
    intro f; cases f <;> exact ⟨rfl, rfl, rfl⟩
  have transfers : ∀ f, (sFar.frame f).dmaQueue = [] ∧ (sFar.frame f).attQueue = [] ∧ (sFar.frame f).dmaActive = [] := by
    intro f; cases f <;> exact ⟨rfl, rfl, rfl⟩
  simp [State.stageReady, State.writeHeld, Frame.stillReads, jobs, transfers]

/-! ## Mesh, errors -/

theorem wit_Mesh :
    let p : Packet := { cls := 0, tag := 0, srcCol := 0, srcRow := 0, dstCol := 23, dstRow := 15, read := none, flits := 1 }
    sA.isReady = true ∧ (sA.route p).map (·.all fun x => decide (sA.regionAt x = some 0)) = some true ∧
    leads (exec (.meshPacket p) sA) (fun t => decide (t.out = [.meshDeliver p])) = true ∧
    leads (exec (.meshPacket p) (sA.modRegion 0 fun r => { r with bands := 1 })) (fun t =>
      decide (t.mesh.discards = 1) && (t.region 0).abortAll) = true ∧
    sA.map.retrain = [] := by decide +kernel

/-- A packet that a router of a Warm half discards makes that half Active (R467); one that is delivered, every half on its way. -/
theorem wit_mesh_wakes :
    let p : Packet := { cls := 0, tag := 0, srcCol := 0, srcRow := 0, dstCol := 23, dstRow := 15, read := none, flits := 1 }
    let s := { sA with pwr := { west := { active := false }, east := { active := false } } }
    (s.route p).map (fun l => l.head?.map (·.half)) = some (some .west) ∧
    leads (exec (.meshPacket p) s) (fun t => t.pwr.west.active && t.pwr.east.active) = true ∧
    leads (exec (.meshPacket p) (s.modRegion 0 fun r => { r with live := false })) (fun t => t.pwr.west.active && !t.pwr.east.active &&
      decide (t.mesh.discards = 1)) = true := by decide +kernel

/-- Retiring the position of logical frame 11, first with the spare of its row-half and then without one; spare rows; order 1's tests. -/
theorem wit_retirement :
    let p : Pos := { half := .west, prow := 0, pcol := 0 }
    let q : Pos := { half := .west, prow := 0, pcol := 12 }
    let t := sA.retire1 p
    let u := t.retire1 q
    sA.usable p = true ∧ sA.logicalAt p = some 11 ∧ sA.spareOf .west 0 = some q ∧ t.positionOf 0 = some q ∧
    t.usable q = true ∧ t.logicalAt q = some 0 ∧ t.spareOf .west 0 = none ∧ u.positionOf 0 = none ∧ u.positionOf 11 = t.positionOf 11 ∧
    (u.region 0).disableDue = true ∧ u.nv.history.map (·.1) = [.frame p, .frame q] ∧
    (sA.spareRow (.instrStore 0) 5).map.rows = [(.instrStore 0, 5)] ∧
    (let full := { sA with map := { rows := [(.requestTable 0, 0), (.instrStore 0, 0), (.instrStore 0, 1), (.instrStore 0, 2), (.instrStore 0, 3)] } }
     full.rowsUsed (.instrStore 0) = 4 ∧ full.spareRow (.instrStore 0) 5 = full ∧
     full.exhausted [(.instrStore 0, 5)] = [{ p with pcol := 11 }] ∧ (full.spareRow (.requestTable 0) 5).sys.extraDegraded = true) ∧
    (let s := { sA with map := { tests := [p] } }
     s.testsDue 0 = [p] ∧ (s.mendFrames 0 {}).map.tests = [] ∧ (s.mendFrames 0 { failed := [p] }).map.retired = [p]) := by decide +kernel

theorem wit_lost_words :
    let t := sA.retire1 { half := .west, prow := 0, pcol := 11 }
    let m := { t with mem := [(storeAddr 0 8, 5), (storeAddr 0 16, 6)] }
    let u := sA.loseWords m { lostWords := [(0, 15)] }
    sA.positionOf 0 ≠ t.positionOf 0 ∧ (t.positionOf 0).isSome = true ∧ t.regionOfFrame 0 = some 0 ∧
    u.mem = [(storeAddr 0 16, 6)] ∧ (u.region 0).abortAll = true := by decide +kernel

theorem test_mesh_absent :
    exec (.meshPacket { cls := 0, tag := 0, srcCol := 24, srcRow := 0, dstCol := 0, dstRow := 0, read := none, flits := 1 }) sA =
      .fault .absentFrame ∧
    exec (.frameParityError 383) { sA with nv := { grade352 := true } } = .fault .absentFrame ∧
    exec (.sramError (.instrStore 352) 0 0 (.step 0) .corrected) { sA with nv := { grade352 := true } } = .fault .absentFrame :=
  ⟨rfl, rfl, rfl⟩

theorem wit_FrameFaults :
    (sA.positionOf 383).isSome = true ∧ sA.regionOfFrame 383 = some 0 ∧
    leads (exec (.frameParityError 383) sA) (fun t => decide (t.map.tests.length = 1) && decide ((t.region 0).faultRecs.length = 1)) = true ∧
    (let s := { sA with mc := { t1 := [(5, { lost := [256] }), (24, { state := 1 })], serves := 5 } }
     leads (exec .gddrMigrationDone s) (fun t => t.mc.copyDone && decide ((t.t1 24).lost = [256])) = true) ∧
    is (exec .gddrMigrationDone sA) sA = true ∧
    leads (exec (.packageLastingFault true 11) sA) (fun t => decide ((t.t2 11).state = 3) && (t.region 0).disableDue) = true := by
  decide +kernel

/-- A GDDR7 package with the spare idle and not, the spare itself, and the switch at order 1 (R494, R495). -/
theorem wit_spare_package :
    let inUse := { sA with mc := { t1 := [(5, { state := 2 }), (24, { state := 2 })], serves := 5 } }
    let copied := { sA with mc := { t1 := [(5, { state := 1, lost := [256] }), (24, { state := 1, lost := [256, 512] })], serves := 5, copyDone := true } }
    leads (exec (.packageLastingFault false 5) sA) (fun t => decide ((t.t1 5).state = 1) && decide ((t.t1 24).state = 1) &&
      decide (t.mc.serves = 5)) = true ∧
    leads (exec (.packageLastingFault false 6) inUse) (fun t => decide ((t.t1 6).state = 3) && (t.region 0).disableDue) = true ∧
    leads (exec (.packageLastingFault false 24) sA) (fun t => decide ((t.t1 24).state = 3)) = true ∧
    leads (exec (.packageLastingFault false 24) inUse) (fun t => decide ((t.t1 24).state = 3) && decide ((t.t1 5).state = 3) &&
      (t.region 0).disableDue) = true ∧
    copied.testsDue 0 = [] ∧ ((copied.orderOne 0 {}).t1 5).state = 2 ∧ ((copied.orderOne 0 {}).t1 5).lost = [256] := by decide +kernel

/-- A frame that moves takes its code from another frame of the region, also a word that was lost in its own (R490, R492). -/
theorem wit_moved_segments :
    let p : Pos := { half := .west, prow := 0, pcol := 0 }
    let s := { sA with frames := [(0, { istore := [(3, 7)] }), (11, { istore := [(3, 0)], cstore := [(1, 2)], ovf := 4 }), (1, { istore := [(3, 7)] })] }
    let t := s.retire1 p
    t.segmentFrame 11 = 0 ∧ s.positionOf 11 ≠ t.positionOf 11 ∧ (t.positionOf 11).isSome = true ∧
    (t.frame 11).istore = [(3, 7)] ∧ (t.frame 11).cstore = [] ∧ (t.frame 11).ovf = 4 := by decide +kernel

theorem wit_DataErrors :
    leads (exec (.memoryReadError true 11 0 0 (.step 0) true) sA) (fun t => decide (t.sys.ceCount = 1)) = true ∧
    leads (exec (.memoryReadError false 23 0 0 (.step 0) true) sA) (fun t => decide ((t.t1 23).retry = 1)) = true ∧
    leads (exec (.memoryReadError false 23 0x1FF 0 (.handoff 9) false) { sA with reqs := [(9, { state := .prompt })] }) (fun t =>
      decide ((t.t1 23).lost = [0x100]) && (t.req 9).failed) = true ∧
    unitExists sA.nv (.frameStore 383 31) = true ∧
    leads (exec (.sramError (.frameStore 383 31) 5 0 (.step 0) .lastingCorrectable) sA) (fun t => decide (t.map.rowsDue.length = 1)) = true ∧
    (let s := { sA with mem := [(storeAddr 0 0x108, 1), (storeAddr 0 0x110, 2)] }
     leads (exec (.sramError (.frameStore 0 0) 5 (storeAddr 0 0x10F) (.step 0) .lastingLost) s) (fun t =>
      decide (t.mem = [(storeAddr 0 0x110, 2)]) && decide ((t.region 0).faultRecs.length = 1)) = true) ∧
    leads (exec (.sramError (.requestTable 32767) 0 0 (.step 0) .lastingLost) { sA with reqs := [(32767, { state := .lead })] })
      (fun t => (t.req 32767).abort && decide ((.requestTable 32767, 0) ∈ t.map.rowsDue)) = true ∧
    leads (exec (.sramError (.requestTable 32767) 0 0 (.step 0) .lastingLost) sA) (fun t => decide (t.reqs = [])) = true := by decide +kernel

/-- A granule whose re-read fails, by reader and tier (R488). -/
theorem wit_lost_granules :
    leads (exec (.memoryReadError false 23 0x1FF 0x99 (.step 0) false) sA) (fun t =>
      decide ((t.t1 23).lost = [0x100]) && decide ((t.region 0).faultRecs.length = 1)) = true ∧
    leads (exec (.memoryReadError false 23 0x1FF 0 (.copyOut 0) false) sA) (fun t =>
      decide ((t.t1 23).lost = [0x100]) && decide (t.hif.err.lost = sA.hif.err.lost + 1) && decide ((t.region 0).faultRecs = [])) = true ∧
    leads (exec (.memoryReadError false 23 0x1FF 0 (.walk 9) false) { sA with reqs := [(9, { state := .prompt })] }) (fun t =>
      (t.req 9).walkInvalid) = true ∧
    leads (exec (.memoryReadError true 11 0x7FF 0x99 (.step 0) false) { sA with mem := [(t2Base 0 + 11 * 1024 + 12 * 1024 + 5, 6)] }) (fun t =>
      decide ((t.t2 11).lost = [0x400]) && decide (t.mem = []) && decide ((t.region 0).faultRecs.length = 1)) = true := by decide +kernel

/-! ## Links, collectives, cells -/

/-- The module in slot 1 of tray 0, whose port 4 to slot 0 is up; group 5 is slots 0 and 1 of the tray. -/
def sL : State := { sA with
  fab := { coord := 0x400, coordSet := true, ports := [(4, { up := true, lanes := 4 })] }
  regions := [(0, { whole with image := some { imgNovary with collective := [[0x54, 0, 0, 0, 0, 0, 0, 0, 0, 0, 0, 0, 0, 0]] }
                               groups := [(5, { w0 := 0x8005, w1 := 0x800000 })] })] }

theorem wit_LinkPorts :
    sL.self = 2 ∧ sL.portPeer 4 = some (0, 6) ∧ sL.isRoot = false ∧ sL.parentPort = 4 ∧ sA.isRoot = true ∧
    (let t : ZlTraining := { peer := 0, rack := 0, peerPort := 6, nonces := [], mac := [], failedLanes := [] }
     leads (exec (.zlLinkTraining 4 t) sL) (fun u => (u.port 4).up && decide ((u.port 4).lanes = 4)) = true ∧
     leads (exec (.zlLinkTraining 4 { t with peerPort := 5 }) sL) (fun u => (u.port 4).held && !(u.port 4).up) = true ∧
     is (exec (.zlLinkTraining 4 t) sA) sA = true) ∧
    leads (exec (.zlFlit 4 .bulk false) sL) (fun u => decide (u.out = [.flitReplay 4]) && decide ((u.port 4).replay = 1)) = true ∧
    is (exec (.zlFlit 4 .bulk true) sL) sL.wakeUp = true ∧ is (exec (.zlFlit 4 .management true) sL) sL = true ∧
    leads (exec (.zlFlit 4 .bulk true) (sL.modPort 4 fun p => { p with retrying := true })) (fun u => decide (u.sys.ceCount = 1)) = true ∧
    is (exec (.zlFlit 11 .bulk true) sL) sL = true ∧ is (exec (.zlReplayFailure 11 [0]) sL) sL = true ∧
    leads (exec (.zlReplayFailure 4 []) sL) (fun u => (u.port 4).up) = true ∧
    leads (exec (.zlReplayFailure 4 [4]) sL) (fun u => decide ((u.port 4).lanes = 4)) = true ∧
    leads (exec (.zlReplayFailure 4 [4]) (sL.modPort 4 fun p => { p with bad := [0] })) (fun u =>
      decide ((u.port 4).lanes = 3) && u.isDegraded) = true ∧
    leads (exec (.zlReplayFailure 4 [4]) (sL.modPort 4 fun p => { p with bad := [0, 1] })) (fun u => !(u.port 4).up) = true := by
  decide +kernel

/-- Under a fabric key a port comes up with the peer's MAC and is held down with another, or with another rack's peer. -/
theorem wit_authenticated_port :
    let key : List Byte := List.replicate 16 0
    let s := { sL with sec := { fabricKey := some key } }
    let t : ZlTraining := { peer := 0, rack := 0, peerPort := 6, nonces := List.replicate 32 1, failedLanes := []
                            mac := aesCmac key (leBytes 2 0 ++ leBytes 2 2 ++ List.replicate 32 1) }
    s.rackNo = 0 ∧ leads (exec (.zlLinkTraining 4 t) s) (fun u => (u.port 4).up && (u.port 4).auth &&
      decide (u.out = [.training 4 2 0 (List.replicate 16 1) (aesCmac key (leBytes 2 2 ++ leBytes 2 0 ++ List.replicate 32 1))])) = true ∧
    leads (exec (.zlLinkTraining 4 { t with mac := [] }) s) (fun u => (u.port 4).held && decide ((u.port 4).lanes = 0)) = true ∧
    leads (exec (.zlLinkTraining 4 { t with rack := 1 }) s) (fun u => (u.port 4).held) = true := by decide +kernel

theorem wit_gc_sync :
    leads (exec (.gcSyncExchange 10 15 20 23) sL) (fun u => decide (u.fab.offset = 2)) = true ∧
    is (exec (.gcSyncExchange 10 15 20 23) sA) sA = true := by decide +kernel

/-- sL with the BARRIER started, and with the other member's cell. -/
def sC : State := sL.modRegion 0 fun r => { r with started := [0], colls := [{ ordinal := 0, desc := 0, gid := 5, length := 0 }] }
def sC1 : State := sL.modRegion 0 fun r => { r with
  started := [0], colls := [{ ordinal := 0, desc := 0, gid := 5, length := 0, drizzle := true, cells := [(0, 0, [])] }] }

theorem wit_CollectiveStarts :
    (sL.nextColl 0).isSome = true ∧ ((sL.nextColl 0).map fun x => sL.collMayStart 0 x) = some true ∧ sC.nextColl 0 = none ∧
    ((((sL.region 0).group? 5).map fun g => sL.needsDownPort g.d) = some false) ∧
    leads (exec (.collectiveStart 0 [0]) sL) (fun t => decide ((t.region 0).colls.length = 1)) = true ∧
    leads (exec (.collectiveStart 0 [1]) sL) (fun t => (t.region 0).faulted) = true ∧
    is (exec (.collectiveStart 0 []) sC) sC = true ∧
    (let w := sL.modRegion 0 fun r => { r with run := .waiting }
     ((w.nextColl 0).map fun x => w.collMayStart 0 x) = some false ∧ is (exec (.collectiveStart 0 []) w) w = true) := by
  decide +kernel

theorem wit_CollectiveTraffic :
    ((sC1.collHere 0 0).map fun x => x.2.complete x.1 && !x.1.done) = some true ∧
    leads (exec (.collectiveDone 0 0) sC1) (fun t => decide (((t.region 0).coll? 0).map (·.done) = some true) &&
      decide ((t.frame 0).counter 0 = 1)) = true ∧
    sC1.collHere 0 1 = none ∧ is (exec (.collectiveDone 0 1) sC1) (sC1.pump 0) = true ∧
    (let c : ChunkMsg := { gid := 5, rid := 0, ordinal := 0, attempt := 0, sender := 0, role := .result 0, bytes := [] }
     let tk : TokenMsg := { gid := 5, rid := 0, ordinal := 0, attempt := 0, sender := 0, chunk := 0, crc := 9, clean := true,
                            earliest := 0, latest := 0, latestMember := 0 }
     let r := sC.modRegion 0 fun r => r.modColl 0 fun y => { y with
       recv := [{ sender := 0, code := 0, role := .result 0, bytes := [], crc := 9 }] }
     (((sC.region 0).coll? 0).map fun x => (x.got c.sender c.role).isNone) = some true ∧
     leads (exec (.chunk 4 4 c) sC) (fun t => decide (t.out = []) &&
       decide (((t.region 0).coll? 0).map (·.transit) = some [(4, .chunk c)])) = true ∧
     leads (exec (.verifyToken 4 4 tk) sC) (fun t => decide (((t.region 0).coll? 0).map (·.transit) = some [(4, .token tk)])) = true ∧
     leads (exec (.chunk 4 4 { c with attempt := 1 }) sC) (fun t => decide (t = sC.wakeUp)) = true ∧
     leads (exec (.chunk 4 4 c) sL) (fun t => decide (t.out.length = (if (sL.hop (sL.waysOf 0 5) 4).isSome then 1 else 0))) = true ∧
     leads (exec (.chunk 4 2 { c with gid := 6 }) sC) (fun t => decide ((t.region 0).colls = (sC.region 0).colls)) = true ∧
     leads (exec (.chunk 4 2 { c with rid := 3 }) sC) (fun _ => true) = true ∧
     leads (exec (.chunk 4 2 c) sC) (fun t => decide (((t.region 0).coll? 0).map (·.recv.length) = some 1)) = true ∧
     leads (exec (.verifyToken 4 2 tk) r) (fun t =>
       decide (((t.region 0).coll? 0).map (fun x => x.recv.map (·.verdict)) = some [some true])) = true ∧
     leads (exec (.verifyToken 4 2 { tk with crc := 8 }) r) (fun t => decide (((t.region 0).coll? 0).map (·.attempt) = some 1)) = true ∧
     is (exec (.chunk 11 2 c) sC) sC = true ∧ is (exec (.verifyToken 11 2 tk) sC) sC = true) := by decide +kernel

/-- A cell of member 0 to this module, in the epoch of the step. -/
def cell0 : Cell := { gid := 5, rid := 0, attempt := 0, epoch := 0, sender := 0, len := 0, ordinal := 0,
                      gcrc := ({ w0 := 0x8005, w1 := 0x800000 } : Group).crc, payload := [] }

theorem wit_cell_group : ((sC.region 0).group? 5) = some ({ w0 := 0x8005, w1 := 0x800000 } : Group) ∧
    cell0.gcrc = ({ w0 := 0x8005, w1 := 0x800000 } : Group).crc := ⟨rfl, rfl⟩

theorem wit_Cells :
    cell0.ordinal ∈ (sC.region 0).started ∧ ((sC.region 0).coll? 0).map (fun x => (x.gid, x.attempt)) = some (5, 0) ∧
    cell0.epoch = (sC.region 0).stepNo.setWidth 16 ∧
    ([.dataCell 4 4 cell0, .requestCell 4 4 cell0, .grant 4 4 cell0, .rerun 4 4 cell0, .haltCell 4 4 cell0, .ready 4 4 cell0,
      .notice 4 4 cell0] : List Instr).all (fun c => leads (exec c sC) fun t => decide (t.out.length = 1)) = true ∧
    leads (exec (.ready 4 2 cell0) sC) (fun t => decide ((t.region 0).readies = [(0, 0)])) = true ∧
    leads (exec (.notice 4 2 cell0) sC) (fun t => decide ((t.region 0).peerNotes.length = 1)) = true ∧
    (∀ k : Fin 2, leads (exec (if k = 0 then .dataCell 4 2 cell0 else .requestCell 4 2 cell0) sL)
      (fun t => decide ((t.region 0).heldCells.length = 1)) = true) ∧
    leads (exec (.rerun 4 2 cell0) sL) (fun t => decide ((t.region 0).heldCells.length = 1)) = true ∧
    is (exec (.grant 4 2 cell0) sL) sL.wakeUp = true ∧
    cellOlder { cell0 with epoch := 0xFFFF } (sL.region 0).epoch = true ∧
    is (exec (.haltCell 4 2 { cell0 with epoch := 0xFFFF }) sL) sL.wakeUp = true ∧
    cellOlder { cell0 with epoch := 1 } (sL.region 0).epoch = false ∧
    leads (exec (.haltCell 4 2 { cell0 with epoch := 1 }) sL) (fun t => (t.region 0).faulted) = true ∧
    leads (exec (.haltCell 4 2 cell0) sL) (fun t => (t.region 0).faulted) = true ∧
    sL.hop (sL.waysOf 0 5) 0x80 = none ∧ is (exec (.dataCell 4 0x80 cell0) sC) sC.wakeUp = true ∧
    (let h := sC.modRegion 0 fun r => r.modGroup 5 fun g => { g with halted := true }
     ([.dataCell 4 2 cell0, .requestCell 4 2 cell0, .grant 4 2 cell0, .rerun 4 2 cell0] : List Instr).all
       (fun c => is (exec c h) h.wakeUp) = true) := by decide +kernel

/-- Cells of the collective in course: a REQUEST that needs no staging is granted at once, a GRANT and a contribution are kept. -/
theorem wit_cells_in_course :
    let open0 := sC1.modRegion 0 fun r => r.modColl 0 fun y => { y with cells := [] }
    (((sC1.region 0).coll? 0).map (·.drizzle)) = some true ∧ sC.isNeighbour 0x80 = false ∧
    leads (exec (.requestCell 4 2 cell0) sC1) (fun t => decide (((t.region 0).coll? 0).map (·.asked) = some [(0, 0)]) &&
      decide (t.out.length = 1)) = true ∧
    leads (exec (.requestCell 4 2 { cell0 with sender := 0x80 }) sC) (fun t =>
      decide (((t.region 0).coll? 0).map (·.asked) = some [(0x80, 0)])) = true ∧
    leads (exec (.grant 4 2 cell0) sC) (fun t => decide (((t.region 0).coll? 0).map (·.granted) = some [0])) = true ∧
    is (exec (.rerun 4 2 cell0) sC) sC.wakeUp = true ∧
    leads (exec (.dataCell 4 2 cell0) open0) (fun t => decide (((t.region 0).coll? 0).map (·.cells) = some [(0, 0, [])])) = true := by
  decide +kernel

/-- A RERUN of a higher attempt begins it: what was granted is dropped and the region counts a rerun (R389, R390). A halted group holds
the cell of a collective of the step to come (R387). -/
theorem wit_rerun :
    let s := sC.modRegion 0 fun r => r.modColl 0 fun y => { y with granted := [0], attempt := 1 }
    leads (exec (.rerun 4 2 { cell0 with attempt := 2 }) s) (fun t => decide ((t.region 0).reruns = 1) &&
      decide (((t.region 0).coll? 0).map (fun y => (y.attempt, y.granted)) = some (2, []))) = true ∧
    leads (exec (.dataCell 4 2 { cell0 with ordinal := 9 }) (sC.modRegion 0 fun r => r.modGroup 5 fun g => { g with halted := true }))
      (fun t => decide ((t.region 0).heldCells.length = 1)) = true := by decide +kernel

/-- A cell's 64 bytes (Table 12-7): GID, RID, KIND in word 0, the payload from byte 16. -/
theorem test_cell_bytes : (cellBytes kindData { cell0 with payload := [7] }).length = 64 ∧
    (cellBytes kindData { cell0 with payload := [7] }).getD 16 0 = 7 ∧ cellBytes kindData cell0 ≠ cellBytes kindGrant cell0 := by
  decide +kernel

/-- ALLREDUCE order of 11 members on a ring: the descending and the ascending piece of the spec's example (R378). -/
theorem test_ring_piece : ringPiece 0 16 4 = (true, 0) ∧ ringPiece 8 16 4 = (false, 0) ∧ ringPiece 15 16 4 = (false, 3) := by
  decide +kernel

/-! ## Handoff -/

/-- Port 0 paired (4 transport retries, 2 not-ready retries, pause on, CKN 7), keyed and connected; layout 0; request 5 in
prefill with one position of layer 0 of 16 present, whose range of layer 1 waits for its acknowledgement. -/
def sH : State := { sA with
  ho := { pairing := some [0x3818A07, 0, 0, 0], port0 := { conn := .connected, sak := some ([], []) }, up := true,
          layouts := [(0, [0x10000000, 0x1000000, 1, 0x10000, 0x10000000 + 4, 0, 0, 0])] }
  regions := [(0, { whole with geom0 := some { ppos := 16, nl := 2, kvh := 1, hpass := 1, kvfmt := 4 } })]
  reqs := [(5, { state := .prompt, handoff := true, promptLen := 1, seqlen := 1, tokenSent := true
                 hoOut := [{ layer := 1, lo := 0, hi := 1, port := 0 }] })]
  sec := { cak := some (7, []) } }

/-- sH with another connection state of port 0. -/
def sHc (c : Conn) (up : Bool) : State := { sH with ho := { sH.ho with port0 := { sH.ho.port0 with conn := c }, up := up } }

theorem wit_HandoffPorts :
    (let w0 := wordAt (sH.ho.pairing.getD []) 0
     fld w0 9 7 = 4 ∧ fld w0 12 10 = 2 ∧ fld w0 38 23 = 7 ∧ bitAt w0 16 = true) ∧ sH.portEnabled 0 = true ∧
    leads (exec (.handoffFrameDiscard 0) sH) (fun t => decide ((t.hoPort 0).discards = 1)) = true ∧
    leads (exec (.roceNak 1 true) sH) (fun t => decide ((t.hoPort 1).discards = 1)) = true ∧
    leads (exec (.communicationManagement 0 .accepted) (sHc .connecting true)) (fun t => decide ((t.hoPort 0).conn = .connected)) = true ∧
    leads (exec (.communicationManagement 0 .rejected) (sHc .connecting true)) (fun t => decide ((t.hoPort 0).conn = .error)) = true ∧
    leads (exec (.communicationManagement 0 .disconnect) sH) (fun t => decide ((t.hoPort 0).conn = .error)) = true ∧
    leads (exec (.roceNak 0 false) sH) (fun t => decide ((t.hoPort 0).retries = 1)) = true ∧
    leads (exec (.roceNak 0 true) sH) (fun t => decide ((t.hoPort 0).rnr = 1)) = true ∧
    (let worn := sH.modHoPort 0 fun p => { p with retries := 4, rnr := 2 }
     leads (exec (.roceNak 0 false) worn) (fun t => decide ((t.hoPort 0).conn = .error)) = true ∧
     leads (exec (.roceNak 0 true) worn) (fun t => decide ((t.hoPort 0).conn = .error)) = true ∧
     leads (exec (.transportTimeout 0) worn) (fun t => decide ((t.hoPort 0).conn = .error)) = true) ∧
    leads (exec (.transportTimeout 0) sH) (fun t => decide ((t.hoPort 0).retries = 1)) = true ∧
    leads (exec .partnerReconnect (sHc .error false)) (fun t => decide ((t.hoPort 0).conn = .connecting)) = true ∧
    is (exec .partnerReconnect sH) sH = true ∧ is (exec (.eapolMka 0 []) sA) sA = true ∧
    leads (exec (.priorityFlowControl 0 true) sH) (fun t => (t.hoPort 0).paused) = true ∧
    is (exec (.priorityFlowControl 0 true) sA) sA = true ∧
    (let k := { sH with ho := { sH.ho with port0 := { conn := .connected } } }
     (k.hoPort 0).keyed = false ∧ leads (exec (.roceNak 0 true) k) (fun t => decide ((t.hoPort 0).discards = 1)) = true) ∧
    leads (exec (.handoffLaneLoss 0 7) sH) (fun t => !(t.hoPort 0).linkUp && decide ((t.hoPort 0).conn = .error)) = true := by
  decide +kernel

/-- A page-table header of 16 positions from 0. -/
def hd16 : Header := { diraddr := 0, dirblk := 1, sbase0 := 0, count0 := 16, sbase1 := 0, count1 := 0, plen := 1, variant := 0 }

/-- Which frames distribute a SAK rests on the part's key agreement (log 13); one that does keys port 0. -/
theorem wit_mka (frame : List Byte) (sak : List Byte × List Byte) (h : mkaSak 7 [] frame = some sak) :
    ∃ t, exec (.eapolMka 0 frame) (sHc .connecting false) = .next t ∧ (t.hoPort 0).sak = some sak := by
  have h7 : (sHc .connecting false).sec.cak = some (7, []) := rfl
  have hp : (sHc .connecting false).ho.pairing.isSome = true ∧
      fld ((sHc .connecting false).pairWord 0) 38 23 = (7 : BitVec 16).toNat := by decide +kernel
  have hr : (sHc .connecting false).isReady = true := by decide +kernel
  refine ⟨_, rfl, ?_⟩
  simp only [hr, h7, hp, h]
  rfl

theorem wit_HandoffRequests :
    sH.mayWrite 5 = true ∧ (sH.layout? 0).isSome = true ∧ sH.layerPort 0 0 = some 0 ∧ sH.portOpen 0 = true ∧
    is (exec (.layerBatchSend 5 0) sH) sH = true ∧ is (exec (.layerBatchSend 6 0) sH) sH = true ∧
    (let s := (sH.buildTable 0 5 0 0 [1] [] [0x10000000] hd16).modRegion 0 fun r => { r with kvMarks := [(5, 0, 0, 0), (5, 0, 0, 1)] }
     leads (exec (.layerBatchSend 5 0) s) (fun t => decide ((t.req 5).hoOut.length = 2) && !t.out.isEmpty) = true) ∧
    leads (exec (.roceAck 0 (.layer 5 1)) sH) (fun t => decide ((t.req 5).hoAck.length = 1)) = true ∧
    leads (exec (.roceAck 0 (.token 5)) sH) (fun t => (t.req 5).tokenAcked) = true ∧
    leads (exec (.roceAck 0 (.revoke 5)) (sH.modHoPort 0 fun p => { p with retries := 3 })) (fun t => decide ((t.hoPort 0).retries = 0)) = true ∧
    is (exec (.roceAck 0 (.token 5)) (sHc .error true)) (sHc .error true) = true := by decide +kernel

/-! ## Registers, queues, doorbells -/

theorem wit_OtherAccesses :
    (∀ t : BarAccess, t = { offset := 2, bytes := 4 } → ¬((t.bytes = 4 ∨ t.bytes = 8) ∧ t.offset.toNat % t.bytes = 0)) ∧
    leads (exec (.misalignedRegisterRead { offset := 2, bytes := 4 }) sA) (fun t => decide (.readReply 0 ∈ t.out)) = true ∧
    leads (exec (.registerWrite { offset := 4, bytes := 2 } 0) sA) (fun t => decide (t.out.length = sA.badAccess.out.length)) = true ∧
    leads (exec (.rcRead { offset := 0xFFFFFC, bytes := 4 }) sA) (fun t => decide (t.out.length = 1)) = true := by
  refine ⟨?_, by decide +kernel, by decide +kernel, by decide +kernel⟩
  rintro t rfl; decide

/-- sA in D3hot. -/
def sCold : State := { sA with hif := { sA.hif with d3hot := true } }

theorem wit_RegisterPairs :
    regAt 0x400100 = some .errbLo ∧ Reg.errbLo.hi? = some .errbHi ∧ regAt 0x400104 = some .errbHi ∧ pairWritable sA .errbLo = true ∧
    leads (exec (.registerWrite { offset := 0x400104, bytes := 4 } 1) sA) (fun t => decide (t.hif.err.base = 0) &&
      leads (exec (.registerWrite { offset := 0x400100, bytes := 4 } 0xFFF) t) fun u => decide (u.hif.err.base = 0x100000000)) = true := by
  decide +kernel

theorem wit_RegisterAccess :
    leads (exec (.rcRead { offset := 0x10, bytes := 4 }) { sA with sys := { ceCount := 3 } })
      (fun t => decide (t.out = [.readReply 3]) && decide (t.sys.ceCount = 0)) = true ∧
    leads (exec (.rcRead { offset := 0x6001B8, bytes := 4 }) { sA with fab := { ports := [(11, { replay := 9 })] } })
      (fun t => decide (t.out = [.readReply 9]) && decide ((t.port 11).replay = 0)) = true ∧
    regAt 0x14 = none := by decide +kernel

theorem wit_access_codes :
    leads (exec (.pairLoRead { offset := 0x18, bytes := 8 }) { sA with gc := 0x123456789 }) (fun t =>
      decide (t.out = [.readReply 0x123456789])) = true ∧
    regAt 0xFFFFFC = none ∧ sA.hostUp = true ∧ { sA with sys := { perst := true } }.hostUp = false ∧
    leads (exec (.registerWrite { offset := 0x500400, bytes := 4 } 0x12345) sA) (fun t => decide (t.mc.lostsel = 0x2345)) = true ∧
    leads (exec (.pwrLimit 600) sA) (fun t => decide (t.pwr.limit = 600)) = true ∧
    leads (exec (.pwrLimit 1650) sA) (fun t => decide (t.pwr.limit = 1650)) = true ∧
    leads (exec (.pwrLimit 599) sA) (fun t => decide (t.pwr.limit = 1650)) = true ∧
    leads (exec (.sysReset 0x52535421) { sA with gc := 5 }) (fun t => decide (t.gc = 5) && decide (t.regions = [])) = true ∧
    leads (exec (.sysReset 0) sA) (fun t => decide (t.regions = sA.regions)) = true ∧
    leads (exec (.pwrCtl 0x140002) sA) (fun t => decide (t.pwr.deepest = 2) && decide (t.pwr.wmax = 1) && t.pwr.capsDue) = true ∧
    leads (exec (.pwrCtl 3) sA) (fun t => decide (t.pwr.deepest = sA.pwr.deepest)) = true ∧ sA.ownerGate = true := by decide +kernel

/-- sA in Lull, entered with 3 transient faults counted; 5 are counted by now. -/
def sLull : State :=
  let v := { sA with sys := { ceCount := 3 } }
  { v with sys := { ceCount := 5, mapgen := 8 }, pwr := { lull := true }, atLull := some v.view }

theorem wit_reads_in_Lull :
    sLull.isReady = true ∧ sLull.hif.d3hot = false ∧
    leads (exec (.rcRead { offset := 0x10, bytes := 4 }) sLull) (fun t => decide (t.out = [.readReply 3]) && decide (t.sys.ceCount = 2) &&
      leads (exec (.rcRead { offset := 0x10, bytes := 4 }) t) fun u => decide (u.out = [.readReply 3, .readReply 0]) &&
        decide (u.sys.ceCount = 2)) = true ∧
    leads (exec (.rcRead { offset := 0x2C, bytes := 4 }) sLull) (fun t => decide (t.out = [.readReply 2])) = true ∧
    leads (exec (.rcRead { offset := 0x2C, bytes := 4 }) sLull.wakeUp) (fun t => decide (t.out = [.readReply 8])) = true := by
  decide +kernel

theorem wit_LockRegister :
    leads (exec (.fabCoord 0x03C2D985) sA) (fun t => decide (t.fab.coord = 0x03C2D985) && t.fab.coordSet) = true ∧
    leads (exec (.fabCoord 0) sL) (fun t => decide (t.fab = sL.fab)) = true ∧
    leads (exec (.fabCoord 0) { sA with nv := { ownerKey := some [] } }) (fun t => !t.fab.coordSet) = true ∧
    leads (exec (.fabCoord 0) { sL with nv := { ownerKey := some [] } }) (fun t => decide (t.fab.coord = sL.fab.coord)) = true ∧
    { sL with nv := { ownerKey := some [] } }.ownerGate = false ∧ { sL with nv := { ownerKey := some [] } }.isReady = true ∧
    sL.fab.coordSet = true ∧ { sA with nv := { ownerKey := some [] } }.ownerGate = false := by decide +kernel

/-- Queue 0 enabled with rings of the smallest size, and queue 1 bound to the tenant of region 2. -/
def sQ : State := { sA with hif := { queues := [(0, { role := .owner, domhi := 0xFFFF, en := true, sqsz := 0, cqsz := 0 }),
  (1, { role := .tenant, brid := 2 })] } }

/-- BAR2, D3hot, what lies beyond BAR0, and the configuration space (R421, R423, R426). -/
theorem wit_other_windows :
    leads (exec (.rcRead { bar2 := true, offset := 8, bytes := 8 }) sQ) (fun t => decide (t.out = [.readReply 0])) = true ∧
    leads (exec (.registerWrite { bar2 := true, offset := 0, bytes := 4 } 15) sQ) (fun t => decide ((t.queue 0).tail = 15)) = true ∧
    leads (exec (.rcRead { offset := 0x1000000, bytes := 4 }) sA) (fun t => decide (t.out = [.unsupported 0x1000000])) = true ∧
    leads (exec (.registerWrite { offset := 0, bytes := 4 } 0) sCold) (fun t => decide (t.out = [.unsupported 0])) = true ∧
    leads (exec (.rcRead { offset := 0x18, bytes := 8 }) sCold) (fun t => decide (t.out = [.unsupported 0x18])) = true ∧
    sA.hostUp = true ∧ sA.hif.d3hot = false ∧
    leads (exec (.configurationRequest (.read 12)) sA) (fun t => decide (t.out = [.configReply 0])) = true ∧
    leads (exec (.configurationRequest (.write 4 0xFFFFFFFF)) sA) (fun t => decide (t.configValue 4 = 0xFF000004)) = true ∧
    leads (exec (.configurationRequest (.power true)) sA) (fun t => t.hif.d3hot) = true ∧
    leads (exec (.configurationRequest (.read 2)) { sA with sys := { stage := 2 } }) (fun t => decide (t.out = [.configRetry])) = true := by
  decide +kernel

/-- MSI-X: nothing while it is off; a masked vector pends, and goes out with its entry's data once it is unmasked (R440, R500). -/
theorem wit_msix :
    let s := { sQ with hif := { sQ.hif with msixOn := true } }
    let open0 := (s.writeMsix 3 0).writeMsix 2 0xAB
    sQ.sendVector 0 = sQ ∧ (s.sendVector 0).hif.msixPending = [0] ∧ (s.sendVector 0).out = [] ∧
    (open0.sendVector 0).out = [.msix 0 0 0xAB] ∧ ((s.sendVector 0).writeMsix 3 0).out = [.msix 0 0 0] ∧
    leads (exec (.configurationRequest (.msixControl true true)) sQ) (fun t => t.hif.msixOn && t.hif.msixMask) = true := by decide +kernel

theorem wit_QueuesAndDoorbells :
    leads (exec (.queueEnable 1 0x200000) sQ) (fun t => (t.queue 1).en) = true ∧
    leads (exec (.queueEnable 1 0x100000) sQ) (fun t => !(t.queue 1).en) = true ∧
    leads (exec (.queueEnable 1 0x100000) { sQ with hif := { sQ.hif with err := { en := true } } }) (fun t => decide (t.out.length = 2)) = true ∧
    (let s := { sQ with sys := { stage := 2 } }
     s.hostUp = true ∧ is (exec (.sqtail 0 { offset := 0, bytes := 4, value := 15 }) s) s.badAccess = true) ∧
    leads (exec (.queueEnable 1 0x20000C) sQ) (fun t => decide ((t.queue 1).sqsz = 12)) = true ∧
    leads (exec (.queueEnable 1 0x20000D) sQ) (fun t => !(t.queue 1).en) = true ∧
    leads (exec (.queueDisable 0 0) sQ) (fun t => !(t.queue 0).en) = true ∧
    leads (exec (.queueDisable 0 0) (sQ.modQueue 0 fun x => { x with unfinished := 1 })) (fun t => (t.queue 0).en) = true ∧
    (sQ.queue 0).sqSize = 16 ∧
    leads (exec (.sqtail 0 { offset := 0, bytes := 4, value := 15 }) sQ) (fun t => decide ((t.queue 0).tail = 15)) = true ∧
    leads (exec (.sqtail 0 { offset := 0, bytes := 4, value := 16 }) sQ) (fun t => decide ((t.queue 0).tail = (sQ.queue 0).tail)) = true ∧
    leads (exec (.cqhead 0 { offset := 4, bytes := 4, value := 2 }) (sQ.modQueue 0 fun x => { x with cqtail := 3, used := 3 }))
      (fun t => decide ((t.queue 0).used = 1)) = true ∧
    leads (exec (.cqhead 0 { offset := 4, bytes := 4, value := 15 }) sQ) (fun t => decide ((t.queue 0).used = 0)) = true ∧
    leads (exec (.dighead 0 { offset := 8, bytes := 4, value := 0 }) sQ) (fun _ => true) = true ∧
    leads (exec (.errhead 0 { offset := 12, bytes := 4, value := 1 }) { sQ with hif := { sQ.hif with err := { en := true, tail := 1, used := 1 } } })
      (fun t => decide (t.hif.err.used = 0)) = true ∧
    is (exec (.errhead 1 { offset := 12, bytes := 4, value := 0 }) sQ) sQ.wakeUp = true ∧
    leads (exec (.sqtail 0 { offset := 0, bytes := 8, value := 1 }) sQ) (fun t => decide ((t.queue 0).tail = (sQ.queue 0).tail)) = true := by decide +kernel

/-- Writes to an enabled queue's registers, ERRHEAD beyond the ring, and 64-bit accesses (R424, R426, R501). -/
theorem wit_enabled_queue_and_wide_accesses :
    let s := { sQ with hif := { sQ.hif with err := { en := true } } }
    let x := s.queue 0
    x.en = true ∧ (x.configured (0x80000000 ||| 0x80000)).cfgWord ≠ x.cfgWord ∧
    leads (exec (.queueEnable 0 0x80000) s) (fun t => decide (t.queue 0 = x) && decide (t.hif.err.used = 1)) = true ∧
    leads (exec (.queueDisable 0 0x80000) s) (fun t => decide (t.queue 0 = { x with en := false }) && decide (t.hif.err.used = 1)) = true ∧
    leads (exec (.registerWrite { offset := 0x410000, bytes := 8 } 0x123456000) s) (fun t => decide (t.queue 0 = x) &&
      decide (t.hif.err.used = 1)) = true ∧
    leads (exec (.registerWrite { offset := 0x410014, bytes := 4 } 1) s) (fun t => decide (t.queue 0 = x) && decide (t.hif.err.used = 1)) = true ∧
    is (exec (.errhead 0 { offset := 12, bytes := 4, value := 64 }) s) (s.wakeUp.badDoorbell 0) = true ∧ ringSize s.hif.err.sz = 64 ∧
    leads (exec (.registerWrite { offset := 0x400100, bytes := 8 } 0x123456789) sA) (fun t => decide (t.hif.err.base = 0x123456000)) = true ∧
    leads (exec (.registerWrite { offset := 0x600010, bytes := 8 } 0x700000005) sA) (fun t => decide (t.fab.statsel = 5)) = true ∧
    leads (exec (.rcRead { offset := 0x10, bytes := 8 }) { sA with sys := { ceCount := 3 } }) (fun t =>
      decide (t.out = [.readReply 3]) && decide (t.sys.ceCount = 0)) = true ∧
    regAt 0x600010 = some .statSel ∧ Reg.statSel.hi? = none := by decide +kernel

/-! ## Ring entries -/

/-- The STATUS fields of the completion entries that a command posts. -/
def statuses (o : Host.Outcome State Fault Refusal) : List Nat :=
  match o with
  | .next t => t.out.filterMap fun x => match x with | .hostWrite true _ bs => some (leNat bs / 256 % 256) | _ => none
  | _ => [999]

/-- Region 0 waits for its boundary; nobody owns the module; one entry of queue 0 is due. -/
def sR : State := (sQ.modQueue 0 fun x => { x with tail := 1 }).modRegion 0 fun r => { r with run := .waiting }

/-- sR with an owner and no session: the owner gate is closed. -/
def sR1 : State := { sR with nv := { ownerKey := some [] } }

/-- sR with queue 0 a TENANT of region 0. -/
def sR2 : State := sR.modQueue 0 fun x => { x with role := .tenant }

/-- sR with region 0 sealed. -/
def sR3 : State := sR.modRegion 0 fun r => { r with sealed := true }

theorem wit_RingEntries :
    sR.mayFetch 0 = true ∧ (sR.queue 0).role = .owner ∧ opcAssigned 0x16 = true ∧ opcAssigned 0x02 = false ∧
    (ringRows sR 0 [] none true).length = 32 ∧
    (ringRows sR 0 [2] none true).all (fun x => decide (statuses (exec x.2 sR) = [0x2B])) = true ∧
    (let s := sR.modQueue 0 fun x => { x with role := .unbound }
     (ringRows s 0 [2] none true).all (fun x => decide (statuses (exec x.2 s) = [0x73])) = true) ∧
    is (exec (.svnCommit 1 [0x16]) sR) sR = true ∧ is (exec (.svnCommit 0 [0x16]) sQ) sQ = true ∧
    is (exec (.svnCommit 0 [0x16]) (sR.modQueue 0 fun x => { x with used := 16 })) (sR.modQueue 0 fun x => { x with used := 16 }) = true ∧
    statuses (exec (.svnCommit 0 [0x116]) sR) = [0x2B] := by decide +kernel

theorem test_other_opcode : exec (.svnCommit 0 [0x17]) sR = .refused .otherRow := by rfl

theorem wit_DeniedCommands :
    (ownerRows 0 [1] none true).all (fun c => decide (statuses (exec c.2 sR) = [999])) = true ∧
    statuses (exec (.svnCommit 0 [0x16]) sR1) = [0x70] ∧ statuses (exec (.svnCommit 0 [0x16]) sR2) = [0x73] ∧
    statuses (exec (.ownEnroll 0 [0x10]) sR2) = [0x73] ∧ statuses (exec (.silborToken 0 [0x18] none) sR2) = [0x73] ∧
    statuses (exec (.kvGeometry 0 [0x40]) sR2) = [0x73] ∧ statuses (exec (.kvGeometry 0 [0x40]) sR3) = [0x75] ∧
    statuses (exec (.stepHold 0 [0x35, 3]) sR2) = [0x73] := by decide +kernel

/-- A sealed region whose creation still waits is not there for COPY_IN, and is denied to the owner's KV_GEOMETRY (R525). -/
theorem wit_sealed_to_come :
    let c : BCmd := { queue := 0, hosttag := 0, cmd := .regionCreate 0 [0x12, 0x401] (some []) }
    let s := { sR with regions := [(1, { bcmds := [c] })] }
    (s.region 1).live = false ∧ s.sealedRegion 1 true = false ∧ s.sealedRegion 1 false = true ∧ s.expected 1 = true := by decide +kernel

/-- A set-up of eight classes that are not guaranteed, with a step of 10 µs. -/
def setup0 : Entry := [0x30, 0x27100, 0x20000, 0, 0x20000, 0, 0x20000, 0, 0x20000, 0, 0x20000, 0, 0x20000, 0, 0x20000, 0, 0x20000, 0]

theorem wit_BoundaryCommands :
    (waitingRows sR 0 [] none).length = 13 ∧
    ([.imageLoad 0 [0x22] (some []), .serveSetup 0 setup0, .stepHold 0 [0x35, 0], .digestTrace 0 [0x36, 0], .kvGeometry 0 [0x40],
      .poolAdd 0 [0x41, 0, 4096, 1], .poolRemove 0 [0x42, 0, 4096, 1], .variantLoad 0 [0x43, 1] (some []), .variantUnload 0 [0x44, 1],
      .prefixFlush 0 [0x45], .handleRelease 0 [0x46, 1], .regionRemove 0 [0x13], .groupClear 0 [0x61], .groupSet 0 [0x60],
      .regionCreate 0 [0x12] none] : List Instr).all
      (fun c => leads (exec c sR) fun t => decide ((t.region 0).bcmds.length = 1)) = true ∧
    statuses (exec (.stepHold 0 [0x35, 4]) sR) = [0x42] ∧ statuses (exec (.stepHold 0 [0x35, 3]) sR) = [0x5A] ∧
    leads (exec (.handleRelease 0 [0x46, 0]) sR) (fun t => decide ((t.region 0).bcmds.length = 1)) = true ∧ statuses (exec (.regionRemove 0 [0x13, 4]) sR) = [0x2B] ∧
    statuses (exec (.groupSet 0 [0x60, 0x8000]) sR3) = [0x75] ∧
    statuses (exec (.cancel 0 [0x31, 32767]) sR) = [0x40] ∧
    leads (exec (.cancel 0 [0x31, 5]) { sR with reqs := [(5, { state := .queued })] }) (fun t => decide ((t.region 0).bcmds.length = 1)) = true := by
  decide +kernel

/-- One command applied at order 3 of a boundary of region 0. -/
def applied (s : State) (e : Entry) (c : Instr) : Host.Outcome State Fault Refusal :=
  .next (applyCmds 0 s [{ queue := 0, hosttag := hostTag e, cmd := c }])

theorem wit_CommandsApplied :
    (sR.region 0).live = true ∧ (sR.region 0).removing = false ∧
    statuses (applied sR setup0 (.serveSetup 0 setup0)) = [0x43] ∧
    leads (applied (sR.modRegion 0 fun r => { r with image := some imgNovary }) setup0 (.serveSetup 0 setup0))
      (fun t => decide ((t.region 0).setup.map (·.stepMax) = some 10000)) = true ∧
    leads (applied { sR with gc := 5 } [] (.stepHold 0 [0x35, 0, 6])) (fun t => decide ((t.region 0).hold = some 6)) = true ∧
    leads (applied { sR with gc := 5 } [] (.stepHold 0 [0x35, 0, 5])) (fun t => decide ((t.region 0).hold = none)) = true ∧
    leads (applied sR [] (.digestTrace 0 [0x36, 0, 4095, 1])) (fun t => decide ((t.region 0).traceNext = some (4095, 1))) = true ∧
    leads (applied sR [] (.digestTrace 0 [0x36, 0, 1])) (fun t => decide ((t.region 0).traceNext = none)) = true ∧
    statuses (applied sR [] (.poolAdd 0 [0x41])) = [0x46] ∧ statuses (applied sR [] (.poolRemove 0 [0x42])) = [0x46] ∧
    statuses (applied sR [] (.handleRelease 0 [0x46, 1])) = [0x4A] ∧
    statuses (applied sR [] (.handleRelease 0 [0x46, 0])) = [0x4A] ∧ statuses (applied sR [] (.variantUnload 0 [0x44, 1])) = [0x26] ∧
    statuses (applied sR [] (.variantLoad 0 [0x43, 1] (some []))) = [0x48] ∧ statuses (applied sR [] (.groupClear 0 [0x61])) = [0] ∧
    (let w : W64 := 0x884AFC
     badGeom w = false ∧ sR.geomBusy 0 (fld w 0 0) = false ∧
     leads (applied sR [] (.kvGeometry 0 [0x40, w])) (fun t => (t.region 0).geom0.isSome) = true ∧
     statuses (applied sR [] (.kvGeometry 0 [0x40, 0x1F00000])) = [0x44]) ∧
    statuses (applied { sR with reqs := [(5, { state := .queued, hosttag := 9 })] } [] (.cancel 0 [0x31, 5, 9])) = [8, 0] ∧
    statuses (applied { sR with reqs := [(5, { state := .queued, hosttag := 9 })] } [] (.cancel 0 [0x31, 5, 8])) = [0x40] := by decide +kernel

theorem wit_pool_and_groups :
    (let s := sR.modRegion 0 fun r => { r with geom0 := some { ppos := 16, nl := 2, kvh := 1, hpass := 1, kvfmt := 4 } }
     s.pageInside 0 0x10000000 (2 * 4096) = true ∧
     leads (applied s [] (.poolAdd 0 [0x41, 0, 0x10000000, 1])) (fun t => decide ((t.region 0).pool0.map (·.st) = [.scrubbing])) = true) ∧
    (let s := sR.bindHandle 0 1 4
     (s.handleNode 0 1) = some 4 ∧ statuses (applied s [] (.handleRelease 0 [0x46, 1])) = [0]) ∧
    (let s := { sR with fab := sL.fab }
     s.badGroup 0x8005 0x800000 = false ∧ s.outsideGroup (groupFields 0x8005 0x800000) = false ∧
     (s.region 0).lacksPorts (groupFields 0x8005 0x800000) = false ∧ s.needsDownPort (groupFields 0x8005 0x800000) = false ∧
     (let d := { s with fab := { s.fab with ports := (List.range 12).map fun k => (k, { bad := [0, 1, 2] }) } }
      d.needsDownPort (groupFields 0x8005 0x800000) = true ∧ statuses (applied d [] (.groupSet 0 [0x60, 0x8005, 0x800000])) = [0x53]) ∧
     leads (applied s [] (.groupSet 0 [0x60, 0x8005, 0x800000])) (fun t => ((t.region 0).group? 5).isSome) = true ∧
     statuses (applied (s.modRegion 0 fun r => { r with sealed := true }) [] (.groupSet 0 [0x60, 0x8005, 0x800000])) = [0x75] ∧
     statuses (applied (s.modRegion 0 fun r => { r with sealed := true }) [] (.groupSet 0 [0x60, 0x4005])) = [0] ∧
     s.badGroup 0x200000 0 = true ∧ statuses (applied s [] (.groupSet 0 [0x60, 0x200000])) = [0x51]) := by decide +kernel

/-- The little-endian bytes of words. -/
def bytesOf (ws : List W64) : List Byte := ws.flatMap fun w => leBytes 8 w.toNat

/-- An image for the region of sR: a sampler descriptor at 192, 64 entries at 320, one word of code at 576. -/
def image0 (frames code : W64) : List Byte :=
  bytesOf ([0x132504601, 2 * frames, 576, code, 0, 0, 0, 0, 0, 0, 192, 128, 320, 256, 1048576, 1327104, 0, 0] ++
    List.replicate 6 0 ++ [0x20000, 0x10000000, 0x10001000, 0x200] ++ List.replicate 44 0 ++ [0x1234])

theorem wit_image_load :
    let e : Entry := [0x22, 0, 1048576 + 1327104]
    (∀ x ∈ sR.reqs, x.2.region ≠ 0 ∨ x.2.state = .free) ∧ badImage (image0 384 8) (fld (wordAt e 2) 31 0) ((sR.region 0).cols sR.nv) = false ∧
    sR.imageStatus 0 (image0 384 8) (fld (wordAt e 2) 31 0) = 0 ∧
    storeWords (imageOf (image0 384 8) 24).code = [(0, 0x1234)] ∧
    statuses (applied sR e (.imageLoad 0 e (some (image0 352 8)))) = [0x60] ∧
    statuses (applied sR e (.imageLoad 0 e (some (image0 384 0x20008)))) = [0x61] ∧
    statuses (applied sR e (.imageLoad 0 e (some []))) = [0x66] ∧
    statuses (applied { sR with reqs := [(5, { state := .lead })] } e (.imageLoad 0 e none)) = [0x2B] ∧
    statuses (applied { sR with reqs := [(5, { state := .lead })] } e (.imageLoad 0 e (some []))) = [0x67] := by decide +kernel

theorem wit_regions :
    let w : W64 := 0x556028C
    let e : Entry := [0x12, w]
    let none_ := { sR with regions := [] }
    badShape w = false ∧ none_.regionRefusal w = none ∧ fld w 1 0 = 0 ∧
    leads (applied none_ e (.regionCreate 0 e none)) (fun t => (t.region 0).live && decide (t.mem = [])) = true ∧
    statuses (applied none_ [0x12, 0] (.regionCreate 0 [0x12, 0] none)) = [0x56] ∧
    statuses (applied (none_.modRegion 1 fun _ => whole) e (.regionCreate 0 e none)) = [0x57] ∧
    statuses (applied { none_ with mc := { t1 := [(0, { state := 3 })] } } e (.regionCreate 0 e none)) = [0x58] ∧
    statuses (applied { none_ with sec := { debug := true } } [0x12, w + 0x400] (.regionCreate 0 [0x12, w + 0x400] none)) = [0x75] ∧
    statuses (applied none_ [0x35] (.stepHold 0 [0x35])) = [0x5A] ∧
    leads (applied { sR with mem := [(5, 1), (0x10000000, 2)] } [] (.regionRemove 0 [0x13])) (fun t => !(t.region 0).live &&
      decide (t.mem = [])) = true ∧
    leads (applied { sR with reqs := [(5, { state := .ended, hoOut := [{ layer := 0, lo := 0, hi := 1, port := 0 }] })] } [] (.regionRemove 0 [0x13]))
      (fun t => (t.region 0).live && (t.region 0).removing && decide (t.out = [])) = true := by decide +kernel

theorem wit_pages_leave :
    let s := sR.modRegion 0 fun r => { r with
      geom0 := some { ppos := 16, nl := 1, kvh := 1, hpass := 1, kvfmt := 4 }
      pool0 := [{ addr := 0x10000000, st := .free }, { addr := 0x10001000, st := .used }]
      variants := [{ num := 7, uid := 1, vlen := 0, pages := [0x10001000], ready := true }] }
    leads (applied s [] (.poolRemove 0 [0x42, 0, 0x10000000, 1])) (fun t => decide ((t.region 0).pool0.length = 1)) = true ∧
    leads (applied s [] (.poolRemove 0 [0x42, 0, 0x10000000, 2])) (fun t => decide ((t.region 0).removals.length = 1) &&
      decide ((t.region 0).pool0.map (·.leaving) = [true]) && decide (t.out = [])) = true ∧
    leads (applied s [] (.variantLoad 0 [0x43, 8, 16] (some [9]))) (fun t => decide (t.mem = [(0x10000000, 9)]) &&
      decide ((t.region 0).variants.map (·.num) = [7, 8])) = true ∧
    statuses (applied s [] (.variantLoad 0 [0x43, 8, 17] (some []))) = [0x48] ∧
    statuses (applied s [] (.variantLoad 0 [0x43, 8, 32] (some []))) = [0x49] ∧
    leads (applied s [] (.variantUnload 0 [0x44, 7])) (fun t => decide ((t.region 0).variants = []) &&
      decide ((t.region 0).pool0.map (·.st) = [.free, .scrubbing])) = true := by decide +kernel

/-- Flushing the one node of a region: it is evicted where nothing holds it, and DEAD where something does. -/
theorem wit_flush :
    let x : Node := {
      hash := 5, domain := 3, variant := 0, parent := noParent, refcnt := 0, depth := 0, dead := false, children := 0,
      lastuse := 0, tokens := List.replicate 16 0, pages := [0x10000001] }
    let s := fun (k : Nat) => (sR.modRegion 0 fun r => { r with nodesUsed := [4] }).putNode 0 4 { x with refcnt := k }
    ((s 0).node 0 4).domain = 3 ∧
    leads (applied (s 0) [] (.prefixFlush 0 [0x45, 3, 0])) (fun t => decide ((t.region 0).nodesUsed = [])) = true ∧
    leads (applied (s 1) [] (.prefixFlush 0 [0x45, 0, 1])) (fun t => (t.node 0 4).dead && decide ((t.region 0).nodesUsed = [4])) = true ∧
    leads (applied (s 0) [] (.prefixFlush 0 [0x45, 2, 0])) (fun t => !(t.node 0 4).dead) = true := by decide +kernel

theorem wit_ImmediateCommands :
    leads (exec (.query 0 [0x34, 32767]) sR) (fun t => t.out.any fun x => match x with
      | .hostWrite false a bs => decide (a = 8) && decide (bs.length = 248) | _ => false) = true ∧
    leads (exec (.enable 0 [0x33]) (sR.modQueue 0 fun x => { x with disabled := true })) (fun t => !(t.queue 0).disabled) = true ∧
    leads (exec (.disable 0 [0x32, 1, 0]) sR) (fun t => (t.region 0).disabled && decide (t.out.length = 2)) = true ∧
    (let earlier := { sR with hif := { sR.hif with fetchOrder := 1 } }
     leads (exec (.disable 0 [0x32, 1, 0, 1]) { earlier with reqs := [(5, { state := .queued })] })
       (fun t => (t.region 0).disabled && decide (t.out = []) && decide ((t.region 0).bcmds.length = 1)) = true ∧
     leads (exec (.disable 0 [0x32, 1, 0]) { earlier with reqs := [(5, { state := .queued, order := 1 })] })
       (fun t => (t.region 0).disabled && decide (t.out.length = 2)) = true ∧
     leads (exec (.disable 0 [0x32, 2]) { earlier with reqs := [(5, { state := .lead, handoff := true })] })
       (fun t => t.ho.disabled && decide (t.out = [])) = true) ∧
    (let p : Entry := [0x50, 0x3818A07]
     statuses (exec (.partnerPair 0 p) { sR with ho := sH.ho }) = [0x4C] ∧ badPairing p = false ∧
     leads (exec (.partnerPair 0 p) sR) (fun t => t.ho.pairing.isSome) = true) ∧
    leads (exec (.partnerUnpair 0 [0x51]) { sR with ho := sH.ho }) (fun t => t.ho.pairing.isNone) = true ∧
    statuses (exec (.partnerUnpair 0 [0x51]) { sR with ho := sH.ho, reqs := [(5, { state := .lead, handoff := true })] }) = [0x4E] ∧
    statuses (exec (.layoutSet 0 [0x52, 255]) { sR with reqs := [(5, { state := .lead, handoff := true, layout := 255 })] }) = [0x4F] ∧
    statuses (exec (.layoutSet 0 [0x52, 255, 0, 0, 0, 0, 0xFFFFFFFFFFFFFFFF]) sR) = [0x50] := by decide +kernel

/-- A greedy submission of one prompt token; region 0 takes requests. -/
def req0 : Entry := [0x900000001, 64, 0, 0, 0, 0, 0, 0, 0x80000000000]
def sReq : State := sR.modRegion 0 fun r => { r with
  setup := some (setupOf setup0), geom0 := some { ppos := 16, nl := 2, kvh := 1, hpass := 1, kvfmt := 4 } }

theorem wit_RequestSubmitted :
    badRequest req0 0 (some [1, 0, 0, 0]) none = false ∧ sReq.requestRefusal 0 req0 (some [1, 0, 0, 0]) none = none ∧
    leads (exec (.request 0 req0 (some [1, 0, 0, 0]) none) sReq)
      (fun t => decide ((t.req 0).state = .queued) && decide ((t.req 0).hosttag = 9) && decide ((t.req 0).promptLen = 1)) = true ∧
    leads (exec (.request 0 req0 (some [1, 0, 0, 0]) none) { sReq with reqs := [(0, { state := .lead })] })
      (fun t => decide ((t.req 1).state = .queued)) = true ∧
    statuses (exec (.request 0 req0 none none) sReq) = [0x2B] ∧
    statuses (exec (.request 0 req0 (some [1, 0, 0, 0]) none) (sReq.modRegion 0 fun r => { r with sealed := true })) = [0x75] ∧
    statuses (exec (.request 0 req0 (some [1, 0, 0, 0]) none) sR) = [0x21] := by decide +kernel

theorem wit_HostCopies :
    let e : Entry := [0x20, 0x7000, 0x10000000, 16]
    badCopy e = false ∧ sR.copyRefusal 0 e = none ∧ sR.lostGranules 0 = [] ∧
    leads (exec (.copyIn 0 e (some (List.replicate 16 7))) sR) (fun t => decide (readLe t.mem 0x10000000 2 = 0x0707)) = true ∧
    leads (exec (.copyOut 0 (e.set 0 0x21)) sR) (fun t => t.out.any fun x => match x with
      | .hostWrite false a bs => decide (a = 0x7000) && decide (bs = List.replicate 16 0) | _ => false) = true ∧
    (let s := sR.modRegion 0 fun r => { r with run := .stepping }
     leads (exec (.copyIn 0 e (some (List.replicate 16 7))) s) (fun t => t.races.map (·.writer) == [.copy 0]) = true ∧
     (let t := { s with races := [{ writer := .context w0, addr := 0x10000000, old := [5] }] }
      t.racing (.host 0) 0x10000000 16 ≠ [] ∧ leads (exec (.copyOut 0 (e.set 0 0x21)) t) (fun u => decide (u.freeCtr = t.freeCtr + 1)) = true)) ∧
    sR.copyRefusal 0 (e.set 2 0xFFFFFFFFFFF0) ≠ none ∧
    (statuses (exec (.copyIn 0 (e.set 2 0xFFFFFFFFFFF0) none) sR)).length = 1 := by decide +kernel

/-! ## The owner, firmware, sessions -/

/-- Which images and tokens pass rests on the part's keys, which are opaque (log 13): an image of no bytes never does. -/
theorem wit_image_refused : checkImage 0 [] 0 = .badSignature := by
  unfold checkImage; cases h : Config.signingKey (leNat ((((([] : List Byte).take 0).drop 9).take 1))) <;> simp_all [leNat]

/-- An ownership session of key 7. -/
def sess7 : Session := { id := 4, kind := .ownership, key := [7], sideband := false }

theorem wit_OwnerAndFirmware :
    (let key := List.replicate 57 (0 : Byte)
     let e : Entry := [0x10]
     statuses (exec (.ownEnroll 0 e) sR1) = [0x71] ∧ statuses (exec (.ownEnroll 0 e) sR) = [0x72] ∧
     leads (exec (.ownEnroll 0 e) { sR with sec := { sessions := [{ id := 0, kind := .ownership, key := key, sideband := false }] } })
       (fun t => decide (t.nv.ownerKey = some key)) = true) ∧
    leads (exec (.ownRelease 0 [0x11]) { sR with nv := { ownerKey := some [7] }, sec := { cak := some (1, []), sessions := [sess7] } })
      (fun t => t.nv.ownerKey.isNone && t.sec.cak.isNone && (t.region 0).removing && decide (t.sec.sessions = [])) = true ∧
    statuses (exec (.queueBind 0 [0x14, 0x2001]) (sR.modQueue 1 fun x => { x with en := true })) = [0x7B] ∧
    leads (exec (.queueBind 0 [0x14, 0x1FFF + 2 * 2 ^ 13 + 3 * 2 ^ 15]) sR) (fun t =>
      decide ((t.queue 8191).role = .tenant) && decide ((t.queue 8191).brid = 3)) = true ∧
    statuses (exec (.queueBind 0 [0x14, 5 + 2 * 2 ^ 13]) sR3) = [0x77] ∧
    sR.tokenKind [] = none ∧ statuses (exec (.silborToken 0 [0x18] (some [])) sR) = [0x78] ∧
    leads (exec (.svnCommit 0 [0x16]) { sR with sec := { running := some { version := 1, svn := 64, digest := [] } } })
      (fun t => decide (t.nv.rollback = 64)) = true ∧
    (sR.barUp = true ∧ leads (exec (.recoveryGo none true) { sR with sec := { recovery := true } })
      (fun t => decide (t.sec.recovResult = 4)) = true) := by decide +kernel

theorem wit_Sessions :
    sR.sessionKind false true [1] = .ownership ∧ sR.sessionKind true true [1] = .attestation ∧
    leads (exec (.spdmKeyExchange false true [1]) sR) (fun t => decide (t.sec.sessions.length = 1)) = true ∧
    is (exec (.spdmKeyExchange false true [1]) { sR with sys := { stage := 2 } }) { sR with sys := { stage := 2 } } = true ∧
    (let full := { sR with sec := { sessions := List.replicate 8 { id := 0, kind := .attestation, key := [], sideband := true } } }
     leads (exec (.spdmKeyExchange true false []) full) (fun t => decide (t.out = [.spdmError])) = true ∧
     leads (exec (.endSession 0) full) (fun t => decide (t.sec.sessions = [])) = true ∧
     leads (exec (.endSession 1) full) (fun t => decide (t.out = [.spdmError])) = true ∧
     leads (exec (.spdmHeartbeatExpiry 0) full) (fun t => decide (t.sec.sessions = [])) = true) ∧
    leads (exec (.spdmGetMeasurements true (.measurements 10 [])) sR) (fun t => decide (t.out = [.spdmError])) = true ∧
    leads (exec (.spdmGetMeasurements true (.measurements 9 [])) sR) (fun t => decide (t.out.length = 1)) = true := by decide +kernel

/-- What a session asks besides measurements (R460): certificate slot 0, and KEY_UPDATE. -/
theorem wit_session_requests :
    let s := { sR with sec := { sessions := [sess7] } }
    leads (exec (.spdmGetMeasurements false (.certificate 1)) s) (fun t => decide (t.out = [.spdmError])) = true ∧
    leads (exec (.spdmGetMeasurements false (.certificate 0)) s) (fun t => decide (t.out.length = 1)) = true ∧
    leads (exec (.spdmGetMeasurements false .version) s) (fun t => decide (t.out.length = 1)) = true ∧
    leads (exec (.spdmGetMeasurements false (.keyUpdate 4)) s) (fun t => decide (t.sec.sessions.map (·.keyNo) = [sess7.keyNo + 1])) = true ∧
    leads (exec (.spdmGetMeasurements false (.keyUpdate 9)) s) (fun t => decide (t.out = [.spdmError])) = true := by decide +kernel

/-- TLPs and streams (R422, R452): none enabled, a tenant's stream enabled, and the link stream enabled. -/
theorem wit_streams_of_tlps :
    let x : Ide := { enabled := true, owner := some [9] }
    let s := { sR with sec := { selIde := [(2, x)] } }.modRegion 1 fun r => { r with live := true, sealed := true, tpub := [9] }
    let l := { s with sec := { s.sec with linkIde := { enabled := true, owner := some [7] } } }
    sR.sendTlp none (.msix 3 0 0) = sR.emit (.msix 3 0 0) ∧ (s.ide (.selective 2)).enabled = true ∧
    s.sendTlp (some (1, 2)) (.msix 3 0 0) = s.emit (.inStream (.selective 2) (.msix 3 0 0)) ∧ s.sendTlp (some (1, 1)) (.msix 3 0 0) = s ∧
    s.sendTlp none (.msix 3 0 0) = s ∧ l.sendTlp none (.msix 3 0 0) = l.emit (.inStream .link (.msix 3 0 0)) := by decide +kernel

theorem wit_Streams :
    let x := sess7
    let s := { sR with nv := { ownerKey := some [7] }, sec := { sessions := [x, { x with id := 5, kind := .attestation }] } }
    s.authSession 4 = some x ∧ s.mayKey .link x = true ∧ s.authSession 6 = none ∧
    (let k := after (exec (.keyProg 4 (.selective 3) [9]) s)
     (k.ide (.selective 3)).pending = [9] ∧ k.mayKey (.selective 3) x = true ∧ (k.ide (.selective 3)).session = some 4 ∧
     k.mayKey (.selective 3) { x with id := 5 } = false ∧
     leads (exec (.kSetGo 4 (.selective 3)) k) (fun t => (t.ide (.selective 3)).enabled &&
       leads (exec .tlpOutsideIde t) fun u => decide (u.sec.tlpDiscards = 1)) = true) ∧
    leads (exec (.keyProg 6 .link [9]) s) (fun t => decide (t.out = [.spdmError])) = true ∧
    leads (exec (.vendorDefinedRequest 4 (.fabricKey [1])) s) (fun t => decide (t.sec.fabricKey = some [1])) = true ∧
    leads (exec (.vendorDefinedRequest 4 (.cak 3 [1])) s) (fun t => decide (t.sec.cak = some (3, [1]))) = true ∧
    is (exec .tlpOutsideIde s) s = true := by decide +kernel

/-! ## Steps -/

/-- sR with its halves awake. -/
def sAwake : State := sR.wakeUp

/-- Region 0 with a plan and an image; a page of slot 0 and table-zone block 0 under scrub. -/
def sP : State := sAwake.modRegion 0 fun r => { r with
  planned := true, image := some { imgNovary with entries := List.replicate 64 0x100 }, hold := none
  geom0 := some { ppos := 16, nl := 2, kvh := 1, hpass := 1, kvfmt := 4 }, pool0 := [{ addr := 0x10000000, st := .scrubbing }]
  tblocks := [{ n := 0, ridx := 0, slot := 0, scrubbing := true }] }

/-- A state whose controllers mark nothing lost has no lost granule in any region. -/
theorem wit_nothing_lost (k : Nat) : sP.lostGranules k = [] := by
  have h1 : ∀ c, (sP.t1 c).lost = [] := fun c => rfl
  have h2 : ∀ c, (sP.t2 c).lost = [] := fun c => rfl
  simp [State.lostGranules, h1, h2]

theorem wit_StepEvents :
    is (exec (.stepBoundary 0 {}) sP) sP = true ∧ sP.awake = true ∧ sAwake.computeEnded 0 = true ∧ sR.awake = false ∧
    is (exec (.stepBoundary 0 {}) sR) sR = true ∧ is (exec (.scrubDone 0 (.block 0)) sR) sR = true ∧
    leads (exec (.stepBoundary 0 {}) sAwake) (fun t => decide (t.sys = sAwake.sys)) = true ∧ sP.lostGranules 0 = [] ∧
    leads (exec (.scrubDone 0 (.page 0 0x10000000)) { sP with mem := [(0x10000FFF, 1)] }) (fun t =>
      decide (t.mem = []) && decide ((t.region 0).pool0.map (·.st) = [.free])) = true ∧
    leads (exec (.scrubDone 0 (.block 0)) { sP with mem := [(sP.blockAddr 0 0 + 4095, 1)] }) (fun t =>
      decide (t.mem = []) && decide ((t.region 0).tblocks = [])) = true ∧
    (sP.launchValue 0).isSome = false ∧ is (exec (.groupLaunch 0) sP) sP = true ∧ is (exec (.stepHoldRelease 0) sP) sP = true ∧
    (let h := { sAwake with gc := 5 }.modRegion 0 fun r => { r with hold := some 5 }
     is (exec (.stepHoldRelease 0) { h with pwr := sR.pwr }) { h with pwr := sR.pwr } = true ∧
     leads (exec (.stepHoldRelease 0) h) (fun t => decide ((t.region 0).hold = none)) = true ∧
     (let g := h.modRegion 0 fun r => { r with planned := true }
      leads (exec (.stepHoldRelease 0) g) (fun t => (t.region 0).planned && decide (t.out = [])) = true ∧
      is (exec (.stepBoundary 0 {}) g) g = true ∧
      leads (exec (.stepBoundary 0 {}) { g with gc := 4 }) (fun t => !(t.region 0).planned) = true) ∧
     h.onHold 0 = false ∧ { h with gc := 4 }.onHold 0 = true ∧
     is (exec (.stepHoldRelease 0) { h with gc := 4 }) { h with gc := 4 } = true) := by decide +kernel

theorem wit_GroupLaunch :
    let s := { sP with gc := 100, fab := sL.fab, reqs := [(0, { state := .lead })] }.modRegion 0 fun r => { r with
      groups := [(5, { w0 := 0x88005, w1 := 0x800000 })], readies := [(0, 10), (2, 20)], setup := some (setupOf setup0)
      stepReqs := [{ ridx := 0, lead := true }], nlead := 1 }
    (s.launchValue 0).isSome = true ∧ s.mayLaunch 0 = true ∧
    leads (exec (.groupLaunch 0) { s with gc := 0x1000000 }) (fun t => decide ((t.region 0).run = .stepping) &&
      decide ((t.ctx w0).pc = 0x100) && decide ((t.region 0).stepNo = 1)) = true ∧
    is (exec (.groupLaunch 0) { s with gc := 0 }) { s with gc := 0 } = true := by decide +kernel

theorem wit_Watchdogs :
    sA.regionOfFrame 0 = some 0 ∧
    is (exec (.stepWatchdogExpiry w0) sR) sR = true ∧
    (let s := on { ctxs := [(0, { pc := 0x100, run := .blocked (.bar 0) })] }
     faulted (exec (.stepWatchdogExpiry w0) s) s 0xB 0 = true) ∧
    is (exec (.stepTimeout 0) sR) sR = true ∧ leads (exec (.stepTimeout 0) sA) (fun t => decide ((t.region 0).run = .stopping)) = true ∧
    leads (exec .setupRecheck (sReq.modRegion 0 fun r => { r with image := some imgNovary })) (fun _ => true) = true ∧
    is (exec .setupRecheck { sA with sys := { stage := 6 } }) { sA with sys := { stage := 6 } } = true := by decide +kernel

theorem wit_RequestsInSteps :
    (let s := (sR.modRegion 0 fun r => { r with faulted := true })
     s.earlyEnd 0 5 (some { ridx := 5, race := true }) true = some 0x0F ∧ s.earlyEnd 0 5 none true = none) ∧
    (let q := fun (x : Req) => { sR with reqs := [(5, x)] }
     (q { state := .handover, walkRace := true, walkInvalid := true }).earlyEnd 0 5 none false = some 0x0E ∧
     (q { state := .handover, walkInvalid := true, walkLimit := true }).earlyEnd 0 5 none false = some 0x0C ∧
     (q { state := .handover, walkLimit := true }).earlyEnd 0 5 none false = some 0x0B) ∧
    (let s := { sR with reqs := [(32767, { state := .queued, fetching := true })] }
     leads (exec (.peerFetch 0 32767 []) s) (fun t => !(t.req 32767).fetching) = true ∧
     is (exec (.peerFetch 0 5 []) s) s = true) := by decide +kernel

/-- An ended request is released, one whose writes are not acknowledged stays; its pages and blocks go to be zeroed. -/
theorem wit_release :
    let s := { sP with reqs := [(3, { state := .ended }), (5, { state := .lead })], mem := [(sP.headerAddr 0 3 0, 7)] }
    smWf ({} : Req) s.reqs = true ∧ (s.releaseEnded 0).req 3 = ({} : Req) ∧ (s.releaseEnded 0).req 5 = s.req 5 ∧ (s.releaseEnded 0).mem = [] ∧
    (s.inOrder [3, 5]).length = 2 := by decide +kernel

/-- A region with 2 pages of slot 0, a set-up and a lead width of 6 columns; request 3 QUEUED. -/
def sAdm : State := { sAwake.modRegion 0 fun r => { r with
    setup := some (setupOf setup0), image := some { imgNovary with leadw := [6], bounds := [] }
    geom0 := some { ppos := 16, nl := 1, kvh := 1, hpass := 1, kvfmt := 4 }
    pool0 := [{ addr := 0x10000000, st := .free }, { addr := 0x10001000, st := .free }] } with
  reqs := [(3, { state := .queued, promptLen := 16, budget := 16 }), (5, { state := .prompt, promptLen := 100 }), (7, { state := .lead })] }

theorem wit_admission :
    let d := (sAdm.region 0).need (sAdm.req 3) 0 none
    d.own0 = 2 ∧ (sAdm.tryEarmark 3).req 3 = { sAdm.req 3 with earmark := true, earPages0 := 2, earBlocks := d.blocks } ∧
    (sAdm.prefixHits 0 (sAdm.req 3)) = ([], false) ∧ (sAdm.findDirs 0 3 d).isSome = true ∧ sAdm.sharesPrefixes 0 = none ∧
    ((sAdm.admitOne 0 3).req 3).state = .prompt ∧ ((sAdm.admitOne 0 3).region 0).tblocks.length = d.blocks ∧
    (sAdm.admitShort 0 3 { d with own0 := 3 }).req 3 = (sAdm.endWith 3 0x11).req 3 ∧ sAdm.admitShort 0 3 d = sAdm ∧
    (let f := sAdm.modRegion 0 fun r => { r with pool0 := [] }
     ((f.admitOne 0 3).req 3).endstat = 0x11) ∧
    (let g := sAdm.modRegion 0 fun r => { r with setup := some { setupOf setup0 with classes := [{ guar := true }] } }
     ((g.admitShort 0 3 d).req 3).endstat = 0x13) := by decide +kernel

theorem wit_plan :
    sAdm.splitWidth 0 { imgNovary with leadw := [6] } 10000 1 true = 6 ∧ sAdm.splitWidth 0 imgNovary 10000 1 true = 24 ∧
    ((sAdm.orderEight 0).region 0).stepReqs.map (fun x => (x.ridx, x.lead, x.grant)) = [(7, true, 0), (5, false, 100)] ∧
    sAdm.mayPlan 0 = true ∧ sAdm.sharedLaunch 0 = none ∧ ((sAdm.orderNine 0).region 0).run = .stepping ∧
    sAdm.insertDue 4 0 5 = sAdm := by decide +kernel

/-! ## Power, resets, start-up -/

theorem wit_PowerStates :
    leads (exec (.wakeEvent .alarm) { sR with pwr := { lull := true } }) (fun t => !t.pwr.lull && t.pwr.west.active && t.pwr.east.active) = true ∧
    (let s := { State.reset with pwr := { west := { active := true } } }
     s.mayWarm .west = true ∧ leads (exec (.warmEntry .west) s) (fun t => !t.pwr.west.active) = true ∧
     is (exec (.warmEntry .east) s) s = true) ∧
    is (exec .keeperAlarm sR) sR = true ∧ is (exec .lullEntry sA) sA = true ∧
    ((sA.region 0).inHalf .west = true ∧ sA.mayWarm .west = false) ∧
    (let s := { State.reset with gc := 10000000, pwr := { deepest := 2 } }
     s.mayLull = true ∧ leads (exec .lullEntry s) (fun t => t.pwr.lull) = true) := by decide +kernel

theorem wit_ClockSteps :
    let m : Telemetry := { input := 0, wtj := 104, etj := 105, stj := 0, plate := 0 }
    leads (exec (.hardwareThrottle .west) sR) (fun t => decide (t.pwr.west.step = 2)) = true ∧
    is (exec (.stepUpComplete .west) sR) sR = true ∧
    leads (exec (.stepUpComplete .east) { sR with pwr := { east := { step := 2, up := some 1 } } }) (fun t => decide (t.pwr.east.step = 1)) = true ∧
    leads (exec (.throttleCheck m) sR) (fun t => decide (t.pwr.east.step = 1) && decide (t.pwr.west.step = 0)) = true ∧
    sR.pwr.limit.toNat < 1651 ∧
    leads (exec (.throttleCheck { m with wtj := 94, etj := 94, input := 1484 }) { sR with pwr := { west := { cool := 49, step := 2 } } })
      (fun t => decide (t.pwr.west.up = some 1) && decide (t.pwr.west.cool = 0)) = true ∧
    leads (exec (.throttleCheck { m with wtj := 94, etj := 94, input := 1485 }) { sR with pwr := { west := { cool := 49, step := 2 } } })
      (fun t => decide (t.pwr.west.up = none) && decide (t.pwr.west.cool = 0)) = true ∧
    is (exec (.plateHot 45) sR) sR = true ∧ leads (exec (.plateHot 46) sR) (fun t => t.pwr.alert) = true := by decide +kernel

theorem wit_CoresAndSideband :
    leads (exec (.controlCoreFault 0 true) sR) (fun t => decide (t.sys.ceCount = 1)) = true ∧
    leads (exec (.taskWatchdogExpiry 0 false) sR) (fun t => decide (t.sys.cores = [.retired, .service, .service, .service, .service])) = true ∧
    is (exec (.controlCoreFault 4 false) sR) sR = true ∧
    leads (exec .keeperWatchdogExpiry sR) (fun t => decide (t.sys.keeperExpiry = some 0)) = true ∧
    leads (exec .keeperWatchdogExpiry { sR with gc := 1000000000, sys := { keeperExpiry := some 0 } }) (fun t => decide (t.sys.lastreset = 4)) = true ∧
    leads (exec .keeperWatchdogExpiry { sR with gc := 1000000001, sys := { keeperExpiry := some 0 } }) (fun t => decide (t.sys.stage = 7)) = true ∧
    leads (exec .getIdent sR) (fun t => decide (t.out.length = 1)) = true ∧ leads (exec .getEnergy sR) (fun t => decide (t.out.length = 1)) = true ∧
    leads (exec .getStatus sR) (fun t => decide (t.out.length = 1)) = true ∧
    (let off := { sR with pwr := { rail := .off } }
     is (exec .getStatus off) off = true ∧ is (exec .reset off) off = true) := by decide +kernel

/-- Another message code, and the assignment of the dynamic address (R518, Table 19-5). -/
theorem wit_sideband_commands :
    leads (exec (.wakeEvent (.sideband (.message 0x12))) sR) (fun t => decide (t.out = [.sidebandError])) = true ∧
    leads (exec (.wakeEvent (.sideband (.message 0x11))) sR) (fun t => decide (t.out = [])) = true ∧
    leads (exec (.wakeEvent (.sideband (.entdaa 9))) sR) (fun t => decide (t.sys.sbAddr = some 9) &&
      leads (exec (.wakeEvent (.sideband .setaasa)) t) fun u => decide (u.sys.sbAddr = some 9)) = true ∧
    leads (exec (.wakeEvent (.sideband .setaasa)) sR) (fun t => decide (t.sys.sbAddr = some 0x5A)) = true ∧
    leads (exec (.wakeEvent (.sideband .setaasa)) { sR with pwr := { rail := .off } }) (fun t => decide (t.sys.sbAddr = none)) = true := by
  decide +kernel

theorem wit_Resets :
    ([.moduleReset 1, .moduleReset 4, .perstAssert, .reset] : List Instr).all
      (fun c => leads (exec c { sH with gc := 9 }) fun t => decide (t.mem = []) && decide (t.gc = 9) && decide (t.sys.stage = 1)) = true ∧
    leads (exec (.moduleReset 2) { sH with sec := { sH.sec with unlocking := true } }) (fun t => t.sec.debug && !t.sec.unlocking) = true ∧
    leads (exec .powerOnReset { sH with gc := 9 }) (fun t => decide (t.gc = 0) && decide (t.sys.stage = 0)) = true ∧
    leads (exec .underVoltageOff sH) (fun t => decide (t.pwr.rail = .off) && leads (exec (.moduleReset 2) t) fun u => decide (u = t)) = true ∧
    leads (exec .overVoltageOff sH) (fun t => decide (t.pwr.rail = .overHold) &&
      leads (exec .inputReturn t) fun u => decide (u.pwr.rail = .on) && decide (u.sys.stage = 0)) = true ∧
    leads (exec (.thermtrip false) sH) (fun t => decide (t.pwr.rail = .tripped) && t.pwr.thermLatched) = true ∧
    leads (exec (.thermtrip true) sH) (fun t => t.pwr.psLatched &&
      leads (exec .reset t) fun u => decide (u.out = t.out ++ [.sidebandError])) = true ∧
    (let s := { sH with pwr := { rail := .tripped, thermLatched := true } }
     leads (exec .overVoltageOff s) (fun t => t.trip && decide (t.pwr.rail = .overHold) &&
       leads (exec .reset t) (fun u => decide (u.out = t.out ++ [.sidebandError])) &&
       leads (exec .inputReturn t) fun u => decide (u.pwr.rail = .tripped) && decide (u.pwr.offcause = 1)) = true ∧
     s.cooled = true ∧ leads (exec .reset s) (fun u => decide (u.sys.lastreset = 5)) = true) ∧
    (let s := { sH with pwr := { rail := .overHold, offcause := 3 }, sys := { stage := 0 } }
     s.trip = false ∧ leads (exec .reset s) (fun t => decide (t.sys.lastreset = 2) && decide (t.sys.stage = 0) && decide (t.pwr = s.pwr) &&
       decide (t.mem = []) && decide (t.out = s.out ++ [.sideband [0x10]])) = true ∧
     leads (exec (.moduleReset 4) s) (fun t => decide (t.sys.lastreset = 4) && decide (t.pwr.rail = .overHold)) = true) ∧
    leads (exec .presentMate sH) (fun t => t.sys.present) = true ∧
    leads (exec .perstDeassert { sH with sys := { stage := 0 } }) (fun t => t.sys.earlyDeassert) = true ∧
    leads (exec .perstDeassert { sH with sys := { perst := true } }) (fun t => !t.sys.perst) = true ∧
    leads (exec .functionLevelReset sQ) (fun t => decide (t.queue 1 = sQ.queue 1) && !(t.queue 0).en &&
      decide ((t.queue 0).role = .owner)) = true ∧ smWf {} sQ.hif.queues = true := by decide +kernel

theorem wit_StartUp :
    let at_ := fun (n : BitVec 4) => { State.reset with sys := { stage := n } }
    ([(0, 1), (1, 3), (2, 2), (3, 4), (4, 5), (5, 6), (6, 7), (7, 7)] : List (BitVec 4 × BitVec 4)).all
      (fun x => leads (exec (.startupStageDone {}) (at_ x.1)) fun t => decide (t.sys.stage = x.2)) = true ∧
    leads (exec (.startupStageDone {}) { at_ 1 with nv := { fw := none } }) (fun t => t.sec.recovery && decide (t.sys.stage = 2)) = true ∧
    leads (exec (.startupStageDone {}) { at_ 1 with nv := { rollback := 1 } }) (fun t => t.sec.recovery) = true ∧
    leads (exec (.startupStageDone {}) { State.reset with sys := { stage := 6, perst := true } }) (fun t => decide (t.sys.stage = 6)) = true := by
  decide +kernel

/-- In 800GAUI-4 a lane of 4 to 7 that was lost keeps no port down; one of 0 to 3 does (R493, R517). -/
theorem wit_handoff_lanes :
    let s := { State.reset with sys := { stage := 6, homodeGround := true }, ho := { port0 := { lanesLost := [5] }, port1 := { lanesLost := [3] } } }
    leads (exec (.startupStageDone {}) s) (fun t => t.ho.port0.linkUp && !t.ho.port1.linkUp) = true ∧
    leads (exec (.startupStageDone {}) { s with sys := { stage := 6 } }) (fun t => !t.ho.port0.linkUp) = true ∧
    is (exec (.handoffLaneLoss 0 4) { sH with sys := { homodeGround := true } }) { sH with sys := { homodeGround := true } } = true := by
  decide +kernel

theorem wit_CanonicalForm : Memory.wf sJ.mem = true ∧ smWf {} sH.reqs = true ∧ smWf {} sQ.hif.queues = true ∧
    leads (step { sQ with pending := [.getIdent] }) (fun t => decide (t.pending = []) && decide (t.out.length = 1)) = true ∧
    leads (step State.reset) (fun t => decide (t.gc = 1)) = true := by decide +kernel

/-! ## Worked examples of the spec -/

/-- The examples of SYS_IDENT (18) and FAB_COORD (12): values and fields. -/
theorem test_idents : { State.reset with nv := { grade352 := true } }.sysIdent = 0x2C1 ∧
    (let s : State := { State.reset with fab := { coord := 0x03C2D985, coordSet := true } }
     s.rackPos = 5 ∧ s.tray = 3 ∧ s.slotNo = 6 ∧ s.l3mode = 2 ∧ s.nrack = 16) := by
  decide +kernel

/-! ## Well-formedness -/

/-- Instruction words with the fields where Table 4-2 has them (V 63, CLASS 62:59, OP 58:50, D 49:45, A 44:40, B 39:35, C 34:30,
MASK 29:27, TYPE 26:22, IMM 21:0) are the rows that Table 4-4 gives for their CLASS and OP; a reserved CLASS is ADD's malformed
form. -/
theorem test_words :
    let word := fun (v cls op d a b c m ty imm : Nat) => BitVec.ofNat 64 (v * 2 ^ 63 + cls * 2 ^ 59 + op * 2 ^ 50 + d * 2 ^ 45 +
      a * 2 ^ 40 + b * 2 ^ 35 + c * 2 ^ 30 + m * 2 ^ 27 + ty * 2 ^ 22 + imm)
    Instr.ofWord w0 0x811000000000 = .add w0 0 0 (dab 4 1 2) ∧
    Instr.ofWord w0 (word 0 0 0x18 4 1 0 0 0 0 0x3FFFFF) = .addi w0 8 (dai 4 1 (-1)) ∧
    Instr.ofWord w0 (word 0 0 0x47 0 1 2 0 0 0 8) = .st1 w0 3 (abi 1 2 8) ∧
    Instr.ofWord w0 (word 0 1 5 0 1 2 0 0 0 4) = .beq w0 5 (abi 1 2 4) ∧
    Instr.ofWord w0 (word 0 2 3 3 1 2 5 2 1 0) = .vfma w0 { dab 3 1 2 with c := 5, mask := 2, ty := 1 } ∧
    Instr.ofWord w0 (word 1 3 0xC 4 1 2 0 0 0 0) = .sclaim w0 { dab 4 1 2 with v := true } ∧
    Instr.ofWord w0 (word 0 4 0 3 1 0 0 0 0x1F 0x80000) = .cvt w0 { dab 3 1 0 with ty := 0x1F, imm := 0x80000 } ∧
    Instr.ofWord w0 (word 0 5 0 4 1 0 0 0 0 0) = .mjob w0 (dab 4 1 0) ∧ Instr.ofWord w0 (word 0 6 0 4 1 0 0 0 0 0) = .dma w0 (dab 4 1 0) ∧
    Instr.ofWord w0 (word 0 7 6 0 2 0 0 0 0 31) = .sigadd w0 { dab 0 2 0 with imm := 31 } ∧
    Instr.ofWord w0 (word 1 8 7 4 0 0 0 0 0 0) = .rdgc w0 { dab 4 0 0 with v := true } ∧
    Instr.ofWord w0 (word 0 15 3 0 0 0 0 0 0 0) = .add w0 15 3 (dab 0 0 0) ∧ decodeTableWord 64 0 = none := by decide +kernel

/-- Each check of WellFormed refuses a term that breaks it, on a part of 22 columns. -/
theorem test_ill_formed :
    Instr.wellFormed 22 (.tileJobStart 352) = false ∧ Instr.wellFormed 22 (.tileJobStart 351) = true ∧
    Instr.wellFormed 22 (.sub { w0 with frame := 352 } (dab 0 0 0)) = false ∧
    Instr.wellFormed 22 (.svnCommit 0 (List.replicate 33 0)) = false ∧ Instr.wellFormed 22 (.svnCommit 0 (List.replicate 32 0)) = true ∧
    Instr.wellFormed 22 (.moduleReset 0) = false ∧ Instr.wellFormed 22 (.moduleReset 5) = false ∧ Instr.wellFormed 22 (.moduleReset 4) = true ∧
    Instr.wellFormed 22 (.stepWatchdogExpiry { w0 with frame := 352 }) = false ∧
    Instr.wellFormed 22 (.frameParityError 352) = false ∧
    Instr.wellFormed 22 (.sramError (.frameStore 352 0) 0 0 (.step 0) .corrected) = false ∧
    Instr.wellFormed 22 (.sramError (.requestTable 32768) 0 0 (.step 0) .corrected) = false ∧
    Instr.wellFormed 22 (.dataCell 0 0 { cell0 with len := 49, payload := List.replicate 49 0 }) = false ∧
    Instr.wellFormed 22 (.dataCell 0 0 { cell0 with len := 1 }) = false ∧
    Instr.wellFormed 22 (.dataCell 0 0 { cell0 with len := 48, payload := List.replicate 48 0 }) = true ∧
    Instr.wellFormed 22 (.meshPacket { cls := 0, tag := 0, srcCol := 22, srcRow := 0, dstCol := 0, dstRow := 0, read := none, flits := 1 }) = false := by
  decide +kernel

end Sys2Proof.Tests
end

section
/-! SUPPORT. The register window: what an access to the BARs does on a READY part, register pairs, and the LOCK register
(00: R12, R13, R15; 18: R501, R503). -/

namespace Sys2Proof.Proofs.Registers

open Sys2Proof Sys2Proof.Machine Sys2Proof.Safety Sys2Proof.Laws

/-! ## Posting an event -/

@[simp] theorem writeEntry_fab (s : State) (via : Option (Nat × Nat)) (addr : W64) (ws : List W64) (last : Bool) :
    (s.writeEntry via addr ws last).fab = s.fab := by
  simp [State.writeEntry]

@[simp] theorem sendVector_fab (s : State) (v : Nat) : (s.sendVector v).fab = s.fab := by
  unfold State.sendVector
  split
  · rfl
  · split
    · rfl
    · exact sendTlp_fab ..

@[simp] theorem signal_fab (s : State) (ien : Bool) (v : Nat) : (s.signal ien v).fab = s.fab := by
  unfold State.signal
  split
  · rfl
  · split
    · rfl
    · exact sendVector_fab ..

@[simp] theorem postErr_fab (s : State) (event d2 d3 : Nat) : (s.postErr event d2 d3).fab = s.fab := by
  unfold State.postErr
  dsimp only
  split
  · rw [signal_fab]; exact writeEntry_fab ..
  · rfl

@[simp] theorem badAccess_fab (s : State) : s.badAccess.fab = s.fab := postErr_fab ..

/-- A digest ring read after one is replaced. -/
theorem digRing_setDigRing (s : State) (n k : Nat) (r : Ring) :
    (s.setDigRing n r).digRing k = if k = n then r else s.digRing k := smGet_smSet _ _ _ _ _

/-! ## Waking leaves the guards as they are -/

@[simp] theorem wakeUp_hostUp (s : State) : s.wakeUp.hostUp = s.hostUp := by
  unfold State.wakeUp
  split <;> rfl

@[simp] theorem wakeUp_isReady (s : State) : s.wakeUp.isReady = s.isReady := by
  simp [State.isReady]

@[simp] theorem wakeUp_ownerGate (s : State) : s.wakeUp.ownerGate = s.ownerGate := by
  simp [State.ownerGate, State.ownerSession]

@[simp] theorem wakeUp_queue (s : State) (q : Nat) : s.wakeUp.queue q = s.queue q := by
  simp [State.queue]

@[simp] theorem wakeUp_digRing (s : State) (n : Nat) : s.wakeUp.digRing n = s.digRing n := by
  simp [State.digRing]

@[simp] theorem pairWritable_wakeUp (s : State) (r : Reg) : pairWritable s.wakeUp r = pairWritable s r := by
  cases r <;> simp [pairWritable]

@[simp] theorem pairOf_wakeUp (s : State) (r : Reg) : pairOf s.wakeUp r = pairOf s r := by
  cases r <;> simp [pairOf]

/-! ## Accesses to the BARs of a READY part -/

theorem exec_registerWrite (a : BarAccess) (v : W64) (s : State) : exec (.registerWrite a v) s = .next (s.barWrite a v) := rfl

theorem exec_rcRead (a : BarAccess) (s : State) : exec (.rcRead a) s = .next (s.barRead a) := rfl

theorem exec_pairLoRead (a : BarAccess) (s : State) : exec (.pairLoRead a) s = .next (s.barRead a) := rfl

theorem exec_misalignedRegisterRead (a : BarAccess) (s : State) :
    exec (.misalignedRegisterRead a) s = .next (s.barRead a) := rfl

theorem exec_fabCoord (v : W32) (s : State) : exec (.fabCoord v) s = .next (s.barWrite4 0x600000 v) := rfl

theorem accessOk_iff (a : BarAccess) :
    accessOk a = true ↔ (a.bytes = 4 ∨ a.bytes = 8) ∧ a.offset.toNat % a.bytes = 0 := by
  simp [accessOk]

theorem hostUp_of_ready {s : State} (hr : s.isReady = true) : s.hostUp = true := by
  simp only [State.isReady, Bool.and_eq_true] at hr
  exact hr.1

theorem barUp_of_ready {s : State} (hr : s.isReady = true) (hd : s.hif.d3hot = false) : s.barUp = true := by
  simp only [State.isReady, Bool.and_eq_true, decide_eq_true_eq] at hr
  obtain ⟨hhost, hstage⟩ := hr
  simp [State.barUp, hhost, hstage, hd]

/-- On a READY part every register decodes (R483). -/
theorem decoded_of_ready {s : State} (hr : s.isReady = true) (o : Nat) : s.decoded o = regAt o := by
  simp only [State.decoded, hr, Bool.true_or]
  cases regAt o <;> rfl

theorem barIn_bar2 {a : BarAccess} (hb : a.bar2 = true) : BarIn a = true := by
  simp [BarIn, hb]

theorem barIn_bar0 {a : BarAccess} (ho : a.offset.toNat < 2 ^ 24) : BarIn a = true := by
  simp only [BarIn, ho, decide_true, Bool.or_true]

theorem barIn_beyond {a : BarAccess} (hb : a.bar2 = false) (ho : 2 ^ 24 ≤ a.offset.toNat) : BarIn a = false := by
  simp only [BarIn, hb, Nat.not_lt.mpr ho, decide_false, Bool.or_false]

/-- The state in which other _HI values wait for their _LO (R13). -/
def withHiWait (s : State) (m : SMap W32) : State := { s with hif := { s.hif with hiWait := m } }

section Accesses
variable {s : State} (hr : s.isReady = true) {a : BarAccess}
include hr

theorem barRead_beyond (hb : a.bar2 = false) (ho : 2 ^ 24 ≤ a.offset.toNat) :
    s.barRead a = s.noBar (a.offset.setWidth 64) := by
  simp [State.barRead, hostUp_of_ready hr, barIn_beyond hb ho]

theorem barWrite_beyond (hb : a.bar2 = false) (ho : 2 ^ 24 ≤ a.offset.toNat) (v : W64) :
    s.barWrite a v = s.noBar (a.offset.setWidth 64) := by
  simp [State.barWrite, hostUp_of_ready hr, barIn_beyond hb ho]

variable (hd : s.hif.d3hot = false)
include hd

theorem barRead_bar2 (hb : a.bar2 = true) : s.barRead a = s.reply 0 := by
  simp [State.barRead, hostUp_of_ready hr, barUp_of_ready hr hd, barIn_bar2 hb, hb]

theorem barWrite_bar2 (hb : a.bar2 = true) (v : W64) : s.barWrite a v =
    s.doorbell (a.offset.toNat / 4096) { offset := BitVec.ofNat 12 a.offset.toNat, bytes := a.bytes, value := v } := by
  simp [State.barWrite, hostUp_of_ready hr, barUp_of_ready hr hd, barIn_bar2 hb, hb]

variable (hb : a.bar2 = false) (ho : a.offset.toNat < 2 ^ 24)
include hb ho

theorem barRead_misaligned (hm : accessOk a = false) : s.barRead a = s.badAccess.reply 0 := by
  simp [State.barRead, hostUp_of_ready hr, barUp_of_ready hr hd, barIn_bar0 ho, hb, hm]

theorem barRead_word (hm : accessOk a = true) (h4 : a.bytes = 4) :
    s.barRead a = (s.read32 a.offset.toNat).2.reply (s.read32 a.offset.toNat).1 := by
  simp [State.barRead, hostUp_of_ready hr, barUp_of_ready hr hd, barIn_bar0 ho, hb, hm, h4]

theorem barRead_double (hm : accessOk a = true) (h8 : a.bytes = 8) : s.barRead a =
    ((s.read32 a.offset.toNat).2.read32 (a.offset.toNat + 4)).2.reply
      ((s.read32 a.offset.toNat).1 + 2 ^ 32 * ((s.read32 a.offset.toNat).2.read32 (a.offset.toNat + 4)).1) := by
  simp [State.barRead, hostUp_of_ready hr, barUp_of_ready hr hd, barIn_bar0 ho, hb, hm, h8]

theorem barWrite_misaligned (hm : accessOk a = false) (v : W64) : s.barWrite a v = s.wakeUp.badAccess := by
  simp [State.barWrite, hostUp_of_ready hr, barUp_of_ready hr hd, barIn_bar0 ho, hb, hm]

theorem barWrite_word (hm : accessOk a = true) (h4 : a.bytes = 4) (v : W64) :
    s.barWrite a v = s.wakeUp.write32 a.offset.toNat (v.setWidth 32) := by
  simp [State.barWrite, hostUp_of_ready hr, barUp_of_ready hr hd, barIn_bar0 ho, hb, hm, h4]

/-- A 64-bit write at a _LO register sets both halves at once, and no _HI waits any more (R501). -/
theorem barWrite_pair (hm : accessOk a = true) (h8 : a.bytes = 8) {lo hi : Reg} (hlo : regAt a.offset.toNat = some lo)
    (hhi : lo.hi? = some hi) (v : W64) : s.barWrite a v =
      (withHiWait s.wakeUp (smDel s.hif.hiWait (a.offset.toNat + 4))).writePair lo (hi32 v) (lo32 v) := by
  have hdec : s.wakeUp.decoded a.offset.toNat = some lo := by rw [decoded_of_ready (by simpa using hr), hlo]
  simp [State.barWrite, hostUp_of_ready hr, barUp_of_ready hr hd, barIn_bar0 ho, hb, hm, h8, hdec, hhi, withHiWait]

end Accesses

/-- A register read keeps what is on the interfaces and in memory: it clears counters and latches a _HI at most (R13, R502). -/
theorem regTake_out_mem (s : State) (r : Reg) (v : Nat) : (s.regTake r v).out = s.out ∧ (s.regTake r v).mem = s.mem := by
  cases r with
  | memCe t c => cases t <;> exact ⟨rfl, rfl⟩
  | memRetry t c => cases t <;> exact ⟨rfl, rfl⟩
  | wcmiss h => cases h <;> exact ⟨rfl, rfl⟩
  | skew b => dsimp only [State.regTake]; split <;> exact ⟨rfl, rfl⟩
  | attBlocks e => dsimp only [State.regTake]; split <;> exact ⟨rfl, rfl⟩
  | attSkipped e => dsimp only [State.regTake]; split <;> exact ⟨rfl, rfl⟩
  | srv n k =>
    dsimp only [State.regTake]
    split
    · exact ⟨rfl, rfl⟩
    · split <;> exact ⟨rfl, rfl⟩
  | _ => exact ⟨rfl, rfl⟩

theorem regClear_out_mem (s : State) (r : Reg) : (s.regClear r).out = s.out ∧ (s.regClear r).mem = s.mem := by
  unfold State.regClear
  dsimp only
  split <;> exact regTake_out_mem s r _

theorem read32_out_mem (s : State) (o : Nat) : (s.read32 o).2.out = s.out ∧ (s.read32 o).2.mem = s.mem := by
  unfold State.read32
  split
  · exact ⟨rfl, rfl⟩
  · dsimp only
    split
    · exact regClear_out_mem ..
    · exact regClear_out_mem ..

/-- Settles O36: each clause is one way that an access to a BAR of a READY part can go. -/
theorem otherAccesses : Obligations.OtherAccesses := by
  intro s a v hr hd
  simp only [exec_registerWrite, exec_rcRead, exec_pairLoRead, exec_misalignedRegisterRead, Host.Outcome.next.injEq]
  refine ⟨fun hb ho => ⟨fun hbad => ?_, fun h4 hal => ?_⟩, fun hb ho => ?_, fun hb => ?_⟩
  · have hm : accessOk a = false := Bool.eq_false_iff.mpr (mt (accessOk_iff a).mp hbad)
    have hread := barRead_misaligned hr hd hb ho hm
    exact ⟨barWrite_misaligned hr hd hb ho hm v, hread, hread⟩
  · have hm : accessOk a = true := (accessOk_iff a).mpr ⟨.inl h4, h4 ▸ hal⟩
    exact ⟨barWrite_word hr hd hb ho hm h4 v, _, _, barRead_word hr hd hb ho hm h4, read32_out_mem s _⟩
  · exact ⟨barWrite_beyond hr hb ho v, barRead_beyond hr hb ho⟩
  · exact ⟨barRead_bar2 hr hd hb, barRead_bar2 hr hd hb, barWrite_bar2 hr hd hb v⟩

/-! ## The LOCK register -/

/-- A write of FAB_COORD is one of its register, after the wake (R470). -/
theorem fabCoord_eq {s : State} (hr : s.isReady = true) (hd : s.hif.d3hot = false) (v : W32) :
    exec (.fabCoord v) s = .next (s.wakeUp.writeCoord v) := by
  have hdec : s.wakeUp.decoded 0x600000 = some .fabCoord := decoded_of_ready (by simpa using hr) _
  rw [exec_fabCoord, State.barWrite4, barWrite_word hr hd rfl (by decide) (by decide) rfl]
  simp [State.write32, hdec]

theorem writeCoord_locked {s : State} (hg : s.ownerGate = true) (hset : s.fab.coordSet = true) (v : W32) :
    s.writeCoord v = s.postErr 0x0002 0 0 := by
  simp [State.writeCoord, State.gated, hg, hset]

theorem writeCoord_first {s : State} (hg : s.ownerGate = true) (hset : s.fab.coordSet = false) (v : W32) :
    s.writeCoord v = { s with fab := { s.fab with coord := BitVec.ofNat 32 (fld v 28 0), coordSet := true } } := by
  simp [State.writeCoord, State.gated, hg, hset]

theorem writeCoord_gated {s : State} (hg : s.ownerGate = false) (v : W32) : s.writeCoord v = s.badAccess := by
  simp [State.writeCoord, State.gated, hg]

/-- The low field of a word is the word under a mask of ones. -/
theorem ofNat_fld_28 (v : W32) : BitVec.ofNat 32 (fld v 28 0) = v &&& 0x1FFFFFFF := by
  apply BitVec.eq_of_toNat_eq
  have hmask : (0x1FFFFFFF : W32).toNat = 2 ^ 29 - 1 := rfl
  rw [BitVec.toNat_and, hmask, Nat.and_two_pow_sub_one_eq_mod, BitVec.toNat_ofNat]
  simp only [fld, bitsOf, Nat.shiftRight_zero]
  omega

/-- Settles O39: a write of FAB_COORD finds the gate closed, the field set, or the field as reset left it. -/
theorem lockRegister : Obligations.LockRegister := by
  intro s v hr hd
  simp only [fabCoord_eq hr hd, Host.Outcome.next.injEq, exists_eq_left']
  refine ⟨fun hg hset => ?_, fun hg hset => ?_, fun hg _ => ?_⟩
  · rw [writeCoord_locked (by simpa using hg) (by simpa using hset)]
    simp
  · rw [writeCoord_first (by simpa using hg) (by simpa using hset)]
    simp [ofNat_fld_28]
  · rw [writeCoord_gated (by simpa using hg)]
    simp

/-! ## The map's pairs (R13) -/

theorem isHi_of_hi? {lo hi : Reg} (h : lo.hi? = some hi) : lo.isHi = false ∧ hi.isHi = true ∧ hi.hi? = none := by
  cases lo <;> simp only [Reg.hi?, Option.some.injEq, reduceCtorEq] at h <;> subst h <;> exact ⟨rfl, rfl, rfl⟩

/-- An aligned offset whose next register, inside BAR0, is `hi`. -/
def HiNext (o : Nat) (hi : Reg) : Prop := o % 4 = 0 ∧ o + 4 < 2 ^ 24 ∧ regAt (o + 4) = some hi

/-- If an entry of the map at an offset is a _LO register, its _HI comes next. -/
def Paired (o : Nat) (x : Option Reg) : Prop := ∀ lo hi, x = some lo → lo.hi? = some hi → HiNext o hi

namespace Paired

theorem none (o : Nat) : Paired o none := nofun

theorem single {o : Nat} {r : Reg} (h : r.hi? = .none) : Paired o (some r) := by
  rintro _ hi ⟨⟩ hhi
  rw [h] at hhi
  cases hhi

theorem pair {o : Nat} {lo hi : Reg} (h : lo.hi? = some hi) (hn : HiNext o hi) : Paired o (some lo) := by
  rintro _ hi' ⟨⟩ hhi
  rw [h] at hhi
  cases hhi
  exact hn

theorem ite {o : Nat} {c : Prop} [Decidable c] {x y : Option Reg} (hx : c → Paired o x) (hy : Paired o y) :
    Paired o (if c then x else y) := by
  split
  · exact hx ‹_›
  · exact hy

theorem or {o : Nat} {x y : Option Reg} (hx : Paired o x) (hy : Paired o y) : Paired o (x.or y) := by
  cases x with
  | none => exact hy
  | some r => exact hx

end Paired

theorem regAt_of_regSys {o : Nat} {r : Reg} (h : regSys o = some r) : regAt o = some r := by
  simp [regAt, h]

theorem regSys_digbHi {n : Nat} (hn : n < 4) : regSys (0x400200 + 16 * n + 4) = some (.digbHi n) := by
  have hmod : (0x400200 + 16 * n + 4) % 16 = 4 := by omega
  have hdiv : (0x400200 + 16 * n + 4 - 0x400200) / 16 = n := by omega
  simp (disch := omega) only [regSys, if_neg, if_pos, hmod, hdiv]

theorem regSys_qsqbHi {q : Nat} (hq : q < 8192) : regSys (0x410000 + 32 * q + 4) = some (.qsqbHi q) := by
  have hmod : (0x410000 + 32 * q + 4) % 32 = 4 := by omega
  have hdiv : (0x410000 + 32 * q + 4 - 0x410000) / 32 = q := by omega
  simp (disch := omega) only [regSys, if_neg, if_pos, hmod, hdiv]

theorem regSys_qcqbHi {q : Nat} (hq : q < 8192) : regSys (0x410000 + 32 * q + 12) = some (.qcqbHi q) := by
  have hmod : (0x410000 + 32 * q + 12) % 32 = 12 := by omega
  have hdiv : (0x410000 + 32 * q + 12 - 0x410000) / 32 = q := by omega
  simp (disch := omega) only [regSys, if_neg, if_pos, hmod, hdiv]

theorem hiNext_digb {o n : Nat} (ho : o = 0x400200 + 16 * n) (hn : n < 4) : HiNext o (.digbHi n) :=
  ⟨by omega, by omega, regAt_of_regSys (ho ▸ regSys_digbHi hn)⟩

theorem hiNext_qsqb {o q : Nat} (ho : o = 0x410000 + 32 * q) (hq : q < 8192) : HiNext o (.qsqbHi q) :=
  ⟨by omega, by omega, regAt_of_regSys (ho ▸ regSys_qsqbHi hq)⟩

theorem hiNext_qcqb {o q : Nat} (ho : o = 0x410000 + 32 * q + 8) (hq : q < 8192) : HiNext o (.qcqbHi q) :=
  ⟨by omega, by omega, regAt_of_regSys (ho ▸ regSys_qcqbHi hq)⟩

/-! In each table most offsets hold a register that is no _LO, and some a pair at a fixed place; only what is repeated (rings,
queues, controllers, ports, engines) needs the place within its block. -/

theorem paired_regSys (o : Nat) : Paired o (regSys o) := by
  unfold regSys
  repeat' refine Paired.ite (fun h => ?_) ?_
  all_goals try exact .single rfl
  all_goals try (subst h; exact .pair rfl ⟨rfl, by omega, rfl⟩)
  case refine_2 => exact .none o
  · -- the digest rings
    split
    · exact .pair rfl (hiNext_digb (by omega) (by omega))
    · exact .single rfl
    · exact .single rfl
    · exact .none o
  · -- the queues
    dsimp only
    split
    · exact .pair rfl (hiNext_qsqb (by omega) (by omega))
    · exact .single rfl
    · exact .pair rfl (hiNext_qcqb (by omega) (by omega))
    all_goals exact .single rfl

theorem paired_regMem (o : Nat) : Paired o (regMem o) := by
  unfold regMem
  repeat' refine Paired.ite (fun h => ?_) ?_
  all_goals try exact .single rfl
  all_goals try exact .none o
  all_goals try (subst h; exact .pair rfl ⟨rfl, by omega, rfl⟩)
  all_goals -- a controller of tier 1 or 2, a port
    dsimp only
    split
    · exact .single rfl
    · exact .single rfl
    · exact .single rfl
    · exact .none o

theorem paired_regPwr (o : Nat) : Paired o (regPwr o) := by
  unfold regPwr
  repeat' refine Paired.ite (fun h => ?_) ?_
  all_goals try exact .single rfl
  all_goals try exact .none o
  all_goals try (subst h; exact .pair rfl ⟨rfl, by omega, rfl⟩)
  -- an attention engine
  dsimp only
  split
  · exact .single rfl
  · exact .single rfl
  · exact .single rfl
  · exact .none o

/-- A _LO register lies 4 bytes below its _HI (R13). -/
theorem hiNext_of_regAt {o : Nat} {lo hi : Reg} (hlo : regAt o = some lo) (hhi : lo.hi? = some hi) : HiNext o hi :=
  ((paired_regSys o).or ((paired_regMem o).or (paired_regPwr o))) lo hi hlo hhi

/-! ## Sparse tables and latches -/

theorem find?_smPut {α : Type} (m : SMap α) (n : Nat) (x : α) :
    (smPut m n x).find? (fun e => decide (e.1 = n)) = some (n, x) := by
  induction m with
  | nil => simp [smPut]
  | cons e r ih =>
    obtain ⟨k, v⟩ := e
    unfold smPut
    by_cases hlt : k < n
    · rw [if_pos hlt, List.find?_cons_of_neg (by simpa using Nat.ne_of_lt hlt), ih]
    · rw [if_neg hlt]
      by_cases heq : k = n
      · simp [heq]
      · simp [heq]

/-- The state in which the _HI above offset `o` is latched with a value (R13). -/
def latchHi (s : State) (o v : Nat) : State :=
  { s with hif := { s.hif with latch := smPut s.hif.latch (o + 4) (BitVec.ofNat 32 v) } }

@[simp] theorem latchHi_isReady (s : State) (o v : Nat) : (latchHi s o v).isReady = s.isReady := rfl

@[simp] theorem pairOf_withHiWait (s : State) (m : SMap W32) (r : Reg) : pairOf (withHiWait s m) r = pairOf s r := by
  cases r <;> rfl

@[simp] theorem pairWritable_withHiWait (s : State) (m : SMap W32) (r : Reg) :
    pairWritable (withHiWait s m) r = pairWritable s r := by
  cases r <;> rfl

/-! ## Reads of a pair (R13, R501) -/

/-- The read of a register of a pair clears nothing: no RC register is one of a pair (R502). -/
theorem regTake_of_pair {r : Reg} (h : r.hi?.isSome = true ∨ r.isHi = true) (s : State) (v : Nat) : s.regTake r v = s := by
  cases r with
  | sysCe | errlost | memCe | memRetry | skew | replay | srv | attBlocks | attSkipped | wcmiss =>
    simp [Reg.hi?, Reg.isHi] at h
  | _ => rfl

theorem regClear_of_pair {r : Reg} (h : r.hi?.isSome = true ∨ r.isHi = true) (s : State) : s.regClear r = s := by
  simp only [State.regClear, regTake_of_pair h]
  split
  · rfl
  · rename_i v hv
    have hview : (s.shownAs v).view = v := rfl
    rw [hview, ← hv]

theorem read32_lo {s : State} (hr : s.isReady = true) {o : Nat} {lo hi : Reg} (hlo : regAt o = some lo)
    (hhi : lo.hi? = some hi) : s.read32 o = (s.shown lo, latchHi s o (s.shown hi)) := by
  obtain ⟨hnot, -, -⟩ := isHi_of_hi? hhi
  simp [State.read32, decoded_of_ready hr, hlo, hhi, hnot, regClear_of_pair (r := lo) (.inl (by simp [hhi])), latchHi]

theorem read32_hi {s : State} (hr : s.isReady = true) {p : Nat} {lo hi : Reg} (hp : regAt p = some hi)
    (hhi : lo.hi? = some hi) {v : W32} (hl : s.hif.latch.find? (fun e => decide (e.1 = p)) = some (p, v)) :
    s.read32 p = (v.toNat, s) := by
  obtain ⟨-, hHi, hlast⟩ := isHi_of_hi? hhi
  simp [State.read32, decoded_of_ready hr, hp, hHi, hlast, hl, regClear_of_pair (r := hi) (.inr hHi)]

/-! ## Writes of a pair (R13, R501) -/

/-- What a pair holds after its halves are written together: a ring's base has no bits [11:0]. -/
def pairValue (lo : Reg) (h l : Nat) : W64 :=
  if lo = .recovLo then BitVec.ofNat 64 (h % 2 ^ 32 * 2 ^ 32 + l % 2 ^ 32) else baseOf h l

theorem pairOf_writePair {s : State} {lo : Reg} (hw : pairWritable s lo = true) (h l : Nat) :
    pairOf (s.writePair lo h l) lo = pairValue lo h l := by
  cases lo with
  | errbLo =>
    have hg : s.ownerGate = true := hw
    simp [State.writePair, State.gated, hg, pairOf, pairValue]
  | digbLo n =>
    have hg : s.ownerGate = true := hw
    simp [State.writePair, State.gated, hg, pairOf, pairValue, digRing_setDigRing]
  | qsqbLo q =>
    have hen : (s.queue q).en = false := by simpa [pairWritable] using hw
    simp [State.writePair, hen, pairOf, pairValue, queue_modQueue]
  | qcqbLo q =>
    have hen : (s.queue q).en = false := by simpa [pairWritable] using hw
    simp [State.writePair, hen, pairOf, pairValue, queue_modQueue]
  | recovLo =>
    have hrec : s.sec.recovery = true := hw
    simp [State.writePair, hrec, pairOf, pairValue]
  | _ => cases hw

/-- The pairs that can take writes. -/
theorem writable_cases {s : State} {lo : Reg} (hw : pairWritable s lo = true) :
    lo = .errbLo ∨ (∃ n, lo = .digbLo n) ∨ (∃ q, lo = .qsqbLo q) ∨ (∃ q, lo = .qcqbLo q) ∨ lo = .recovLo := by
  cases lo <;> simp [pairWritable] at hw ⊢

/-- A _HI takes writes when its _LO does. -/
theorem dropsHi_of_pairWritable {s : State} {lo hi : Reg} (hhi : lo.hi? = some hi) (hw : pairWritable s lo = true) :
    s.dropsHi hi = false := by
  rcases writable_cases hw with rfl | ⟨n, rfl⟩ | ⟨q, rfl⟩ | ⟨q, rfl⟩ | rfl <;> cases hhi <;>
    simpa [pairWritable, State.dropsHi] using hw

/-- A write of a pair's _HI waits for the next write of its _LO (R13). -/
theorem write32_hi {s : State} (hr : s.isReady = true) {p : Nat} {lo hi : Reg} (hp : regAt p = some hi)
    (hhi : lo.hi? = some hi) (hw : pairWritable s lo = true) (v : W32) :
    s.write32 p v = withHiWait s (smPut s.hif.hiWait p v) := by
  have hdrop : s.dropsHi hi = false := dropsHi_of_pairWritable hhi hw
  rcases writable_cases hw with rfl | ⟨n, rfl⟩ | ⟨q, rfl⟩ | ⟨q, rfl⟩ | rfl <;> cases hhi <;>
    simp [State.write32, decoded_of_ready hr, hp, hdrop, withHiWait]

/-- A write of a pair's _LO takes the _HI that waits, and both take effect together (R13). -/
theorem write32_lo {s : State} (hr : s.isReady = true) {o : Nat} {lo : Reg} (hlo : regAt o = some lo)
    (hw : pairWritable s lo = true) {x : W32} (hx : s.hif.hiWait.find? (fun e => decide (e.1 = o + 4)) = some (o + 4, x))
    (y : W32) :
    s.write32 o y = (withHiWait s (smDel s.hif.hiWait (o + 4))).writePair lo x.toNat y.toNat := by
  rcases writable_cases hw with rfl | ⟨n, rfl⟩ | ⟨q, rfl⟩ | ⟨q, rfl⟩ | rfl <;>
    simp [State.write32, decoded_of_ready hr, hlo, hx, withHiWait]

theorem pairValue_words (lo : Reg) (x y : W32) : pairValue lo x.toNat y.toNat =
    if lo = .recovLo then BitVec.ofNat 64 (x.toNat * 2 ^ 32 + y.toNat)
    else BitVec.ofNat 64 (x.toNat * 2 ^ 32 + y.toNat / 4096 * 4096) := by
  have hx : x.toNat % 2 ^ 32 = x.toNat := Nat.mod_eq_of_lt x.isLt
  have hy : y.toNat % 2 ^ 32 = y.toNat := Nat.mod_eq_of_lt y.isLt
  have hpage : y.toNat / 4096 * 4096 % 2 ^ 32 = y.toNat / 4096 * 4096 := Nat.mod_eq_of_lt (by omega)
  rw [pairValue, baseOf, hx, hy, hpage]

/-- The word without its bits [11:0]. -/
theorem and_pageMask (v : W64) : v &&& 0xFFFFFFFFFFFFF000 = BitVec.ofNat 64 (v.toNat / 4096 * 4096) := by
  have hmask : (0xFFFFFFFFFFFFF000 : W64) = BitVec.allOnes 64 <<< 12 := by decide
  apply BitVec.eq_of_toNat_eq
  rw [hmask, ← BitVec.shiftLeft_ushiftRight]
  simp [BitVec.toNat_shiftLeft, BitVec.toNat_ushiftRight, Nat.shiftLeft_eq, Nat.shiftRight_eq_div_pow]

theorem halves_join {n : Nat} (hn : n < 2 ^ 64) : n / 2 ^ 32 % 2 ^ 32 * 2 ^ 32 + n % 2 ^ 32 % 2 ^ 32 = n := by
  omega

theorem halves_join_page {n : Nat} (hn : n < 2 ^ 64) :
    n / 2 ^ 32 % 2 ^ 32 * 2 ^ 32 + n % 2 ^ 32 / 4096 * 4096 % 2 ^ 32 = n / 4096 * 4096 := by
  omega

theorem pairValue_halves (lo : Reg) (v : W64) : pairValue lo (hi32 v) (lo32 v) =
    if lo = .recovLo then v else v &&& 0xFFFFFFFFFFFFF000 := by
  simp only [pairValue, baseOf, hi32, lo32, halves_join v.isLt, halves_join_page v.isLt]
  rw [and_pageMask, BitVec.ofNat_toNat, BitVec.setWidth_eq]

/-! ## Accesses at an offset of the map -/

section AtOffset
variable {s : State} (hr : s.isReady = true) (hd : s.hif.d3hot = false) {o : Nat} (ho : o < 2 ^ 24)
include ho

theorem toNat_offset : (BitVec.ofNat 25 o).toNat = o := by
  rw [BitVec.toNat_ofNat]; omega

theorem accessOk_offset {n : Nat} (hn : n = 4 ∨ n = 8) (hal : o % n = 0) :
    accessOk { offset := BitVec.ofNat 25 o, bytes := n } = true :=
  (accessOk_iff _).mpr ⟨hn, by simpa only [toNat_offset ho] using hal⟩

include hr hd

theorem pairLoRead_word (hal : o % 4 = 0) : exec (.pairLoRead { offset := BitVec.ofNat 25 o, bytes := 4 }) s =
    .next ((s.read32 o).2.reply (s.read32 o).1) := by
  have e := barRead_word hr hd (a := { offset := BitVec.ofNat 25 o, bytes := 4 }) rfl
    (by simpa only [toNat_offset ho] using ho) (accessOk_offset ho (.inl rfl) hal) rfl
  rw [exec_pairLoRead, e, toNat_offset ho]

theorem pairLoRead_double (hal : o % 8 = 0) : exec (.pairLoRead { offset := BitVec.ofNat 25 o, bytes := 8 }) s =
    .next (((s.read32 o).2.read32 (o + 4)).2.reply ((s.read32 o).1 + 2 ^ 32 * ((s.read32 o).2.read32 (o + 4)).1)) := by
  have e := barRead_double hr hd (a := { offset := BitVec.ofNat 25 o, bytes := 8 }) rfl
    (by simpa only [toNat_offset ho] using ho) (accessOk_offset ho (.inr rfl) hal) rfl
  rw [exec_pairLoRead, e, toNat_offset ho]

theorem registerWrite_word (hal : o % 4 = 0) (v : W32) :
    exec (.registerWrite { offset := BitVec.ofNat 25 o, bytes := 4 } (v.setWidth 64)) s = .next (s.wakeUp.write32 o v) := by
  have e := barWrite_word hr hd (a := { offset := BitVec.ofNat 25 o, bytes := 4 }) rfl
    (by simpa only [toNat_offset ho] using ho) (accessOk_offset ho (.inl rfl) hal) rfl (v.setWidth 64)
  rw [exec_registerWrite, e, toNat_offset ho, BitVec.setWidth_setWidth_of_le _ (by decide), BitVec.setWidth_eq]

theorem registerWrite_pair (hal : o % 8 = 0) {lo hi : Reg} (hlo : regAt o = some lo) (hhi : lo.hi? = some hi) (v : W64) :
    exec (.registerWrite { offset := BitVec.ofNat 25 o, bytes := 8 } v) s =
      .next ((withHiWait s.wakeUp (smDel s.hif.hiWait (o + 4))).writePair lo (hi32 v) (lo32 v)) := by
  have e := barWrite_pair hr hd (a := { offset := BitVec.ofNat 25 o, bytes := 8 }) rfl
    (by simpa only [toNat_offset ho] using ho) (accessOk_offset ho (.inr rfl) hal) rfl
    (by simpa only [toNat_offset ho] using hlo) hhi v
  rw [exec_registerWrite, e, toNat_offset ho]

end AtOffset

/-! ## Register pairs -/

section Pairs
variable {s : State} (hr : s.isReady = true) (hd : s.hif.d3hot = false) {o : Nat} {lo hi : Reg} (hn : HiNext o hi)
include hr hd hn

theorem registerWrite_lo (hlo : regAt o = some lo) (hw : pairWritable s lo = true) {x : W32} {m : SMap W32}
    (hx : s.hif.hiWait = smPut m (o + 4) x) (y : W32) :
    exec (.registerWrite { offset := BitVec.ofNat 25 o, bytes := 4 } (y.setWidth 64)) s =
      .next ((withHiWait s.wakeUp (smDel s.hif.hiWait (o + 4))).writePair lo x.toNat y.toNat) := by
  obtain ⟨hal, hin, -⟩ := hn
  rw [registerWrite_word hr hd (by omega) hal,
    write32_lo (by simpa using hr) hlo (by simpa using hw) (by simpa [hx] using find?_smPut m (o + 4) x), wakeUp_hif]

variable (hhi : lo.hi? = some hi)
include hhi

/-- A read of _HI returns what the latest read of _LO latched, whatever has changed meanwhile (R13). -/
theorem pairLoRead_hi {x : Nat} {m : SMap W32} (hl : s.hif.latch = smPut m (o + 4) (BitVec.ofNat 32 x)) :
    exec (.pairLoRead { offset := BitVec.ofNat 25 (o + 4), bytes := 4 }) s = .next (s.reply (x % 2 ^ 32)) := by
  obtain ⟨hal, hin, hnext⟩ := hn
  rw [pairLoRead_word hr hd hin (by omega), read32_hi hr hnext hhi (hl ▸ find?_smPut m (o + 4) _), BitVec.toNat_ofNat]

theorem registerWrite_hi (hw : pairWritable s lo = true) (x : W32) :
    exec (.registerWrite { offset := BitVec.ofNat 25 (o + 4), bytes := 4 } (x.setWidth 64)) s =
      .next (withHiWait s.wakeUp (smPut s.hif.hiWait (o + 4) x)) := by
  obtain ⟨hal, hin, hnext⟩ := hn
  rw [registerWrite_word hr hd hin (by omega), write32_hi (by simpa using hr) hnext hhi (by simpa using hw), wakeUp_hif]

variable (hlo : regAt o = some lo)
include hlo

theorem pairLoRead_lo : exec (.pairLoRead { offset := BitVec.ofNat 25 o, bytes := 4 }) s =
    .next ((latchHi s o (s.shown hi)).reply (s.shown lo)) := by
  obtain ⟨hal, hin, -⟩ := hn
  rw [pairLoRead_word hr hd (by omega) hal, read32_lo hr hlo hhi]

theorem pairLoRead_both (hal : o % 8 = 0) : exec (.pairLoRead { offset := BitVec.ofNat 25 o, bytes := 8 }) s =
    .next ((latchHi s o (s.shown hi)).reply (s.shown lo + 2 ^ 32 * (s.shown hi % 2 ^ 32))) := by
  obtain ⟨-, hin, hnext⟩ := hn
  rw [pairLoRead_double hr hd (by omega) hal, read32_lo hr hlo hhi,
    read32_hi (by simpa using hr) hnext hhi (find?_smPut s.hif.latch (o + 4) _), BitVec.toNat_ofNat]

end Pairs

/-- Settles O37: the next state of each access to a pair is known from the latch and the value that waits. -/
theorem registerPairs : Obligations.RegisterPairs := by
  intro s o lo hi hr hd ho hlo hhi
  have hn : HiNext o hi := hiNext_of_regAt hlo hhi
  have ⟨_, _, hnext⟩ := hn
  refine ⟨hnext, ⟨_, pairLoRead_lo hr hd hn hhi hlo, rfl, fun u hru hdu hl => ?_⟩, fun x y hw => ?_,
    fun hal => ⟨?_, fun v hw => ?_⟩⟩
  · exact ⟨u, pairLoRead_hi hru hdu hn hhi hl, rfl⟩
  · refine ⟨_, registerWrite_hi hr hd hn hhi hw x, by simp, fun u hru hdu hwait hwu => ?_⟩
    refine ⟨_, registerWrite_lo hru hdu hn hlo hwu hwait y, ?_⟩
    rw [pairOf_writePair (by simpa using hwu), pairValue_words]
  · exact ⟨_, pairLoRead_both hr hd hn hhi hlo hal, rfl, rfl⟩
  · refine ⟨_, registerWrite_pair hr hd ho hal hlo hhi v, ?_⟩
    rw [pairOf_writePair (by simpa using hw), pairValue_halves]

end Sys2Proof.Proofs.Registers
end

section
/-! SUPPORT. Reckoner programming: the V instructions under NOVARY, and the barriers (04: R128, R143, R145). -/

namespace Sys2Proof.Proofs.Programming

open Sys2Proof Sys2Proof.Machine Sys2Proof.Safety Sys2Proof.Laws

/-! ## V instructions under NOVARY -/

theorem novary_of_image {s : State} {f n : Nat} {im : Image} (hn : s.regionOfFrame f = some n)
    (him : (s.region n).image = some im) (hv : im.novary = true) : s.novary f = true := by
  simp [State.novary, hn, him, hv]

/-- R128: a well-formed V instruction of a context that may run faults under NOVARY, whatever its body would do. -/
theorem issue_varyForbidden {s : State} {w : ThreadId} (h : MayRun s w) (hn : s.novary w.frame.val = true) {ok : Bool}
    (hok : ok = true) (body : Ctx → State) :
    s.issue w ok true body = .next (s.programFault w (s.ctx w).pc .varyForbidden 0) := by
  obtain ⟨hframe, hrun, hpc⟩ := h
  have hstore : ¬ 0x20000 ≤ (s.ctx w).pc.toNat := by omega
  simp [State.issue, Nat.not_le.mpr hframe, hrun, hstore, hok, hn]

/-- A V atomic faults before its lanes' addresses are judged. -/
theorem vecAtomic_varyForbidden {s : State} {w : ThreadId} {i : Insn} {back : Bool} {ty : Nat} (h : MayRun s w)
    (hn : s.novary w.frame.val = true)
    (hfits : ({ d := back, a := true, b := true, c := true, mask := true, v := true, types := [ty] } : Form).fits i = true)
    (f : Nat → Nat → Nat × Nat) :
    vecAtomic s w i back true ty f = .next (s.programFault w (s.ctx w).pc .varyForbidden 0) :=
  issue_varyForbidden h hn hfits _

/-- Settles O12: each of the six rows is well formed, and so faults at issue. -/
theorem varyForbidden : Obligations.VaryForbidden := by
  intro s w i h hv ⟨n, im, hregion, himage, hnovary⟩
  have hn := novary_of_image hregion himage hnovary
  refine ⟨fun himm hty => ?vaaddr, fun himm hty hd => ?vfaadd, fun hc hm hty himm => ?sclaim,
    fun ha hb hc hm hty himm => ?counters, fun ha hb hc hm hty himm => ?rdgc⟩
  case vaaddr => exact vecAtomic_varyForbidden h hn (by simp [Form.fits, hv, himm, hty]) _
  case vfaadd => exact vecAtomic_varyForbidden h hn (by simp [Form.fits, hv, himm, hty, hd]) _
  case sclaim =>
    change execSclaim w i s = _
    exact issue_varyForbidden h hn (by simp [Form.fits, hv, hc, hm, hty, himm]) _
  case counters =>
    have hok : cntForm i = true := by simp [cntForm, Form.fits, hv, ha, hb, hc, hm, hty, himm]
    change execRdcnt w i s = _ ∧ execRccnt w i s = _
    exact ⟨issue_varyForbidden h hn hok _, issue_varyForbidden h hn hok _⟩
  case rdgc =>
    change execRdgc w i s = _
    exact issue_varyForbidden h hn (by simp [Form.fits, hv, ha, hb, hc, hm, hty, himm]) _

/-! ## The table of barriers -/

/-- The state in which barrier b of frame f has a new count and arrivals. -/
def setBar (s : State) (f b : Nat) (x : Nat × List (Nat × Nat)) : State :=
  s.modFrame f fun fr => { fr with bars := smSet (0, []) fr.bars b x }

@[simp] theorem setBar_ctx (s : State) (f b : Nat) (x : Nat × List (Nat × Nat)) (v : ThreadId) :
    (setBar s f b x).ctx v = s.ctx v := by
  unfold State.ctx setBar
  rw [frame_modFrame]
  split
  next hf => rw [hf]
  next => rfl

@[simp] theorem bars_setBar (s : State) (f b : Nat) (x : Nat × List (Nat × Nat)) :
    smGet (0, []) ((setBar s f b x).frame f).bars b = x := by
  rw [setBar, frame_modFrame, if_pos rfl, smGet_smSet_self]

@[simp] theorem bars_setCtx (s : State) (w : ThreadId) (c : Ctx) (k : Nat) :
    ((s.setCtx w c).frame k).bars = (s.frame k).bars := by
  unfold State.setCtx
  rw [frame_modFrame]
  split
  next hk => rw [hk]
  next => rfl

@[simp] theorem noteBar_ctx (s : State) (f : Fin 384) (ps : List (Nat × Nat)) (v : ThreadId) :
    (s.noteBar f ps).ctx v = s.ctx v := rfl

/-! ## The release of a barrier's participants -/

/-- A context that has been released: it runs, at the next word. -/
def goOn (c : Ctx) : Ctx := { c with run := .running, pc := c.pc + 8 }

/-- The core and the context number of a context, as a barrier lists its arrivals. -/
def placeOf (v : ThreadId) : Nat × Nat := (v.core.val, v.ctx.val)

theorem placeOf_inj {u v : ThreadId} (hf : u.frame = v.frame) (h : placeOf u = placeOf v) : u = v := by
  obtain ⟨hcore, hctx⟩ := Prod.mk.inj h
  exact slotOf_inj hf (by rw [slotOf, slotOf, hcore, hctx])

theorem threadOf_placeOf (v : ThreadId) : threadOf v.frame ((placeOf v).1 * 16 + (placeOf v).2) = v := by
  have := v.core.isLt
  have := v.ctx.isLt
  refine placeOf_inj (u := threadOf v.frame _) rfl ?_
  simp only [placeOf, threadOf, Prod.mk.injEq]
  omega

theorem exists_placeOf (f : Fin 384) {p : Nat × Nat} (hp : p.1 < 4 ∧ p.2 < 16) :
    ∃ v : ThreadId, v.frame = f ∧ placeOf v = p :=
  ⟨⟨f, ⟨p.1, hp.1⟩, ⟨p.2, hp.2⟩⟩, rfl, rfl⟩

/-- A release does to one participant whose region runs what it does to each. -/
theorem releaseBar_cons {s : State} {v : ThreadId} (hpc : (s.ctx v).pc.toNat + 8 < 0x20000) (hrun : (s.ctx v).run ≠ .stopped)
    (ps : List (Nat × Nat)) :
    releaseBar v.frame s (placeOf v :: ps) = releaseBar v.frame (s.setCtx v (goOn (s.ctx v))) ps := by
  rw [releaseBar]
  simp only [threadOf_placeOf]
  rw [if_neg hrun]
  exact congrArg (releaseBar v.frame · ps) (retire_in s v { s.ctx v with run := .running } hpc)

/-- t is s with the contexts of frame f at the places listed released, and no other context, barrier or byte changed. -/
structure Released (f : Fin 384) (ps : List (Nat × Nat)) (s t : State) : Prop where
  mem : t.mem = s.mem
  bars : ∀ k, (t.frame k).bars = (s.frame k).bars
  ctx : ∀ v, t.ctx v = if v.frame = f ∧ placeOf v ∈ ps then goOn (s.ctx v) else s.ctx v

/-- Participants that are listed once each, whose region runs, are released independently of one another. -/
theorem released_releaseBar {f : Fin 384} {ps : List (Nat × Nat)} {s : State} (hnd : ps.Nodup)
    (hps : ∀ p ∈ ps, p.1 < 4 ∧ p.2 < 16)
    (hgo : ∀ v : ThreadId, v.frame = f → placeOf v ∈ ps → (s.ctx v).pc.toNat + 8 < 0x20000 ∧ (s.ctx v).run ≠ .stopped) :
    Released f ps s (releaseBar f s ps) := by
  induction ps generalizing s with
  | nil => exact ⟨rfl, fun _ => rfl, by simp [releaseBar]⟩
  | cons p ps ih =>
    obtain ⟨hp, hrest⟩ := List.nodup_cons.mp hnd
    obtain ⟨v, rfl, rfl⟩ := exists_placeOf f (hps p List.mem_cons_self)
    obtain ⟨hpc, hrun⟩ := hgo v rfl List.mem_cons_self
    rw [releaseBar_cons hpc hrun]
    have other {u : ThreadId} (hu : placeOf u ∈ ps) : u ≠ v := by
      rintro rfl
      exact hp hu
    obtain ⟨hmem, hbars, hctx⟩ := ih (s := s.setCtx v (goOn (s.ctx v))) hrest (fun q hq => hps q (List.mem_cons_of_mem _ hq))
      fun u huf hu => by
        rw [ctx_setCtx, if_neg (other hu)]
        exact hgo u huf (List.mem_cons_of_mem _ hu)
    refine ⟨hmem, fun k => by rw [hbars, bars_setCtx], fun u => ?_⟩
    rw [hctx, ctx_setCtx]
    by_cases huv : u = v
    · subst huv
      simp [hp]
    · have hne : u.frame = v.frame → placeOf u ≠ placeOf v := fun hf h => huv (placeOf_inj hf h)
      rw [if_neg huv]
      have hiff : (u.frame = v.frame ∧ placeOf u ∈ placeOf v :: ps) ↔ (u.frame = v.frame ∧ placeOf u ∈ ps) :=
        and_congr_right fun hf => List.mem_cons.trans (or_iff_right (hne hf))
      simp only [hiff]

/-! ## What a BAR does -/

theorem fld_count {x : BitVec 22} (h : x.toNat < 2048) : fld x 10 4 = x.toNat / 16 := by
  simp only [fld, bitsOf, Nat.shiftRight_eq_div_pow]
  omega

theorem fld_number (x : BitVec 22) : fld x 3 0 = x.toNat % 16 := by
  simp [fld, bitsOf]

/-- A context that may run meets a well-formed BAR (R127, Table 4-9) with count n for barrier b, at which cur stands: the count
that the barrier is bound to and its arrivals so far. -/
structure Arrives (s : State) (w : ThreadId) (i : Insn) (n b : Nat) (cur : Nat × List (Nat × Nat)) : Prop where
  mayRun : MayRun s w
  fits : ({ imm := true } : Form).fits i = true
  small : i.imm.toNat < 2048
  count : i.imm.toNat / 16 = n
  number : i.imm.toNat % 16 = b
  one_le : 1 ≤ n
  le : n ≤ 64
  found : smGet (0, []) (s.frame w.frame.val).bars b = cur

namespace Arrives
variable {s : State} {w : ThreadId} {i : Insn} {n b : Nat} {cur : Nat × List (Nat × Nat)}

theorem boundTo (h : cur.1 = 0 ∨ cur.1 = n) : ¬(cur.1 ≠ 0 ∧ cur.1 ≠ n) :=
  fun ⟨h0, hne⟩ => h.elim h0 hne

theorem exec_bar (h : Arrives s w i n b cur) : exec (.bar w i) s = .next (
    if cur.1 ≠ 0 ∧ cur.1 ≠ n then s.programFault w (s.ctx w).pc .barrierMismatch 0
    else if (cur.2 ++ [placeOf w]).length = n then
      releaseBar w.frame ((setBar s w.frame.val b (0, [])).noteBar w.frame (cur.2 ++ [placeOf w])) (cur.2 ++ [placeOf w])
    else (setBar s w.frame.val b (n, cur.2 ++ [placeOf w])).setCtx w
      { s.ctx w with run := .blocked (.bar ⟨b % 16, Nat.mod_lt _ (by decide)⟩) }) := by
  obtain ⟨hrun, hfits, hsmall, rfl, rfl, h1, h64, rfl⟩ := h
  change execBar w i s = _
  unfold execBar
  rw [issue_run hrun _ _ _ (by simp [hfits, hsmall, fld_count hsmall, h1, h64]) (.inl rfl)]
  simp only [fld_count hsmall, fld_number]
  rfl

/-- R145: an arrival with another count than the first. -/
theorem mismatch (h : Arrives s w i n b cur) (h0 : cur.1 ≠ 0) (hne : cur.1 ≠ n) :
    exec (.bar w i) s = .next (s.programFault w (s.ctx w).pc .barrierMismatch 0) := by
  rw [h.exec_bar, if_pos ⟨h0, hne⟩]

/-- R143: an arrival that is not the last. -/
theorem waits (h : Arrives s w i n b cur) (hbound : cur.1 = 0 ∨ cur.1 = n) (hlen : (cur.2 ++ [placeOf w]).length ≠ n) :
    exec (.bar w i) s = .next ((setBar s w.frame.val b (n, cur.2 ++ [placeOf w])).setCtx w
      { s.ctx w with run := .blocked (.bar ⟨b % 16, Nat.mod_lt _ (by decide)⟩) }) := by
  rw [h.exec_bar, if_neg (boundTo hbound), if_neg hlen]

/-- R143: the last arrival. -/
theorem releases (h : Arrives s w i n b cur) (hbound : cur.1 = 0 ∨ cur.1 = n) (hlen : (cur.2 ++ [placeOf w]).length = n) :
    exec (.bar w i) s = .next (releaseBar w.frame
      ((setBar s w.frame.val b (0, [])).noteBar w.frame (cur.2 ++ [placeOf w])) (cur.2 ++ [placeOf w])) := by
  rw [h.exec_bar, if_neg (boundTo hbound), if_pos hlen]

end Arrives

/-- Settles O22, by the three outcomes of a BAR. -/
theorem barrier : Obligations.Barrier := by
  intro s w i h hv hd ha hb hc hm hty himm c f n b cur arrived h1 h64
  have harr : Arrives s w i n b cur :=
    ⟨h, by simp [Form.fits, hv, hd, ha, hb, hc, hm, hty], himm, rfl, rfl, h1, h64, rfl⟩
  refine ⟨harr.mismatch, fun hbound hlen => ⟨_, harr.waits hbound hlen, ?waits⟩,
    fun hbound hlen hnd hps hgo => ⟨_, harr.releases hbound hlen, ?released⟩⟩
  case waits =>
    refine ⟨⟨_, by rw [ctx_setCtx, if_pos rfl], Nat.mod_mod ..⟩, fun v hne => ?_, ?_, rfl⟩
    · rw [ctx_setCtx, if_neg hne, setBar_ctx]
    · rw [bars_setCtx, bars_setBar]; rfl
  case released =>
    obtain ⟨hmem, hbars, hctx⟩ := released_releaseBar (s := (setBar s f b (0, [])).noteBar w.frame arrived) hnd hps
      fun v hf hin => by
        rw [noteBar_ctx, setBar_ctx]
        exact hgo v hf hin
    refine ⟨?_, hmem, fun v => ?_⟩
    · exact (congrArg (smGet (0, []) · b) (hbars f)).trans (bars_setBar ..)
    · exact (hctx v).trans (by rw [noteBar_ctx, setBar_ctx]; rfl)

end Sys2Proof.Proofs.Programming
end
